-- ==== Sys2Proof/Word.lean ====
section
/-! DEFINITION. The word types of the Bentis X7 and the sparse tables the state is built from. -/
namespace Sys2Proof

/-- A byte of memory. -/
abbrev Byte := BitVec 8
/-- A 32-bit register word (06 R108). -/
abbrev Word := BitVec 32
/-- A 64-bit value: a register pair, an instruction word, an address register. -/
abbrev DWord := BitVec 64
/-- One bit per lane of a group of up to 64 lanes (06 R111). -/
abbrev Lanes := BitVec 64

/-- A sparse table: keys strictly rising, and no entry that equals what an unlisted key reads as. -/
abbrev SMap (α : Type) := List (Nat × α)

end Sys2Proof
end

