-- ==== Sys2Proof/Syntax.lean ====
section
/-! DEFINITION. The syntax: operand fields, modifiers, the seven word formats (08 R140) and the ONE inductive
Instr with a constructor for every row of the table of operations and events. -/
namespace Sys2Proof

/-! ## Operand fields (08 R142, 10 R170, R171) -/

/-- GUARD and GNEG (R141): always, a lane predicate, or a uniform predicate; `neg` inverts it. -/
inductive Guard where
  | always
  | lane (n : Fin 96) (neg : Bool)
  | uni (n : Fin 16) (neg : Bool)
  deriving DecidableEq, Repr

/-- The special registers that R115 marks L or S: they vary by lane or by slice. -/
inductive LaneSpecial where
  | laneid | sliceid | teamlane | gangkey | pathid | depth
  deriving DecidableEq, Repr

/-- The special registers of R115 that read the same in every lane of the group. -/
inductive UniSpecial where
  | grpid | grpw | ngrp | teamidX | teamidY | teamidZ | griddimX | griddimY | griddimZ
  | teamdimX | teamdimY | teamdimZ | teamh | pairside | coreno | dieno | slotno
  | execlo | exechi | regcnt | spadsz | accrows | arglo | arghi | launchno | prio | vfid
  | clklo | clkhi | therm | droopcnt | trapcode | trappclo | trappchi | traparg
  | peerid | domsize | bindlo | bindhi | wdog | stepping | resumes
  deriving DecidableEq, Repr

/-- A uniform position (R171): a uniform register, a latch, a token, a uniform special register or a constant. -/
inductive USrc where
  | s (n : Fin 64)
  | t (n : Fin 8)
  | k (n : Fin 8)
  | x (r : UniSpecial)
  | nat (n : Fin 64)
  | neg (n : Fin 32)
  | flt (n : Fin 32)
  deriving DecidableEq, Repr

/-- A lane position: every source code of R142. `neg n` is the constant n − 32; `flt n` is code 0x1E0 + n. -/
inductive Src where
  | v (n : Fin 256)
  | l (r : LaneSpecial)
  | u (a : USrc)
  deriving DecidableEq, Repr

/-- A 64-bit uniform position: the pair s2n:s2n+1, or a constant (R142). -/
inductive USrc64 where
  | s (n : Fin 32)
  | nat (n : Fin 64)
  | neg (n : Fin 32)
  | flt (n : Fin 32)
  deriving DecidableEq, Repr

/-- A 64-bit lane position: the pair v2n:v2n+1, or a 64-bit uniform operand (R142). -/
inductive Src64 where
  | v (n : Fin 128)
  | u (a : USrc64)
  deriving DecidableEq, Repr

/-- The base address of a lane access: an even vector or uniform pair (14 R256). -/
inductive Base where
  | v (n : Fin 128)
  | s (n : Fin 32)
  deriving DecidableEq, Repr

/-- The address operand of BR.CALLV (10 R187): a vector pair, a uniform pair, or an integer constant. -/
inductive CallSrc where
  | v (n : Fin 128)
  | s (n : Fin 32)
  | nat (n : Fin 64)
  | neg (n : Fin 32)
  deriving DecidableEq, Repr

/-- The operand of SY.TRET (10 R192): the constant 0, or an even pair. -/
inductive RetSrc where
  | next
  | s (n : Fin 32)
  deriving DecidableEq, Repr

/-- A DV operand (02 R54): a uniform register or an integer constant. -/
inductive IntSrc where
  | s (n : Fin 64)
  | nat (n : Fin 64)
  | neg (n : Fin 32)
  deriving DecidableEq, Repr

/-- The address operand of DV.REG (02 R54, R55): an even pair, or an integer constant. -/
inductive IntPair where
  | s (n : Fin 32)
  | nat (n : Fin 64)
  | neg (n : Fin 32)
  deriving DecidableEq, Repr

/-- A predicate field as a source (R170). -/
inductive PSrc where
  | p (n : Fin 96)
  | q (n : Fin 16)
  | no
  | yes
  deriving DecidableEq, Repr

/-- A predicate field that takes q codes, true and false only (R173, R175). -/
inductive QSrc where
  | q (n : Fin 16)
  | no
  | yes
  deriving DecidableEq, Repr

/-- A 32-bit destination with the WS bit (R146): the register named by D, or the latch alone. -/
inductive Dest (δ : Type) where
  | reg (d : δ)
  | latch
  deriving DecidableEq, Repr

/-- The destination of CL.RFL, RDL and RED (11 R219): a vector or a uniform register. -/
inductive VSReg where
  | v (n : Fin 256)
  | s (n : Fin 64)
  deriving DecidableEq, Repr

/-- The destination of an atomic (14 R263): a vector register, or `_`. -/
inductive AtDest where
  | v (n : Fin 256)
  | none
  deriving DecidableEq, Repr

/-- Scopes (00 R6, 08 R140). -/
inductive Scope where
  | grp | team | dev | sys
  deriving DecidableEq, Repr

/-! ## Modifiers -/

/-- Conditions of SI.CMP (10 R174). -/
inductive Cond where
  | eq | ne | slt | sle | sgt | sge | ult | ule | ugt | uge
  deriving DecidableEq, Repr
/-- MOD of SI.CMP: the condition, on 32-bit values or on even pairs. -/
structure SiCond where
  wide : Bool
  cond : Cond
  deriving DecidableEq, Repr
/-- Signedness of DOT4 and DOT2 (11 R203). -/
inductive DotMode where
  | ss | uu | su
  deriving DecidableEq, Repr
/-- Sign modifiers of VF, VH and VD (11 R205). -/
structure FMod where
  na : Bool
  nb : Bool
  nc : Bool
  aa : Bool
  bf : Bool
  deriving DecidableEq, Repr
/-- The conversions of CV.CVT, `dst` then `src` (11 R210). -/
inductive Cvt where
  | f32F16 | f32Bf16 | f32E4m3 | f32E5m2 | f16F32 | bf16F32 | e4m3F32 | e5m2F32
  | f64F32 | f32F64 | f32I32 | f32N32 | i32F32 | n32F32 | f64I32 | f64N32
  | i32F64 | n32F64 | f64I64 | i64F64 | i16I32 | n16N32 | i8I32 | n8N32
  | e4m3F16 | e5m2F16 | e4m3Bf16 | e5m2Bf16
  deriving DecidableEq, Repr
/-- CV.PACK forms (11 R212). -/
inductive PackKind where
  | h | b | n
  deriving DecidableEq, Repr
/-- CV.UNPK forms (11 R212). -/
inductive UnpkKind where
  | z16 | s16 | z8 | s8 | z4
  deriving DecidableEq, Repr
/-- CV.DQNT result formats (11 R214). -/
inductive DqKind where
  | f32 | f16 | bf
  deriving DecidableEq, Repr
/-- CV.QF8 kinds (11 R214). -/
inductive Qf8Kind where
  | fmt | e4m3 | e5m2
  deriving DecidableEq, Repr
/-- CV.SRND formats (11 R215). -/
inductive SrndKind where
  | f16 | bf | e4m3 | e5m2
  deriving DecidableEq, Repr
/-- VC.CMP types (11 R216). -/
inductive CmpType where
  | i32 | n32 | f32 | f64
  deriving DecidableEq, Repr
/-- VC.CMP conditions (11 R216). -/
inductive CmpCond where
  | eq | ne | lt | le | gt | ge | un | or
  deriving DecidableEq, Repr
/-- MOD of VC.CMP. -/
structure VcMod where
  ty : CmpType
  cond : CmpCond
  deriving DecidableEq, Repr
/-- VC.CLASS formats (11 R217). -/
inductive ClassFmt where
  | f32 | f64 | f16 | bf
  deriving DecidableEq, Repr
/-- Lane-index modes of CL.SHFL (11 R220). -/
inductive ShflMode where
  | idx | up | dn | xor
  deriving DecidableEq, Repr
/-- MOD of CL.SHFX: the mode, and log2 of the segment. -/
structure ShfxMod where
  mode : ShflMode
  g : Fin 8
  deriving DecidableEq, Repr
/-- Operators of CL.RED and CL.SCAN (11 R222). -/
inductive RedOp where
  | add | fadd | min | max | minu | maxu | fmin | fmax | and | or | xor
  deriving DecidableEq, Repr
/-- Element types of PL.FLD and PL.SCN (12 R233). -/
inductive FoldType where
  | i | n | f | bf | e4m3 | e5m2
  deriving DecidableEq, Repr
/-- Operators of PL.FLD and PL.SCN (12 R233). -/
inductive FoldOp where
  | add | max | min
  deriving DecidableEq, Repr
/-- MOD of PL.FLD and PL.SCN. -/
structure FoldMod where
  ty : FoldType
  op : FoldOp
  deriving DecidableEq, Repr
/-- Axes of a plane (08 R140). -/
inductive Axis where
  | x | y | s0 | s1
  deriving DecidableEq, Repr
/-- The EDGE field of a plane word (08 R140): the fold word's own, or an override. -/
inductive EdgeSel where
  | own | zero | wrap | clamp | mirror
  deriving DecidableEq, Repr
/-- Size codes of loads (14 R256). -/
inductive Size where
  | z8 | s8 | z16 | s16 | b32 | b64 | b128
  deriving DecidableEq, Repr
/-- Size codes of stores (14 R256). -/
inductive StSize where
  | b8 | b16 | b32 | b64 | b128
  deriving DecidableEq, Repr
/-- Contribution formats of AT.XADD (08 R148). -/
inductive XFmt where
  | f32 | f16 | bf
  deriving DecidableEq, Repr
/-- SARG of SN.FENCE (14 R265). -/
structure FenceMod where
  acq : Bool
  rel : Bool
  scope : Scope
  deriving DecidableEq, Repr
/-- A set of the paths L, G, C, M, F (14 R265). -/
structure PathSet where
  l : Bool
  g : Bool
  c : Bool
  m : Bool
  f : Bool
  deriving DecidableEq, Repr
/-- SARG of SN.XF. -/
structure XfMod where
  src : PathSet
  dst : PathSet
  deriving DecidableEq, Repr
/-- SARG of SN.BAR. -/
structure BarMod where
  x : Bool
  bar : Fin 16
  deriving DecidableEq, Repr
/-- Copy sizes of CP.LANE (14 R271). -/
inductive CopySize where
  | b4 | b8 | b16 | b32
  deriving DecidableEq, Repr
/-- Matrix types (18 R291). -/
inductive MxType where
  | e4m3 | e4e5 | e5e4 | e5m2 | bf16 | f16 | nq4 | nq4e5
  deriving DecidableEq, Repr
/-- Casts of AX.DRN and AX.FIL (18 R297). -/
inductive AxCvt where
  | f32 | f16 | bf16 | e4m3 | e5m2
  deriving DecidableEq, Repr
/-- MOD8 of AX.DRN. -/
structure DrnMod where
  sat : Bool
  clr : Bool
  freg : Fin 8
  cvt : AxCvt
  deriving DecidableEq, Repr
/-- MOD8 of AX.FIL: the cast (not E5M2) and the fold register. -/
structure FilMod where
  freg : Fin 8
  cvt : AxCvt
  deriving DecidableEq, Repr
/-- MOD8 of FB.PUT (18 R300). -/
structure PutMod where
  st : Bool
  mc : Bool
  sp : Bool
  deriving DecidableEq, Repr
/-- Element types of FB.RED (18 R303). -/
inductive RedType where
  | f32 | bf16 | f16 | i32 | xc
  deriving DecidableEq, Repr
/-- MOD8 of FB.RED. -/
structure FbRedMod where
  e5 : Bool
  rs : Bool
  d : Bool
  ty : RedType
  deriving DecidableEq, Repr
/-- The FUNC subfield of XRD: clearing form or not (08 R148). -/
abbrev Clr := Bool

/-! ## Formats (08 R140) -/

/-- Format A: three sources. `c` and `q` are the chain and safe-point bits. -/
structure FmtA (δ α β γ μ : Type) where
  c : Bool
  q : Bool
  g : Guard
  d : δ
  a : α
  b : β
  cc : γ
  mod : μ
  deriving DecidableEq, Repr
/-- Format I: immediate. -/
structure FmtI (δ α : Type) where
  c : Bool
  q : Bool
  g : Guard
  d : δ
  a : α
  imm : BitVec 23
  deriving DecidableEq, Repr
/-- Format S: system. -/
structure FmtS (δ α σ : Type) where
  c : Bool
  q : Bool
  g : Guard
  d : δ
  a : α
  sarg : σ
  deriving DecidableEq, Repr
/-- Format M: memory. `ord` is ORD with its SCOPE; an unordered access has SCOPE 0. -/
structure FmtM (δ α β σ : Type) where
  c : Bool
  q : Bool
  g : Guard
  ord : Option Scope
  d : δ
  a : α
  b : β
  sub : σ
  off : BitVec 13
  deriving DecidableEq, Repr
/-- Format B: branch. KIND is a fetch hint. -/
structure FmtB where
  c : Bool
  q : Bool
  g : Guard
  kind : Fin 3
  tgt : BitVec 24
  join : BitVec 16
  deriving DecidableEq, Repr
/-- Format P: plane. `down` is DIR. -/
structure FmtP (μ : Type) where
  c : Bool
  q : Bool
  g : Guard
  d : Fin 256
  a : Fin 256
  freg : Fin 8
  axis : Axis
  down : Bool
  dist : BitVec 8
  edge : EdgeSel
  mod : μ
  deriving DecidableEq, Repr
/-- Format X: engine. `trig` absent is TRIG 8. -/
structure FmtX (α β γ μ : Type) where
  c : Bool
  q : Bool
  g : Guard
  tag : Fin 8
  trig : Option (Fin 8)
  a : α
  b : β
  cc : γ
  mod : μ
  deriving DecidableEq, Repr

/-! ## What the events carry -/

/-- PCI Express AtomicOps (01 R33). -/
inductive HostAtomic where
  | fetchAdd | swap | cas
  deriving DecidableEq, Repr
/-- What an ATS completion grants (01 R29): the host frame of a 4 KiB page, and write permission. -/
structure AtsGrant where
  frame : Nat
  w : Bool
  x : Bool
  deriving DecidableEq, Repr
/-- Answers to a page request (01 R30). -/
inductive PriResponse where
  | success | invalid | failure
  deriving DecidableEq, Repr
/-- A unit of storage that a code protects (01 R9, R10, 03 R62, 21 R327): a 64-byte block of far memory or a
32-bit word of near memory or the window, named by its physical address; a scratchpad word or an accumulator
word of a team (its half, and its number in the half); a vector register word; a word of an instruction line; a word of the
image of a saved team. -/
inductive ErrUnit where
  | dev (pa : Nat)
  | spad (team side word : Nat)
  | acc (team side word : Nat)
  | vreg (grp lane reg : Nat)
  /-- A word of a group's uniform state, or of a path's, in a saved team's image (23 R356), by its key: 65,536 + n for sn,
  65,664 + n for pn, 65,760 for q0 to q15, 65,768 + n for tag n, 65,776 + n for fold register n, 65,784 and 65,785 for ABASE and
  ALIMIT, 2^20 + n for what path n always saves. -/
  | state (grp key : Nat)
  /-- The word of a barrier in such an image. -/
  | bar (team n : Nat)
  | line (core index word : Nat)
  deriving DecidableEq, Repr
/-- Atomic operations (08 R148). -/
inductive AtOp where
  | add | sub | min | max | minu | maxu | and | or | xor | xchg | cas | fadd
  deriving DecidableEq, Repr
/-- What a fabric packet does where it lands (18 R302 to R310). -/
inductive PktBody where
  | put (pa : Nat) (data : List Byte)
  | spad (handle : Word) (off : Nat) (data : List Byte)
  | red (ty : RedType) (pa : Nat) (data : List Byte)
  | arrive (handle : Word) (bar : Nat)
  | get (pa n : Nat)
  | atomic (op : AtOp) (wide : Bool) (pa : Nat) (x y : DWord) (rm : BitVec 6)
  | xadd (fmt : XFmt) (pa : Nat) (x : Word)
  | xrd (clr : Bool) (pa : Nat)
  | reply (data : List Byte)
  deriving DecidableEq, Repr
/-- A fabric packet: sender, receiver, number of the sending function (04 R89), the sender's operation, and
which bytes of its payload are poisoned (01 R36). -/
structure Packet where
  src : Nat
  dst : Nat
  fn : Nat
  op : Nat
  body : PktBody
  poison : List Bool
  deriving DecidableEq, Repr

/-! ## Instructions -/

/-- One constructor for every row of the table: the instruction words, then the operations and events. -/
inductive Instr where
  -- SY, R188
  | syNop (w : FmtS Unit Unit Unit)
  | syExit (w : FmtS Unit Unit Unit)
  | syTrap (w : FmtS Unit USrc Bool)
  | syTret (w : FmtS Unit RetSrc Unit)
  | syYield (w : FmtS Unit Unit Unit)
  | sySleep (w : FmtS Unit USrc Unit)
  | syBkpt (w : FmtS Unit Unit Unit)
  | syGets (w : FmtS (Fin 64) Unit Unit)
  | sySets (w : FmtS Unit USrc Unit)
  | sySfmt (w : FmtS Unit USrc Unit)
  | sySetx (w : FmtS Unit USrc64 Unit)
  | syGetx (w : FmtS (Fin 32) Unit Unit)
  | syHalt (w : FmtS Unit Unit Unit)
  -- BR, R179
  | brBra (w : FmtB)
  | brBrv (w : FmtB)
  | brJoin (w : FmtB)
  | brRegang (w : FmtA Unit USrc Unit Unit Unit)
  | brCall (w : FmtB)
  | brCallv (w : FmtA (Fin 32) CallSrc Unit Unit Unit)
  | brRet (w : FmtA Unit (Fin 32) Unit Unit Unit)
  | brBrx (w : FmtA Unit USrc (Fin 32) USrc Unit)
  -- SI, R173
  | siAdd (w : FmtA (Dest (Fin 64)) USrc USrc Unit Unit)
  | siSub (w : FmtA (Dest (Fin 64)) USrc USrc Unit Unit)
  | siMul (w : FmtA (Dest (Fin 64)) USrc USrc Unit Unit)
  | siMulh (w : FmtA (Dest (Fin 64)) USrc USrc Unit Bool)
  | siMad (w : FmtA (Dest (Fin 64)) USrc USrc USrc Unit)
  | siAnd (w : FmtA (Dest (Fin 64)) USrc USrc Unit Unit)
  | siOr (w : FmtA (Dest (Fin 64)) USrc USrc Unit Unit)
  | siXor (w : FmtA (Dest (Fin 64)) USrc USrc Unit Unit)
  | siShl (w : FmtA (Dest (Fin 64)) USrc USrc Unit Unit)
  | siShr (w : FmtA (Dest (Fin 64)) USrc USrc Unit Unit)
  | siSra (w : FmtA (Dest (Fin 64)) USrc USrc Unit Unit)
  | siMin (w : FmtA (Dest (Fin 64)) USrc USrc Unit Unit)
  | siMax (w : FmtA (Dest (Fin 64)) USrc USrc Unit Unit)
  | siMinu (w : FmtA (Dest (Fin 64)) USrc USrc Unit Unit)
  | siMaxu (w : FmtA (Dest (Fin 64)) USrc USrc Unit Unit)
  | siClz (w : FmtA (Dest (Fin 64)) USrc Unit Unit Unit)
  | siPopc (w : FmtA (Dest (Fin 64)) USrc Unit Unit Unit)
  | siSel (w : FmtA (Dest (Fin 64)) USrc USrc QSrc Unit)
  | siAdd64 (w : FmtA (Fin 32) USrc64 USrc64 Unit Unit)
  | siSub64 (w : FmtA (Fin 32) USrc64 USrc64 Unit Unit)
  | siMul64 (w : FmtA (Fin 32) USrc64 USrc64 Unit Unit)
  | siCmp (w : FmtA (Fin 16) USrc USrc Unit SiCond)
  -- SM, R175
  | smMov (w : FmtA (Dest (Fin 64)) USrc Unit Unit Unit)
  | smMovi (w : FmtI (Dest (Fin 64)) Unit)
  | smMovh (w : FmtI (Fin 32) Bool)
  | smQand (w : FmtA (Fin 16) QSrc QSrc Unit Unit)
  | smQor (w : FmtA (Fin 16) QSrc QSrc Unit Unit)
  | smQxor (w : FmtA (Fin 16) QSrc QSrc Unit Unit)
  | smQnot (w : FmtA (Fin 16) QSrc Unit Unit Unit)
  | smQmov (w : FmtA (Fin 16) USrc Unit Unit Unit)
  -- VI, R201
  | viAdd (w : FmtA (Dest (Fin 256)) Src Src Unit Unit)
  | viSub (w : FmtA (Dest (Fin 256)) Src Src Unit Unit)
  | viMul (w : FmtA (Dest (Fin 256)) Src Src Unit Unit)
  | viMulh (w : FmtA (Dest (Fin 256)) Src Src Unit Unit)
  | viMulhu (w : FmtA (Dest (Fin 256)) Src Src Unit Unit)
  | viMad (w : FmtA (Dest (Fin 256)) Src Src Src Unit)
  | viMad64 (w : FmtA (Fin 128) Src Src Src64 Bool)
  | viAnd (w : FmtA (Dest (Fin 256)) Src Src Unit Unit)
  | viOr (w : FmtA (Dest (Fin 256)) Src Src Unit Unit)
  | viXor (w : FmtA (Dest (Fin 256)) Src Src Unit Unit)
  | viNot (w : FmtA (Dest (Fin 256)) Src Unit Unit Unit)
  | viShl (w : FmtA (Dest (Fin 256)) Src Src Unit Unit)
  | viShr (w : FmtA (Dest (Fin 256)) Src Src Unit Unit)
  | viSra (w : FmtA (Dest (Fin 256)) Src Src Unit Unit)
  | viMin (w : FmtA (Dest (Fin 256)) Src Src Unit Unit)
  | viMax (w : FmtA (Dest (Fin 256)) Src Src Unit Unit)
  | viMinu (w : FmtA (Dest (Fin 256)) Src Src Unit Unit)
  | viMaxu (w : FmtA (Dest (Fin 256)) Src Src Unit Unit)
  | viAbs (w : FmtA (Dest (Fin 256)) Src Unit Unit Unit)
  | viNeg (w : FmtA (Dest (Fin 256)) Src Unit Unit Unit)
  | viAdds (w : FmtA (Dest (Fin 256)) Src Src Unit Bool)
  | viSubs (w : FmtA (Dest (Fin 256)) Src Src Unit Bool)
  | viClz (w : FmtA (Dest (Fin 256)) Src Unit Unit Unit)
  | viPopc (w : FmtA (Dest (Fin 256)) Src Unit Unit Unit)
  | viBfe (w : FmtA (Dest (Fin 256)) Src Src Unit Bool)
  | viBfi (w : FmtA (Dest (Fin 256)) Src Src Src Unit)
  | viSel (w : FmtA (Dest (Fin 256)) Src Src PSrc Unit)
  | viDot4 (w : FmtA (Dest (Fin 256)) Src Src Src DotMode)
  | viDot2 (w : FmtA (Dest (Fin 256)) Src Src Src DotMode)
  | viAdd64 (w : FmtA (Fin 128) Src64 Src64 Unit Unit)
  | viSub64 (w : FmtA (Fin 128) Src64 Src64 Unit Unit)
  -- VJ, R204
  | vjAddi (w : FmtI (Dest (Fin 256)) Src)
  | vjAndi (w : FmtI (Dest (Fin 256)) Src)
  | vjOri (w : FmtI (Dest (Fin 256)) Src)
  | vjXori (w : FmtI (Dest (Fin 256)) Src)
  | vjShli (w : FmtI (Dest (Fin 256)) Src)
  | vjMovi (w : FmtI (Dest (Fin 256)) Unit)
  -- VF, R206
  | vfAdd (w : FmtA (Dest (Fin 256)) Src Src Unit FMod)
  | vfSub (w : FmtA (Dest (Fin 256)) Src Src Unit FMod)
  | vfMul (w : FmtA (Dest (Fin 256)) Src Src Unit FMod)
  | vfFma (w : FmtA (Dest (Fin 256)) Src Src Src FMod)
  | vfMin (w : FmtA (Dest (Fin 256)) Src Src Unit FMod)
  | vfMax (w : FmtA (Dest (Fin 256)) Src Src Unit FMod)
  | vfMinn (w : FmtA (Dest (Fin 256)) Src Src Unit FMod)
  | vfMaxn (w : FmtA (Dest (Fin 256)) Src Src Unit FMod)
  | vfFloor (w : FmtA (Dest (Fin 256)) Src Unit Unit FMod)
  | vfCeil (w : FmtA (Dest (Fin 256)) Src Unit Unit FMod)
  | vfTrunc (w : FmtA (Dest (Fin 256)) Src Unit Unit FMod)
  | vfRint (w : FmtA (Dest (Fin 256)) Src Unit Unit FMod)
  | vfFract (w : FmtA (Dest (Fin 256)) Src Unit Unit FMod)
  | vfLdexp (w : FmtA (Dest (Fin 256)) Src Src Unit FMod)
  | vfGetexp (w : FmtA (Dest (Fin 256)) Src Unit Unit FMod)
  | vfGetmant (w : FmtA (Dest (Fin 256)) Src Unit Unit FMod)
  -- VH, R208
  | vhAdd (w : FmtA (Dest (Fin 256)) Src Src Unit FMod)
  | vhSub (w : FmtA (Dest (Fin 256)) Src Src Unit FMod)
  | vhMul (w : FmtA (Dest (Fin 256)) Src Src Unit FMod)
  | vhFma (w : FmtA (Dest (Fin 256)) Src Src Src FMod)
  | vhMin (w : FmtA (Dest (Fin 256)) Src Src Unit FMod)
  | vhMax (w : FmtA (Dest (Fin 256)) Src Src Unit FMod)
  | vhDot2 (w : FmtA (Dest (Fin 256)) Src Src Src FMod)
  -- VD, R209
  | vdAdd (w : FmtA (Fin 128) Src64 Src64 Unit FMod)
  | vdSub (w : FmtA (Fin 128) Src64 Src64 Unit FMod)
  | vdMul (w : FmtA (Fin 128) Src64 Src64 Unit FMod)
  | vdFma (w : FmtA (Fin 128) Src64 Src64 Src64 FMod)
  | vdMin (w : FmtA (Fin 128) Src64 Src64 Unit FMod)
  | vdMax (w : FmtA (Fin 128) Src64 Src64 Unit FMod)
  | vdRint (w : FmtA (Fin 128) Src64 Unit Unit FMod)
  -- CV, R210
  | cvCvt (w : FmtA (Dest (Fin 256)) Src Unit Unit Cvt)
  | cvPack (w : FmtA (Dest (Fin 256)) Src Src Src PackKind)
  | cvUnpk (w : FmtA (Dest (Fin 256)) Src Src Unit UnpkKind)
  | cvQnt (w : FmtA (Dest (Fin 256)) Src Src Unit Bool)
  | cvDqnt (w : FmtA (Dest (Fin 256)) Src Src Src DqKind)
  | cvQf8 (w : FmtA (Dest (Fin 256)) Src Src Unit Qf8Kind)
  | cvSrnd (w : FmtA (Dest (Fin 256)) Src Src Unit SrndKind)
  -- VC, R216
  | vcCmp (w : FmtA (Fin 96) Src Src Unit VcMod)
  | vcClass (w : FmtA (Fin 96) Src Src Unit ClassFmt)
  | vcTest (w : FmtA (Fin 96) Src Src Unit Bool)
  -- CL, R220
  | clShfl (w : FmtA (Dest (Fin 256)) (Fin 256) Src Unit ShflMode)
  | clShfx (w : FmtA (Dest (Fin 256)) (Fin 256) Src Unit ShfxMod)
  | clRfl (w : FmtA (Dest VSReg) (Fin 256) Unit Unit Unit)
  | clRdl (w : FmtA (Dest VSReg) (Fin 256) USrc Unit Unit)
  | clWrl (w : FmtA (Fin 256) USrc USrc Unit Unit)
  | clRed (w : FmtA (Dest VSReg) (Fin 256) Unit Unit RedOp)
  | clScan (w : FmtA (Dest (Fin 256)) (Fin 256) Unit Unit RedOp)
  | clBallot (w : FmtA (Fin 32) PSrc Unit Unit Unit)
  | clAny (w : FmtA (Fin 16) PSrc Unit Unit Unit)
  | clAll (w : FmtA (Fin 16) PSrc Unit Unit Unit)
  | clShtl (w : FmtA (Dest (Fin 256)) (Fin 256) Unit Unit Unit)
  -- PR, R177
  | prAnd (w : FmtA (Fin 96) PSrc PSrc Unit Unit)
  | prOr (w : FmtA (Fin 96) PSrc PSrc Unit Unit)
  | prXor (w : FmtA (Fin 96) PSrc PSrc Unit Unit)
  | prNot (w : FmtA (Fin 96) PSrc Unit Unit Unit)
  | prMov (w : FmtA (Fin 96) PSrc Unit Unit Unit)
  | prSet (w : FmtA (Fin 96) Src Src Unit Unit)
  | prCnt (w : FmtA (Fin 64) PSrc Unit Unit Unit)
  -- SF, R225
  | sfRcp (w : FmtA (Dest (Fin 256)) Src Unit Unit Unit)
  | sfRsq (w : FmtA (Dest (Fin 256)) Src Unit Unit Unit)
  | sfSqrt (w : FmtA (Dest (Fin 256)) Src Unit Unit Unit)
  | sfExp2 (w : FmtA (Dest (Fin 256)) Src Unit Unit Unit)
  | sfLog2 (w : FmtA (Dest (Fin 256)) Src Unit Unit Unit)
  | sfSin (w : FmtA (Dest (Fin 256)) Src Unit Unit Unit)
  | sfCos (w : FmtA (Dest (Fin 256)) Src Unit Unit Unit)
  | sfTanh (w : FmtA (Dest (Fin 256)) Src Unit Unit Unit)
  -- PL, R231
  | plShf (w : FmtP Unit)
  | plRot (w : FmtP Unit)
  | plSpr (w : FmtP Unit)
  | plFld (w : FmtP FoldMod)
  | plScn (w : FmtP FoldMod)
  | plTrn (w : FmtP Unit)
  | plRfd (w : FmtP (Fin 8))
  -- FD, R239
  | fdSet (w : FmtA (Fin 8) USrc64 Unit Unit Unit)
  | fdGet (w : FmtA (Fin 32) (Fin 8) Unit Unit Unit)
  | fdChk (w : FmtA (Dest (Fin 64)) USrc64 Unit Unit Unit)
  -- LD, R258
  | ld (w : FmtM (Fin 256) Base Src Size)
  -- LDU, R258
  | ldu (w : FmtM (Fin 64) (Fin 32) USrc Size)
  -- LDP, R261
  | ldp (w : FmtM (Fin 256) (Fin 32) USrc (Fin 8))
  -- ST, R259
  | st (w : FmtM Src Base Src StSize)
  -- STU, R259
  | stu (w : FmtM USrc (Fin 32) USrc StSize)
  -- STP, R261
  | stp (w : FmtM (Fin 256) (Fin 32) USrc (Fin 8))
  -- AT, R264
  | atAdd (w : FmtM AtDest Base Src Bool)
  | atSub (w : FmtM AtDest Base Src Bool)
  | atMin (w : FmtM AtDest Base Src Bool)
  | atMax (w : FmtM AtDest Base Src Bool)
  | atMinu (w : FmtM AtDest Base Src Bool)
  | atMaxu (w : FmtM AtDest Base Src Bool)
  | atAnd (w : FmtM AtDest Base Src Bool)
  | atOr (w : FmtM AtDest Base Src Bool)
  | atXor (w : FmtM AtDest Base Src Bool)
  | atXchg (w : FmtM AtDest Base Src Bool)
  | atCas (w : FmtM (Fin 256) Base Src Bool)
  | atFadd (w : FmtM AtDest Base Src Unit)
  | atXadd (w : FmtM Unit Base Src XFmt)
  | atXrd (w : FmtM (Fin 256) Base Unit Clr)
  -- SN, R266
  | snFence (w : FmtS Unit Unit FenceMod)
  | snXf (w : FmtS Unit Unit XfMod)
  | snBinit (w : FmtS Unit USrc (Fin 16))
  | snBar (w : FmtS Unit Unit BarMod)
  | snBara (w : FmtS (Fin 64) Unit (Fin 16))
  | snBarw (w : FmtS Unit USrc (Fin 16))
  | snMarm (w : FmtS Unit (Fin 32) Unit)
  | snMwait (w : FmtS (Fin 64) USrc Unit)
  | snFlush (w : FmtS Unit Unit Unit)
  | snInv (w : FmtS Unit Unit Unit)
  -- CP, R75
  | cpLane (w : FmtX Base Base Src CopySize)
  | cpBulk (w : FmtX (Fin 32) (Fin 32) USrc Bool)
  | cpMcast (w : FmtX (Fin 32) (Fin 16) (Fin 32) Unit)
  | cpStamp (w : FmtX (Fin 32) USrc64 Unit Bool)
  | cpArrv (w : FmtX USrc USrc Unit Unit)
  -- TK, R80
  | tkWait (w : FmtA Unit (Fin 8) Unit Unit Unit)
  | tkTst (w : FmtA (Fin 16) (Fin 8) Unit Unit Unit)
  | tkCan (w : FmtA Unit (Fin 8) Unit Unit Unit)
  | tkCnt (w : FmtA (Dest (Fin 64)) (Fin 8) Unit Unit Unit)
  -- MX, R294
  | mxMma (w : FmtX (Fin 256) (Fin 256) USrc MxType)
  | mxMmas (w : FmtX USrc (Fin 256) USrc MxType)
  | mxZero (w : FmtX Unit Unit USrc Unit)
  -- AX, R297
  | axWin (w : FmtA Unit USrc USrc USrc Unit)
  | axDrn (w : FmtX (Fin 256) USrc USrc DrnMod)
  | axFil (w : FmtX (Fin 256) USrc USrc FilMod)
  | axChk (w : FmtX Unit USrc USrc Unit)
  -- FB, R302
  | fbPut (w : FmtX Base Base Src PutMod)
  | fbGet (w : FmtX Base Base Src Unit)
  | fbRed (w : FmtX Base Base Src FbRedMod)
  | fbAta (w : FmtX (Fin 32) Unit Unit Unit)
  | fbCmb (w : FmtX (Fin 32) Unit Unit Unit)
  | fbArrv (w : FmtX USrc USrc USrc Unit)
  -- DV, R55
  | dvReg (w : FmtA (Fin 64) IntPair Unit Unit Unit)
  | dvUnreg (w : FmtA (Fin 64) IntSrc Unit Unit Unit)
  | dvQry (w : FmtA (Fin 64) IntSrc IntSrc Unit Unit)
  | dvWarm (w : FmtX IntSrc IntSrc IntSrc Unit)
  -- IC, R195
  | icLock (w : FmtA (Fin 16) (Fin 32) USrc Unit Unit)
  | icUnlk (w : FmtA Unit (Fin 32) USrc Unit Unit)
  | icInv (w : FmtA Unit (Fin 32) USrc Unit Unit)
  -- operations and events
  | kick (fn q : Nat) (tail : DWord)
  | preemptTeam (fn : Nat) (teamh : Word)
  | preemptFunction (fn : Nat)
  | vfrstStart (n : Nat)
  | functionLevelReset (n : Nat)
  | invalidateContext (ctx : Nat)
  | invalidatePage (ctx : Nat)
  | invalidateRange (ctx pages : Nat)
  | invalidationComplete
  | seal (len : Nat)
  | sealCheck (len : Nat)
  | attcmd (value : DWord)
  | dbgteamResume (fn : Nat)
  | queueEnable (fn q : Nat) (value : DWord)
  | queueDisable (fn q : Nat) (value : DWord)
  | queueRestart (fn q : Nat) (value : DWord)
  | partWrite (fn : Nat) (high : Bool) (value : DWord)
  | registerWrite (fn off : Nat) (value : DWord)
  | hostWindowRead (fn off n : Nat)
  | hostWindowWrite (fn off : Nat) (data : List Byte)
  | apertureRead (fn off n : Nat)
  | apertureWrite (fn off : Nat) (data : List Byte)
  | hostAtomicop (fn off : Nat) (op : HostAtomic) (wide : Bool) (operand compare : DWord)
  | atsInvalidationRequest (pasid va pages : Nat)
  | atsTranslationCompletion (ctx va : Nat) (answer : Option AtsGrant)
  | pageRequestResponse (ctx va : Nat) (resp : PriResponse)
  | pldmEnrollOwnerKey (key sig : List Byte)
  | pldmRemoveOwnerKey (key sig : List Byte)
  | pldmAttest (nonce : List Byte)
  | pldmSetPowerLimit (watts : Nat)
  | pldmSetScrubRate (rate : Nat)
  | firmwareStage (addr len : DWord)
  | moduleReset
  | entryFetch (fn q : Nat)
  | stampWaitHolds (entry : Nat) (second : Bool)
  | launch (entry : Nat)
  | barrier (entry : Nat)
  | flush (entry : Nat)
  | stamp (entry : Nat)
  | teamPlace (fn : Nat)
  | groupRetire (grp : Nat)
  | launchComplete (entry : Nat)
  | watchdog (entry : Nat)
  | faultRecorded (entry : Nat)
  | faultDrainDone (entry : Nat)
  | preemptRequest (fn : Nat)
  | timeSliceExpire (fn : Nat)
  | preemptBoundExpire (team : Nat)
  | preemptSave (team : Nat)
  | vfResetDrainDone (n : Nat)
  | vfResetDrainTimeout (n : Nat)
  | sliceRead (req : Nat)
  | sliceWrite (req : Nat)
  | sliceAtomic (req : Nat)
  | patrolScrub (unit : ErrUnit)
  | loadReturn (req : Nat)
  | recomputeComplete (handle tile : Nat)
  | pageWalkComplete (walk : Nat)
  | lineFill (fill : Nat)
  | triggerStart (op : Nat)
  | copyComplete (op : Nat)
  | stampWrite (op : Nat)
  | arrivalLand (op : Nat)
  | deliveryLand (op : Nat)
  | mwaitTimeout (grp path : Nat)
  | sleepExpire (grp path : Nat)
  | matrixOpComplete (op : Nat)
  | fabricPacketReceive (pkt : Packet)
  | fabricAcknowledge (op : Nat) (data : List Byte) (bad : List Bool)
  | linkRetrained (port : Nat)
  | linkDown (port : Nat)
  | thermalStop
  | thermalResume
  | thermalShutdown
  | softError (unit : ErrUnit) (bits : List Nat)
  | droopEvent (core : Nat)
  | withholdIssueCycles (on : Bool)
  | hostWriteCompletion (req : Nat)
  deriving DecidableEq, Repr

end Sys2Proof
end

