-- ==== Sys2Proof/WellFormed.lean ====
section
/-! DEFINITION. When an instruction term is well formed: the limits of 08 R140 to R150 and of the entries that the
types of Syntax do not already carry. The group width, the declared registers and the chain are judged by Decode. -/
namespace Sys2Proof

/-- Guard codes that an entry accepts: every code, or uniform predicates and `always` only (R141, R172). -/
inductive GuardKind where
  | any | uni
  deriving DecidableEq, Repr

/-- The guard is one that the entry accepts. GUARD 127 with GNEG 1 has no term. -/
def Guard.fits : GuardKind → Guard → Bool
  | .uni, .lane _ _ => false
  | _, _ => true

/-- The even pair or constant of a 64-bit position (R142). -/
def USrc.pairOk : USrc → Bool
  | .s n => n.val % 2 == 0
  | .nat _ | .neg _ | .flt _ => true
  | .t _ | .k _ | .x _ => false

/-- A 64-bit lane position (R142). -/
def Src.pairOk : Src → Bool
  | .v n => n.val % 2 == 0
  | .l _ => false
  | .u a => a.pairOk

/-- A 128-bit uniform position (R142, R256). -/
def USrc.quadOk : USrc → Bool
  | .s n => n.val % 4 == 0
  | .nat _ | .neg _ | .flt _ => true
  | .t _ | .k _ | .x _ => false

/-- A 128-bit lane position (R142, R256). -/
def Src.quadOk : Src → Bool
  | .v n => n.val % 4 == 0
  | .l _ => false
  | .u a => a.quadOk

/-- The C operand of an NQ4 matrix word at decode: a latch, a token or a special register is refused in a pair
position (R142). Odd registers and constants are an issue check (18 R293). -/
def USrc.nqOk : USrc → Bool
  | .t _ | .k _ | .x _ => false
  | _ => true

/-- Registers that a load of a size code writes (14 R256). -/
def Size.words : Size → Nat
  | .b128 => 4
  | .b64 => 2
  | _ => 1

/-- A data operand of a store, by size code (14 R256). -/
def Src.storeOk : StSize → Src → Bool
  | .b64, a => a.pairOk
  | .b128, a => a.quadOk
  | _, _ => true

/-- A data operand of STU, by size code (14 R256). -/
def USrc.storeOk : StSize → USrc → Bool
  | .b64, a => a.pairOk
  | .b128, a => a.quadOk
  | _, _ => true

/-- A destination of an atomic: an even pair under W = 1 (14 R263). -/
def AtDest.okFor (w : Bool) : AtDest → Bool
  | .v n => !w || n.val % 2 == 0
  | .none => true

/-- The data operand of an atomic (14 R263). -/
def Src.okFor (w : Bool) (a : Src) : Bool := !w || a.pairOk

/-- Sign modifiers of an instruction that reads `n` sources; `.BF` only where `half` holds (11 R205). -/
def FMod.okFor (n : Nat) (half : Bool) (m : FMod) : Bool :=
  (decide (2 ≤ n) || !m.nb) && (decide (3 ≤ n) || !m.nc) && (half || !m.bf)

/-- Conversions whose source is an even pair (11 R210). -/
def Cvt.wideSrc : Cvt → Bool
  | .f32F64 | .i32F64 | .n32F64 | .f64I64 | .i64F64 => true
  | _ => false
/-- Conversions whose result is an even pair (11 R210). -/
def Cvt.wideDst : Cvt → Bool
  | .f64F32 | .f64I32 | .f64N32 | .f64I64 | .i64F64 => true
  | _ => false
/-- The destination of CV.CVT: a pair result is an even register and goes to no latch (R146, R199). -/
def Cvt.destOk (m : Cvt) : Dest (Fin 256) → Bool
  | .reg n => !m.wideDst || n.val % 2 == 0
  | .latch => !m.wideDst
/-- The source of CV.CVT. -/
def Cvt.srcOk (m : Cvt) (a : Src) : Bool := !m.wideSrc || a.pairOk
/-- The third operand of CV.PACK: PACK.H leaves it unused (11 R212). -/
def PackKind.thirdOk (m : PackKind) (a : Src) : Bool := decide (m ≠ .h) || decide (a = .v 0)
/-- Types and conditions of VC.CMP that may stand together (11 R216). -/
def VcMod.ok (m : VcMod) : Bool :=
  match m.ty, m.cond with
  | .i32, .un | .i32, .or | .n32, .un | .n32, .or => false
  | _, _ => true
/-- A source of VC.CMP. -/
def VcMod.srcOk (m : VcMod) (a : Src) : Bool := decide (m.ty ≠ .f64) || a.pairOk
/-- The source of VC.CLASS. -/
def ClassFmt.srcOk (m : ClassFmt) (a : Src) : Bool := decide (m ≠ .f64) || a.pairOk
/-- A source of SI.CMP. -/
def SiCond.srcOk (m : SiCond) (a : USrc) : Bool := !m.wide || a.pairOk
/-- The segments that CL.SHFX has, before the group width is known (11 R220). -/
def ShfxMod.ok (m : ShfxMod) : Bool := decide (1 ≤ m.g.val) && decide (m.g.val ≤ 6)
/-- SN.FENCE has at least one half (14 R265). -/
def FenceMod.ok (m : FenceMod) : Bool := m.acq || m.rel
/-- A path set that is not empty (14 R265). -/
def PathSet.ok (m : PathSet) : Bool := m.l || m.g || m.c || m.m || m.f
/-- SN.XF names two sets that are not empty. -/
def XfMod.ok (m : XfMod) : Bool := m.src.ok && m.dst.ok
/-- FB.PUT: not .MC with .SP (18 R300). -/
def PutMod.ok (m : PutMod) : Bool := !(m.mc && m.sp)
/-- FB.RED: E5 only under RS, and RS only with type .F32 (18 R303). -/
def FbRedMod.ok (m : FbRedMod) : Bool := (m.rs || !m.e5) && (!m.rs || decide (m.ty = .f32))
/-- The third operand of CP.BULK: under .2D it names s4j (14 R273). -/
def USrc.bulkOk (twoD : Bool) : USrc → Bool
  | .s n => !twoD || n.val % 4 == 0
  | _ => !twoD
/-- Matrix types whose B elements are NQ4 (18 R291). -/
def MxType.nq : MxType → Bool
  | .nq4 | .nq4e5 => true
  | _ => false
/-- The row-origin operand of a matrix word. -/
def MxType.rowOk (m : MxType) (a : USrc) : Bool := !m.nq || a.nqOk

/-- The fields C, Q and GUARD: a safe point ends its chain (R144), and the guard is one the entry accepts. -/
def headOk (k : GuardKind) (c q : Bool) (g : Guard) : Bool := !(c && q) && g.fits k

variable {δ α β γ μ σ : Type}
/-- Format A, besides the entry's own limits. -/
def FmtA.ok (k : GuardKind) (w : FmtA δ α β γ μ) : Bool := headOk k w.c w.q w.g
/-- Format I. -/
def FmtI.ok (k : GuardKind) (w : FmtI δ α) : Bool := headOk k w.c w.q w.g
/-- Format S. -/
def FmtS.ok (k : GuardKind) (w : FmtS δ α σ) : Bool := headOk k w.c w.q w.g
/-- Format M. -/
def FmtM.ok (k : GuardKind) (w : FmtM δ α β σ) : Bool := headOk k w.c w.q w.g
/-- Format B: every such word ends its chain (R144). -/
def FmtB.ok (k : GuardKind) (w : FmtB) : Bool := headOk k w.c w.q w.g && !w.c
/-- Format P. -/
def FmtP.ok (k : GuardKind) (w : FmtP μ) : Bool := headOk k w.c w.q w.g
/-- Format X: a word does not wait for its own tag (R150). -/
def FmtX.ok (k : GuardKind) (w : FmtX α β γ μ) : Bool := headOk k w.c w.q w.g && decide (w.trig ≠ some w.tag)

/-- A function: 0 physical, 1 to 16 virtual (24 R362). -/
def fnNamed (fn : Nat) : Bool := decide (fn ≤ 16)
/-- A virtual function. -/
def virtualNamed (n : Nat) : Bool := decide (1 ≤ n) && decide (n ≤ 16)
/-- A queue of a function (24 R368). -/
def queueNamed (fn q : Nat) : Bool := fnNamed fn && decide (q < 64)
/-- An access of one to 64 bytes within one 64-byte block (01 R13); a larger transfer of the host is several. -/
def inBlock (off n : Nat) : Bool := decide (1 ≤ n) && decide (off % 64 + n ≤ 64)

/-- The limits that an entry adds to its format. Events carry no encoding; those that name functions, queues,
contexts, ports or blocks name ones that are there. -/
def Instr.ok : Instr → Bool
  | .syNop w => w.ok .uni && !w.c
  | .syExit w => w.ok .any && !w.c
  | .syTrap w => w.ok .uni && !w.c
  | .syTret w => w.ok .uni && !w.c
  | .syYield w => w.ok .uni && !w.c
  | .sySleep w => w.ok .uni && !w.c
  | .syBkpt w => w.ok .uni && !w.c
  | .syGets w => w.ok .uni && !w.c
  | .sySets w => w.ok .uni && !w.c
  | .sySfmt w => w.ok .uni && !w.c
  | .sySetx w => w.ok .uni && !w.c
  | .syGetx w => w.ok .uni && !w.c
  | .syHalt w => w.ok .uni && !w.c
  | .brBra w => w.ok .uni && decide (w.join = 0)
  | .brBrv w => w.ok .any
  | .brJoin w => w.ok .uni && decide (w.tgt = 0) && decide (w.join = 0)
  | .brRegang w => w.ok .uni && !w.c
  | .brCall w => w.ok .uni && decide (w.join = 0)
  | .brCallv w => w.ok .any && !w.c
  | .brRet w => w.ok .uni && !w.c
  | .brBrx w => w.ok .uni && !w.c
  | .siAdd w => w.ok .uni
  | .siSub w => w.ok .uni
  | .siMul w => w.ok .uni
  | .siMulh w => w.ok .uni
  | .siMad w => w.ok .uni
  | .siAnd w => w.ok .uni
  | .siOr w => w.ok .uni
  | .siXor w => w.ok .uni
  | .siShl w => w.ok .uni
  | .siShr w => w.ok .uni
  | .siSra w => w.ok .uni
  | .siMin w => w.ok .uni
  | .siMax w => w.ok .uni
  | .siMinu w => w.ok .uni
  | .siMaxu w => w.ok .uni
  | .siClz w => w.ok .uni
  | .siPopc w => w.ok .uni
  | .siSel w => w.ok .uni
  | .siAdd64 w => w.ok .uni
  | .siSub64 w => w.ok .uni
  | .siMul64 w => w.ok .uni
  | .siCmp w => w.ok .uni && w.mod.srcOk w.a && w.mod.srcOk w.b
  | .smMov w => w.ok .uni
  | .smMovi w => w.ok .uni
  | .smMovh w => w.ok .uni && (!w.a || decide (w.imm.toNat < 2 ^ 18))
  | .smQand w => w.ok .uni
  | .smQor w => w.ok .uni
  | .smQxor w => w.ok .uni
  | .smQnot w => w.ok .uni
  | .smQmov w => w.ok .uni
  | .viAdd w => w.ok .any
  | .viSub w => w.ok .any
  | .viMul w => w.ok .any
  | .viMulh w => w.ok .any
  | .viMulhu w => w.ok .any
  | .viMad w => w.ok .any
  | .viMad64 w => w.ok .any
  | .viAnd w => w.ok .any
  | .viOr w => w.ok .any
  | .viXor w => w.ok .any
  | .viNot w => w.ok .any
  | .viShl w => w.ok .any
  | .viShr w => w.ok .any
  | .viSra w => w.ok .any
  | .viMin w => w.ok .any
  | .viMax w => w.ok .any
  | .viMinu w => w.ok .any
  | .viMaxu w => w.ok .any
  | .viAbs w => w.ok .any
  | .viNeg w => w.ok .any
  | .viAdds w => w.ok .any
  | .viSubs w => w.ok .any
  | .viClz w => w.ok .any
  | .viPopc w => w.ok .any
  | .viBfe w => w.ok .any
  | .viBfi w => w.ok .any
  | .viSel w => w.ok .any
  | .viDot4 w => w.ok .any
  | .viDot2 w => w.ok .any
  | .viAdd64 w => w.ok .any
  | .viSub64 w => w.ok .any
  | .vjAddi w => w.ok .any
  | .vjAndi w => w.ok .any
  | .vjOri w => w.ok .any
  | .vjXori w => w.ok .any
  | .vjShli w => w.ok .any && decide (w.imm.toNat < 32)
  | .vjMovi w => w.ok .any
  | .vfAdd w => w.ok .any && w.mod.okFor 2 false
  | .vfSub w => w.ok .any && w.mod.okFor 2 false
  | .vfMul w => w.ok .any && w.mod.okFor 2 false
  | .vfFma w => w.ok .any && w.mod.okFor 3 false
  | .vfMin w => w.ok .any && w.mod.okFor 2 false
  | .vfMax w => w.ok .any && w.mod.okFor 2 false
  | .vfMinn w => w.ok .any && w.mod.okFor 2 false
  | .vfMaxn w => w.ok .any && w.mod.okFor 2 false
  | .vfFloor w => w.ok .any && w.mod.okFor 1 false
  | .vfCeil w => w.ok .any && w.mod.okFor 1 false
  | .vfTrunc w => w.ok .any && w.mod.okFor 1 false
  | .vfRint w => w.ok .any && w.mod.okFor 1 false
  | .vfFract w => w.ok .any && w.mod.okFor 1 false
  | .vfLdexp w => w.ok .any && w.mod.okFor 2 false
  | .vfGetexp w => w.ok .any && w.mod.okFor 1 false
  | .vfGetmant w => w.ok .any && w.mod.okFor 1 false
  | .vhAdd w => w.ok .any && w.mod.okFor 2 true
  | .vhSub w => w.ok .any && w.mod.okFor 2 true
  | .vhMul w => w.ok .any && w.mod.okFor 2 true
  | .vhFma w => w.ok .any && w.mod.okFor 3 true
  | .vhMin w => w.ok .any && w.mod.okFor 2 true
  | .vhMax w => w.ok .any && w.mod.okFor 2 true
  | .vhDot2 w => w.ok .any && w.mod.okFor 3 true
  | .vdAdd w => w.ok .any && w.mod.okFor 2 false
  | .vdSub w => w.ok .any && w.mod.okFor 2 false
  | .vdMul w => w.ok .any && w.mod.okFor 2 false
  | .vdFma w => w.ok .any && w.mod.okFor 3 false
  | .vdMin w => w.ok .any && w.mod.okFor 2 false
  | .vdMax w => w.ok .any && w.mod.okFor 2 false
  | .vdRint w => w.ok .any && w.mod.okFor 1 false
  | .cvCvt w => w.ok .any && w.mod.destOk w.d && w.mod.srcOk w.a
  | .cvPack w => w.ok .any && w.mod.thirdOk w.cc
  | .cvUnpk w => w.ok .any
  | .cvQnt w => w.ok .any
  | .cvDqnt w => w.ok .any
  | .cvQf8 w => w.ok .any
  | .cvSrnd w => w.ok .any
  | .vcCmp w => w.ok .any && w.mod.ok && w.mod.srcOk w.a && w.mod.srcOk w.b
  | .vcClass w => w.ok .any && w.mod.srcOk w.a
  | .vcTest w => w.ok .any
  | .clShfl w => w.ok .any
  | .clShfx w => w.ok .any && w.mod.ok
  | .clRfl w => w.ok .any
  | .clRdl w => w.ok .any
  | .clWrl w => w.ok .any
  | .clRed w => w.ok .any
  | .clScan w => w.ok .any
  | .clBallot w => w.ok .any
  | .clAny w => w.ok .any
  | .clAll w => w.ok .any
  | .clShtl w => w.ok .any
  | .prAnd w => w.ok .any
  | .prOr w => w.ok .any
  | .prXor w => w.ok .any
  | .prNot w => w.ok .any
  | .prMov w => w.ok .any
  | .prSet w => w.ok .any
  | .prCnt w => w.ok .any
  | .sfRcp w => w.ok .any
  | .sfRsq w => w.ok .any
  | .sfSqrt w => w.ok .any
  | .sfExp2 w => w.ok .any
  | .sfLog2 w => w.ok .any
  | .sfSin w => w.ok .any
  | .sfCos w => w.ok .any
  | .sfTanh w => w.ok .any
  | .plShf w => w.ok .any
  | .plRot w => w.ok .any && decide (w.edge = .own)
  | .plSpr w => w.ok .any && !w.down && decide (w.edge = .own)
  | .plFld w => w.ok .any && !w.down && decide (w.dist = 0) && decide (w.edge = .own)
  | .plScn w => w.ok .any && !w.down && decide (w.dist = 0) && decide (w.edge = .own)
  | .plTrn w => w.ok .any && decide (w.axis = .x) && !w.down && decide (w.dist = 0) && decide (w.edge = .own)
  | .plRfd w => w.ok .any && decide (w.axis = .x) && !w.down && decide (w.dist = 0) && decide (w.edge = .own)
  | .fdSet w => w.ok .uni
  | .fdGet w => w.ok .uni
  | .fdChk w => w.ok .uni
  | .ld w => w.ok .any && decide (w.d.val % w.sub.words = 0)
  | .ldu w => w.ok .uni && decide (w.d.val % w.sub.words = 0)
  | .ldp w => w.ok .any
  | .st w => w.ok .any && w.d.storeOk w.sub
  | .stu w => w.ok .uni && w.d.storeOk w.sub
  | .stp w => w.ok .any
  | .atAdd w => w.ok .any && w.d.okFor w.sub && w.b.okFor w.sub
  | .atSub w => w.ok .any && w.d.okFor w.sub && w.b.okFor w.sub
  | .atMin w => w.ok .any && w.d.okFor w.sub && w.b.okFor w.sub
  | .atMax w => w.ok .any && w.d.okFor w.sub && w.b.okFor w.sub
  | .atMinu w => w.ok .any && w.d.okFor w.sub && w.b.okFor w.sub
  | .atMaxu w => w.ok .any && w.d.okFor w.sub && w.b.okFor w.sub
  | .atAnd w => w.ok .any && w.d.okFor w.sub && w.b.okFor w.sub
  | .atOr w => w.ok .any && w.d.okFor w.sub && w.b.okFor w.sub
  | .atXor w => w.ok .any && w.d.okFor w.sub && w.b.okFor w.sub
  | .atXchg w => w.ok .any && w.d.okFor w.sub && w.b.okFor w.sub
  | .atCas w => w.ok .any && (!w.sub || decide (w.d.val % 2 = 0)) && w.b.okFor w.sub
  | .atFadd w => w.ok .any
  | .atXadd w => w.ok .any && decide (w.ord = none)
  | .atXrd w => w.ok .any
  | .snFence w => w.ok .uni && w.sarg.ok
  | .snXf w => w.ok .uni && w.sarg.ok
  | .snBinit w => w.ok .uni
  | .snBar w => w.ok .uni
  | .snBara w => w.ok .uni
  | .snBarw w => w.ok .uni
  | .snMarm w => w.ok .uni
  | .snMwait w => w.ok .uni
  | .snFlush w => w.ok .uni
  | .snInv w => w.ok .uni
  | .cpLane w => w.ok .any
  | .cpBulk w => w.ok .uni && w.cc.bulkOk w.mod
  | .cpMcast w => w.ok .uni
  | .cpStamp w => w.ok .uni
  | .cpArrv w => w.ok .uni
  | .tkWait w => w.ok .uni
  | .tkTst w => w.ok .uni
  | .tkCan w => w.ok .uni
  | .tkCnt w => w.ok .uni
  | .mxMma w => w.ok .uni && w.mod.rowOk w.cc
  | .mxMmas w => w.ok .uni && w.mod.rowOk w.cc
  | .mxZero w => w.ok .uni
  | .axWin w => w.ok .uni
  | .axDrn w => w.ok .uni
  | .axFil w => w.ok .uni && decide (w.mod.cvt ≠ .e5m2)
  | .axChk w => w.ok .uni
  | .fbPut w => w.ok .any && w.mod.ok
  | .fbGet w => w.ok .any
  | .fbRed w => w.ok .any && w.mod.ok
  | .fbAta w => w.ok .uni
  | .fbCmb w => w.ok .uni
  | .fbArrv w => w.ok .uni
  | .dvReg w => w.ok .uni
  | .dvUnreg w => w.ok .uni
  | .dvQry w => w.ok .uni
  | .dvWarm w => w.ok .uni
  | .icLock w => w.ok .uni
  | .icUnlk w => w.ok .uni
  | .icInv w => w.ok .uni
  | .kick fn q _ => queueNamed fn q
  | .preemptTeam fn _ => fnNamed fn
  | .preemptFunction fn => fnNamed fn
  | .vfrstStart n => virtualNamed n
  | .functionLevelReset n => virtualNamed n
  | .invalidateContext ctx => decide (ctx < 1088)
  | .invalidatePage ctx => decide (ctx < 1088)
  | .invalidateRange ctx pages => decide (ctx < 1088) && decide (pages < 2 ^ 47)
  | .invalidationComplete => true
  | .seal len => decide (len < 2 ^ 40)
  | .sealCheck len => decide (len < 2 ^ 40)
  | .attcmd _ => true
  | .dbgteamResume fn => fnNamed fn
  | .queueEnable fn q _ => queueNamed fn q
  | .queueDisable fn q _ => queueNamed fn q
  | .queueRestart fn q _ => queueNamed fn q
  | .partWrite fn _ _ => fnNamed fn
  | .registerWrite fn off _ => fnNamed fn && off % 8 == 0 && decide (off ≤ 0x100000)
  | .hostWindowRead fn off n => fnNamed fn && inBlock off n
  | .hostWindowWrite fn off data => fnNamed fn && inBlock off data.length
  | .apertureRead fn off n => fnNamed fn && inBlock off n
  | .apertureWrite fn off data => fnNamed fn && inBlock off data.length
  | .hostAtomicop fn _ _ _ _ _ => fnNamed fn
  | .atsInvalidationRequest pasid _ _ => decide (pasid < 2 ^ 20)
  | .atsTranslationCompletion _ _ _ => true
  | .pageRequestResponse _ _ _ => true
  | .pldmEnrollOwnerKey _ _ => true
  | .pldmRemoveOwnerKey _ _ => true
  | .pldmAttest nonce => nonce.length == 32
  | .pldmSetPowerLimit _ => true
  | .pldmSetScrubRate _ => true
  | .firmwareStage _ _ => true
  | .moduleReset => true
  | .entryFetch fn q => queueNamed fn q
  | .stampWaitHolds _ _ => true
  | .launch _ => true
  | .barrier _ => true
  | .flush _ => true
  | .stamp _ => true
  | .teamPlace fn => fnNamed fn
  | .groupRetire _ => true
  | .launchComplete _ => true
  | .watchdog _ => true
  | .faultRecorded _ => true
  | .faultDrainDone _ => true
  | .preemptRequest fn => fnNamed fn
  | .timeSliceExpire fn => fnNamed fn
  | .preemptBoundExpire _ => true
  | .preemptSave _ => true
  | .vfResetDrainDone n => virtualNamed n
  | .vfResetDrainTimeout n => virtualNamed n
  | .sliceRead _ => true
  | .sliceWrite _ => true
  | .sliceAtomic _ => true
  | .patrolScrub _ => true
  | .loadReturn _ => true
  | .recomputeComplete _ _ => true
  | .pageWalkComplete _ => true
  | .lineFill _ => true
  | .triggerStart _ => true
  | .copyComplete _ => true
  | .stampWrite _ => true
  | .arrivalLand _ => true
  | .deliveryLand _ => true
  | .mwaitTimeout _ _ => true
  | .sleepExpire _ _ => true
  | .matrixOpComplete _ => true
  | .fabricPacketReceive _ => true
  | .fabricAcknowledge _ _ _ => true
  | .linkRetrained port => decide (port < 128)
  | .linkDown port => decide (port < 128)
  | .thermalStop => true
  | .thermalResume => true
  | .thermalShutdown => true
  | .softError _ _ => true
  | .droopEvent core => decide (core < 256)
  | .withholdIssueCycles _ => true
  | .hostWriteCompletion _ => true

end Sys2Proof
end

