-- ==== Sys2Proof/Decode.lean ====
section
/-! DEFINITION. Decoding and encoding of instruction words (08 R138 to R150): the codes of operands and modifiers,
the seven formats, and one parser for each class. -/
namespace Sys2Proof

/-! ## What decoding answers -/

/-- Decode faults, in the order of R150. -/
inductive DecodeFault where
  | illegalInstruction | illegalOperand | registerRange | latchInvalid
  deriving DecidableEq, Repr

/-- What a word writes to its latch (R146). -/
inductive LatchKind where
  | none | uni | lane
  deriving DecidableEq, Repr

/-- A run of registers that an operand names: of the lanes (`vec`) or of the group. -/
structure RegRange where
  vec : Bool
  base : Nat
  n : Nat
  deriving DecidableEq, Repr

/-- A latch that an operand reads, and whether the position is a lane position. -/
structure LatchRead where
  n : Nat
  lanePos : Bool
  deriving DecidableEq, Repr

/-- What an operand field names. -/
structure OpUse where
  regs : List RegRange
  lats : List LatchRead
  /-- Tokens that the operand reads (04 R80). -/
  toks : List Nat
  deriving DecidableEq, Repr

/-- An operand that names no register. -/
def OpUse.nil : OpUse := ⟨[], [], []⟩
/-- Both operands' names. -/
def OpUse.join (a b : OpUse) : OpUse := ⟨a.regs ++ b.regs, a.lats ++ b.lats, a.toks ++ b.toks⟩
/-- `n` vector registers from `b`. -/
def OpUse.vec (b n : Nat) : OpUse := ⟨[⟨true, b, n⟩], [], []⟩
/-- `n` uniform registers from `b`. -/
def OpUse.uniReg (b n : Nat) : OpUse := ⟨[⟨false, b, n⟩], [], []⟩

/-- One field's code: how a value is written, which codes are accepted, and what registers a value names. -/
structure Codec (α : Type) (n : Nat) where
  enc : α → BitVec n
  dec : Nat → Option α
  use : α → OpUse

/-! ## Operand codes (R142, R143, R170, R171) -/

/-- A number below `n`. -/
def fin? (n c : Nat) : Option (Fin n) := if h : c < n then some ⟨c, h⟩ else none

/-- Codes of the special registers that read the same in every lane (06 R115). -/
def UniSpecial.code : UniSpecial → Nat
  | .grpid => 0x152 | .grpw => 0x153 | .ngrp => 0x154 | .teamidX => 0x156 | .teamidY => 0x157 | .teamidZ => 0x158
  | .griddimX => 0x159 | .griddimY => 0x15A | .griddimZ => 0x15B | .teamdimX => 0x15C | .teamdimY => 0x15D
  | .teamdimZ => 0x15E | .teamh => 0x15F | .pairside => 0x160 | .coreno => 0x161 | .dieno => 0x162
  | .slotno => 0x163 | .execlo => 0x167 | .exechi => 0x168 | .regcnt => 0x169 | .spadsz => 0x16A
  | .accrows => 0x16B | .arglo => 0x16C | .arghi => 0x16D | .launchno => 0x16E | .prio => 0x16F | .vfid => 0x170
  | .clklo => 0x171 | .clkhi => 0x172 | .therm => 0x173 | .droopcnt => 0x174 | .trapcode => 0x175
  | .trappclo => 0x176 | .trappchi => 0x177 | .traparg => 0x178 | .peerid => 0x179 | .domsize => 0x17A
  | .bindlo => 0x17B | .bindhi => 0x17C | .wdog => 0x17D | .stepping => 0x17E | .resumes => 0x17F

/-- The uniform special register of a code. -/
def UniSpecial.ofCode (c : Nat) : Option UniSpecial :=
  match c - 0x150 with
  | 2 => some .grpid | 3 => some .grpw | 4 => some .ngrp | 6 => some .teamidX | 7 => some .teamidY
  | 8 => some .teamidZ | 9 => some .griddimX | 10 => some .griddimY | 11 => some .griddimZ
  | 12 => some .teamdimX | 13 => some .teamdimY | 14 => some .teamdimZ | 15 => some .teamh
  | 16 => some .pairside | 17 => some .coreno | 18 => some .dieno | 19 => some .slotno
  | 23 => some .execlo | 24 => some .exechi | 25 => some .regcnt | 26 => some .spadsz | 27 => some .accrows
  | 28 => some .arglo | 29 => some .arghi | 30 => some .launchno | 31 => some .prio | 32 => some .vfid
  | 33 => some .clklo | 34 => some .clkhi | 35 => some .therm | 36 => some .droopcnt | 37 => some .trapcode
  | 38 => some .trappclo | 39 => some .trappchi | 40 => some .traparg | 41 => some .peerid | 42 => some .domsize
  | 43 => some .bindlo | 44 => some .bindhi | 45 => some .wdog | 46 => some .stepping | 47 => some .resumes
  | _ => none

/-- Codes of the special registers that vary by lane or slice (06 R115). -/
def LaneSpecial.code : LaneSpecial → Nat
  | .laneid => 0x150 | .sliceid => 0x151 | .teamlane => 0x155 | .gangkey => 0x164 | .pathid => 0x165
  | .depth => 0x166

/-- The lane special register of a code. -/
def LaneSpecial.ofCode (c : Nat) : Option LaneSpecial :=
  match c - 0x150 with
  | 0 => some .laneid | 1 => some .sliceid | 5 => some .teamlane | 20 => some .gangkey | 21 => some .pathid
  | 22 => some .depth | _ => none

/-- The integer and floating constants' codes. -/
def constDec (c : Nat) : Option USrc :=
  if c < 0x180 then none
  else if c < 0x1C0 then (fin? 64 (c - 0x180)).map .nat
  else if c < 0x1E0 then (fin? 32 (c - 0x1C0)).map .neg
  else (fin? 32 (c - 0x1E0)).map .flt

/-- The code of a uniform position (R171). -/
def USrc.code : USrc → Nat
  | .s n => 0x100 + n.val | .t n => 0x140 + n.val | .k n => 0x148 + n.val | .x r => r.code
  | .nat n => 0x180 + n.val | .neg n => 0x1C0 + n.val | .flt n => 0x1E0 + n.val

/-- The uniform operand of a code. -/
def USrc.ofCode (c : Nat) : Option USrc :=
  if c < 0x100 then none
  else if c < 0x140 then (fin? 64 (c - 0x100)).map .s
  else if c < 0x148 then (fin? 8 (c - 0x140)).map .t
  else if c < 0x150 then (fin? 8 (c - 0x148)).map .k
  else if c < 0x180 then (UniSpecial.ofCode c).map .x
  else constDec c

/-- What a uniform operand of `n` registers names. -/
def USrc.use (n : Nat) (lanePos : Bool) : USrc → OpUse
  | .s b => .uniReg b.val n
  | .t b => ⟨[], [⟨b.val, lanePos⟩], []⟩
  | .k b => ⟨[], [], [b.val]⟩
  | _ => .nil

/-- The code of a lane position (R142). -/
def Src.code : Src → Nat
  | .v n => n.val | .l r => r.code | .u a => a.code

/-- The lane operand of a code. -/
def Src.ofCode (c : Nat) : Option Src :=
  if c < 0x100 then (fin? 256 c).map .v
  else match USrc.ofCode c with
    | some a => some (.u a)
    | none => (LaneSpecial.ofCode c).map .l

/-- What a lane operand of `n` registers names. -/
def Src.use (n : Nat) : Src → OpUse
  | .v b => .vec b.val n
  | .l _ => .nil
  | .u a => a.use n true

/-- Keep a decoded value that meets a condition. -/
def keepIf {α : Type} (p : α → Bool) : Option α → Option α
  | some a => if p a then some a else none
  | none => none

/-- An unused field holds 0 (R140). -/
def zero {n : Nat} : Codec Unit n := ⟨fun _ => 0, fun c => if c = 0 then some () else none, fun _ => .nil⟩
/-- A field that must hold the code 0x180 (14 R263). -/
def blank : Codec Unit 9 := ⟨fun _ => 0x180, fun c => if c = 0x180 then some () else none, fun _ => .nil⟩
/-- A source in a lane position. -/
def lanePos : Codec Src 9 := ⟨fun a => BitVec.ofNat 9 a.code, Src.ofCode, Src.use 1⟩
/-- A source in a lane position that the entry reads as `n` registers under a condition. -/
def lanePosIf (n : Nat) (p : Src → Bool) : Codec Src 9 :=
  ⟨fun a => BitVec.ofNat 9 a.code, fun c => keepIf p (Src.ofCode c), Src.use n⟩
/-- A source in a uniform position. -/
def uniPos : Codec USrc 9 := ⟨fun a => BitVec.ofNat 9 a.code, USrc.ofCode, USrc.use 1 false⟩
/-- A source in a uniform position that the entry reads as `n` registers under a condition. -/
def uniPosIf (n : Nat) (p : USrc → Bool) : Codec USrc 9 :=
  ⟨fun a => BitVec.ofNat 9 a.code, fun c => keepIf p (USrc.ofCode c), USrc.use n false⟩

/-- The code of a 64-bit uniform position. -/
def USrc64.code : USrc64 → Nat
  | .s n => 0x100 + 2 * n.val | .nat n => 0x180 + n.val | .neg n => 0x1C0 + n.val | .flt n => 0x1E0 + n.val
/-- The 64-bit uniform operand of a code. -/
def USrc64.ofCode (c : Nat) : Option USrc64 :=
  if c < 0x100 then none
  else if c < 0x140 then if c % 2 = 0 then (fin? 32 ((c - 0x100) / 2)).map .s else none
  else if c < 0x180 then none
  else if c < 0x1C0 then (fin? 64 (c - 0x180)).map .nat
  else if c < 0x1E0 then (fin? 32 (c - 0x1C0)).map .neg
  else (fin? 32 (c - 0x1E0)).map .flt
/-- What a 64-bit uniform operand names. -/
def USrc64.use : USrc64 → OpUse
  | .s n => .uniReg (2 * n.val) 2
  | _ => .nil
/-- A 64-bit uniform position. -/
def uniPos64 : Codec USrc64 9 := ⟨fun a => BitVec.ofNat 9 a.code, USrc64.ofCode, USrc64.use⟩

/-- A pair of vector registers. -/
def pair? (c : Nat) : Option (Fin 128) := if c % 2 = 0 then fin? 128 (c / 2) else none
/-- A pair of uniform registers, from its 9-bit code. -/
def uniPair? (c : Nat) : Option (Fin 32) := if 0x100 ≤ c ∧ c % 2 = 0 then fin? 32 ((c - 0x100) / 2) else none

/-- The code of a 64-bit lane position. -/
def Src64.code : Src64 → Nat
  | .v n => 2 * n.val | .u a => a.code
/-- The 64-bit lane operand of a code. -/
def Src64.ofCode (c : Nat) : Option Src64 :=
  if c < 0x100 then (pair? c).map .v else (USrc64.ofCode c).map .u
/-- A 64-bit lane position. -/
def lanePos64 : Codec Src64 9 :=
  ⟨fun a => BitVec.ofNat 9 a.code, Src64.ofCode,
   fun a => match a with | .v n => .vec (2 * n.val) 2 | .u b => b.use⟩

/-- The base of a lane access (14 R256). -/
def baseReg : Codec Base 9 :=
  ⟨fun a => match a with | .v n => BitVec.ofNat 9 (2 * n.val) | .s n => BitVec.ofNat 9 (0x100 + 2 * n.val),
   fun c => if c < 0x100 then (pair? c).map .v else (uniPair? c).map .s,
   fun a => match a with | .v n => .vec (2 * n.val) 2 | .s n => .uniReg (2 * n.val) 2⟩
/-- The operand of BR.CALLV (10 R187). -/
def callSrc : Codec CallSrc 9 :=
  ⟨fun a => match a with
     | .v n => BitVec.ofNat 9 (2 * n.val) | .s n => BitVec.ofNat 9 (0x100 + 2 * n.val)
     | .nat n => BitVec.ofNat 9 (0x180 + n.val) | .neg n => BitVec.ofNat 9 (0x1C0 + n.val),
   fun c =>
     if c < 0x100 then (pair? c).map .v
     else if c < 0x140 then (uniPair? c).map .s
     else if c < 0x180 then none
     else if c < 0x1C0 then (fin? 64 (c - 0x180)).map .nat
     else if c < 0x1E0 then (fin? 32 (c - 0x1C0)).map .neg else none,
   fun a => match a with | .v n => .vec (2 * n.val) 2 | .s n => .uniReg (2 * n.val) 2 | _ => .nil⟩
/-- The operand of SY.TRET (10 R192). -/
def retSrc : Codec RetSrc 9 :=
  ⟨fun a => match a with | .next => 0x180 | .s n => BitVec.ofNat 9 (0x100 + 2 * n.val),
   fun c => if c = 0x180 then some .next else (uniPair? c).map .s,
   fun a => match a with | .next => .nil | .s n => .uniReg (2 * n.val) 2⟩
/-- A DV operand (02 R54). -/
def intSrc : Codec IntSrc 9 :=
  ⟨fun a => match a with
     | .s n => BitVec.ofNat 9 (0x100 + n.val) | .nat n => BitVec.ofNat 9 (0x180 + n.val)
     | .neg n => BitVec.ofNat 9 (0x1C0 + n.val),
   fun c =>
     if c < 0x100 then none
     else if c < 0x140 then (fin? 64 (c - 0x100)).map .s
     else if c < 0x180 then none
     else if c < 0x1C0 then (fin? 64 (c - 0x180)).map .nat
     else if c < 0x1E0 then (fin? 32 (c - 0x1C0)).map .neg else none,
   fun a => match a with | .s n => .uniReg n.val 1 | _ => .nil⟩
/-- The address operand of DV.REG (02 R54, R55). -/
def intPair : Codec IntPair 9 :=
  ⟨fun a => match a with
     | .s n => BitVec.ofNat 9 (0x100 + 2 * n.val) | .nat n => BitVec.ofNat 9 (0x180 + n.val)
     | .neg n => BitVec.ofNat 9 (0x1C0 + n.val),
   fun c =>
     if c < 0x100 then none
     else if c < 0x140 then (uniPair? c).map .s
     else if c < 0x180 then none
     else if c < 0x1C0 then (fin? 64 (c - 0x180)).map .nat
     else if c < 0x1E0 then (fin? 32 (c - 0x1C0)).map .neg else none,
   fun a => match a with | .s n => .uniReg (2 * n.val) 2 | _ => .nil⟩
/-- A predicate source (10 R170). -/
def predSrc : Codec PSrc 9 :=
  ⟨fun a => match a with
     | .p n => BitVec.ofNat 9 n.val | .q n => BitVec.ofNat 9 (0x60 + n.val) | .no => 0x7E | .yes => 0x7F,
   fun c =>
     if c < 0x60 then (fin? 96 c).map .p
     else if c < 0x70 then (fin? 16 (c - 0x60)).map .q
     else if c = 0x7E then some .no else if c = 0x7F then some .yes else none,
   fun _ => .nil⟩
/-- A uniform predicate source (10 R173, R175). -/
def uniPredSrc : Codec QSrc 9 :=
  ⟨fun a => match a with | .q n => BitVec.ofNat 9 (0x60 + n.val) | .no => 0x7E | .yes => 0x7F,
   fun c =>
     if 0x60 ≤ c ∧ c < 0x70 then (fin? 16 (c - 0x60)).map .q
     else if c = 0x7E then some .no else if c = 0x7F then some .yes else none,
   fun _ => .nil⟩
/-- The part of SM.MOVH (10 R176). -/
def movhPart : Codec Bool 9 :=
  ⟨fun a => if a then 0x181 else 0x180,
   fun c => if c = 0x180 then some false else if c = 0x181 then some true else none, fun _ => .nil⟩
/-- `n` vector registers from an aligned one. -/
def vecRegs (n : Nat) : Codec (Fin 256) 9 :=
  ⟨fun a => BitVec.ofNat 9 a.val, fun c => keepIf (fun a : Fin 256 => a.val % n == 0) (fin? 256 c), fun a => .vec a.val n⟩
/-- One vector register. -/
def vecReg : Codec (Fin 256) 9 := ⟨fun a => BitVec.ofNat 9 a.val, fin? 256, fun a => .vec a.val 1⟩
/-- `n` uniform registers from an aligned one. -/
def uniRegs (n : Nat) : Codec (Fin 64) 9 :=
  ⟨fun a => BitVec.ofNat 9 (0x100 + a.val),
   fun c => if c < 0x100 then none else keepIf (fun a : Fin 64 => a.val % n == 0) (fin? 64 (c - 0x100)),
   fun a => .uniReg a.val n⟩
/-- An even uniform pair. -/
def uniPair : Codec (Fin 32) 9 :=
  ⟨fun a => BitVec.ofNat 9 (0x100 + 2 * a.val), uniPair?, fun a => .uniReg (2 * a.val) 2⟩
/-- Four uniform registers s4j to s4j + 3 (14 R274). -/
def uniQuad : Codec (Fin 16) 9 :=
  ⟨fun a => BitVec.ofNat 9 (0x100 + 4 * a.val),
   fun c => if 0x100 ≤ c ∧ c % 4 = 0 then fin? 16 ((c - 0x100) / 4) else none, fun a => .uniReg (4 * a.val) 4⟩
/-- A fold register (12 R238). -/
def foldReg : Codec (Fin 8) 9 := ⟨fun a => BitVec.ofNat 9 a.val, fin? 8, fun _ => .nil⟩
/-- A token (14 R276). -/
def token : Codec (Fin 8) 9 :=
  ⟨fun a => BitVec.ofNat 9 (0x148 + a.val), fun c => if c < 0x148 then none else fin? 8 (c - 0x148), fun _ => .nil⟩
/-- The destination of an atomic (14 R263). -/
def atDest (w : Bool) : Codec AtDest 9 :=
  ⟨fun a => match a with | .v n => BitVec.ofNat 9 n.val | .none => 0x180,
   fun c => if c = 0x180 then some .none else keepIf (AtDest.okFor w) ((fin? 256 c).map .v),
   fun a => match a with | .v n => .vec n.val (if w then 2 else 1) | .none => .nil⟩

/-! The ten bits WS and D together (R140, R146). -/

/-- A destination that goes to no latch: WS is 0. -/
def noWs {α : Type} (k : Codec α 9) : Codec α 10 :=
  ⟨fun a => (0 : BitVec 1) ++ k.enc a, fun c => if c < 512 then k.dec c else none, k.use⟩
/-- A destination that WS may replace by the latch. -/
def withWs {α : Type} (k : Codec α 9) : Codec (Dest α) 10 :=
  ⟨fun a => match a with | .reg d => (0 : BitVec 1) ++ k.enc d | .latch => 512,
   fun c => if c < 512 then (k.dec c).map .reg else if c = 512 then some .latch else none,
   fun a => match a with | .reg d => k.use d | .latch => .nil⟩
/-- The destination of CV.CVT. -/
def cvtDest (m : Cvt) : Codec (Dest (Fin 256)) 10 :=
  let k := withWs (vecRegs (if m.wideDst then 2 else 1))
  ⟨k.enc, fun c => keepIf m.destOk (k.dec c), k.use⟩
/-- A vector or uniform destination (11 R219). -/
def vecUniReg : Codec VSReg 9 :=
  ⟨fun a => match a with | .v n => BitVec.ofNat 9 n.val | .s n => BitVec.ofNat 9 (0x100 + n.val),
   fun c => if c < 0x100 then (fin? 256 c).map .v else (fin? 64 (c - 0x100)).map .s,
   fun a => match a with | .v n => .vec n.val 1 | .s n => .uniReg n.val 1⟩
/-- A uniform predicate as destination. -/
def uniPredDest : Codec (Fin 16) 9 :=
  ⟨fun a => BitVec.ofNat 9 (0x60 + a.val), fun c => if c < 0x60 then none else fin? 16 (c - 0x60), fun _ => .nil⟩
/-- A lane predicate as destination. -/
def predDest : Codec (Fin 96) 9 := ⟨fun a => BitVec.ofNat 9 a.val, fin? 96, fun _ => .nil⟩
/-- An even vector pair as destination. -/
def vecPair : Codec (Fin 128) 9 := ⟨fun a => BitVec.ofNat 9 (2 * a.val), pair?, fun a => .vec (2 * a.val) 2⟩

/-- GUARD and GNEG (R141). -/
def guardCodec (k : GuardKind) : Codec Guard 8 :=
  ⟨fun g => match g with
     | .always => BitVec.ofNat 8 (127 * 2)
     | .lane n neg => BitVec.ofNat 8 (n.val * 2 + neg.toNat)
     | .uni n neg => BitVec.ofNat 8 ((96 + n.val) * 2 + neg.toNat),
   fun c =>
     let neg := c % 2 == 1
     let n := c / 2
     if n < 96 then keepIf (Guard.fits k) ((fin? 96 n).map (Guard.lane · neg))
     else if n < 112 then (fin? 16 (n - 96)).map (Guard.uni · neg)
     else if n = 127 ∧ c % 2 = 0 then some .always else none,
   fun _ => .nil⟩

/-- The third operand of CV.PACK, which PACK.H does not use (11 R212). -/
def packC : PackKind → Codec Src 9
  | .h => ⟨fun _ => 0, fun c => if c = 0 then some (.v 0) else none, fun _ => .nil⟩
  | _ => lanePos

/-! ## Modifier codes -/

/-- One field's code without operands. -/
structure Field (α : Type) (n : Nat) where
  enc : α → BitVec n
  dec : Nat → Option α

/-- The field holds 0. -/
def noField {n : Nat} : Field Unit n := ⟨fun _ => 0, fun c => if c = 0 then some () else none⟩
/-- One bit, the others 0. -/
def flagField {n : Nat} : Field Bool n :=
  ⟨fun b => if b then 1 else 0, fun c => if c = 0 then some false else if c = 1 then some true else none⟩
/-- A number below `k`. -/
def finField {n : Nat} (k : Nat) : Field (Fin k) n := ⟨fun a => BitVec.ofNat n a.val, fin? k⟩
/-- The code of a Cond. -/
def Cond.code : Cond → Nat
  | .eq => 0 | .ne => 1 | .slt => 2 | .sle => 3 | .sgt => 4 | .sge => 5 | .ult => 6 | .ule => 7 | .ugt => 8
  | .uge => 9
/-- The Cond of a code. -/
def Cond.ofCode : Nat → Option Cond
  | 0 => some .eq | 1 => some .ne | 2 => some .slt | 3 => some .sle | 4 => some .sgt | 5 => some .sge
  | 6 => some .ult | 7 => some .ule | 8 => some .ugt | 9 => some .uge | _ => none
/-- The code of a DotMode. -/
def DotMode.code : DotMode → Nat
  | .ss => 0 | .uu => 1 | .su => 2
/-- The DotMode of a code. -/
def DotMode.ofCode : Nat → Option DotMode
  | 0 => some .ss | 1 => some .uu | 2 => some .su | _ => none
/-- The code of a Cvt. -/
def Cvt.code : Cvt → Nat
  | .f32F16 => 0 | .f32Bf16 => 1 | .f32E4m3 => 2 | .f32E5m2 => 3 | .f16F32 => 4 | .bf16F32 => 5 | .e4m3F32 => 6
  | .e5m2F32 => 7 | .f64F32 => 8 | .f32F64 => 9 | .f32I32 => 10 | .f32N32 => 11 | .i32F32 => 12 | .n32F32 => 13
  | .f64I32 => 14 | .f64N32 => 15 | .i32F64 => 16 | .n32F64 => 17 | .f64I64 => 18 | .i64F64 => 19
  | .i16I32 => 20 | .n16N32 => 21 | .i8I32 => 22 | .n8N32 => 23 | .e4m3F16 => 24 | .e5m2F16 => 25
  | .e4m3Bf16 => 26 | .e5m2Bf16 => 27
/-- The Cvt of a code. -/
def Cvt.ofCode : Nat → Option Cvt
  | 0 => some .f32F16 | 1 => some .f32Bf16 | 2 => some .f32E4m3 | 3 => some .f32E5m2 | 4 => some .f16F32
  | 5 => some .bf16F32 | 6 => some .e4m3F32 | 7 => some .e5m2F32 | 8 => some .f64F32 | 9 => some .f32F64
  | 10 => some .f32I32 | 11 => some .f32N32 | 12 => some .i32F32 | 13 => some .n32F32 | 14 => some .f64I32
  | 15 => some .f64N32 | 16 => some .i32F64 | 17 => some .n32F64 | 18 => some .f64I64 | 19 => some .i64F64
  | 20 => some .i16I32 | 21 => some .n16N32 | 22 => some .i8I32 | 23 => some .n8N32 | 24 => some .e4m3F16
  | 25 => some .e5m2F16 | 26 => some .e4m3Bf16 | 27 => some .e5m2Bf16 | _ => none
/-- The code of a PackKind. -/
def PackKind.code : PackKind → Nat
  | .h => 0 | .b => 1 | .n => 2
/-- The PackKind of a code. -/
def PackKind.ofCode : Nat → Option PackKind
  | 0 => some .h | 1 => some .b | 2 => some .n | _ => none
/-- The code of a UnpkKind. -/
def UnpkKind.code : UnpkKind → Nat
  | .z16 => 0 | .s16 => 1 | .z8 => 2 | .s8 => 3 | .z4 => 4
/-- The UnpkKind of a code. -/
def UnpkKind.ofCode : Nat → Option UnpkKind
  | 0 => some .z16 | 1 => some .s16 | 2 => some .z8 | 3 => some .s8 | 4 => some .z4 | _ => none
/-- The code of a DqKind. -/
def DqKind.code : DqKind → Nat
  | .f32 => 0 | .f16 => 1 | .bf => 2
/-- The DqKind of a code. -/
def DqKind.ofCode : Nat → Option DqKind
  | 0 => some .f32 | 1 => some .f16 | 2 => some .bf | _ => none
/-- The code of a Qf8Kind. -/
def Qf8Kind.code : Qf8Kind → Nat
  | .fmt => 0 | .e4m3 => 1 | .e5m2 => 2
/-- The Qf8Kind of a code. -/
def Qf8Kind.ofCode : Nat → Option Qf8Kind
  | 0 => some .fmt | 1 => some .e4m3 | 2 => some .e5m2 | _ => none
/-- The code of a SrndKind. -/
def SrndKind.code : SrndKind → Nat
  | .f16 => 0 | .bf => 1 | .e4m3 => 2 | .e5m2 => 3
/-- The SrndKind of a code. -/
def SrndKind.ofCode : Nat → Option SrndKind
  | 0 => some .f16 | 1 => some .bf | 2 => some .e4m3 | 3 => some .e5m2 | _ => none
/-- The code of a CmpType. -/
def CmpType.code : CmpType → Nat
  | .i32 => 0 | .n32 => 1 | .f32 => 2 | .f64 => 3
/-- The CmpType of a code. -/
def CmpType.ofCode : Nat → Option CmpType
  | 0 => some .i32 | 1 => some .n32 | 2 => some .f32 | 3 => some .f64 | _ => none
/-- The code of a CmpCond. -/
def CmpCond.code : CmpCond → Nat
  | .eq => 0 | .ne => 1 | .lt => 2 | .le => 3 | .gt => 4 | .ge => 5 | .un => 6 | .or => 7
/-- The CmpCond of a code. -/
def CmpCond.ofCode : Nat → Option CmpCond
  | 0 => some .eq | 1 => some .ne | 2 => some .lt | 3 => some .le | 4 => some .gt | 5 => some .ge
  | 6 => some .un | 7 => some .or | _ => none
/-- The code of a ClassFmt. -/
def ClassFmt.code : ClassFmt → Nat
  | .f32 => 0 | .f64 => 1 | .f16 => 2 | .bf => 3
/-- The ClassFmt of a code. -/
def ClassFmt.ofCode : Nat → Option ClassFmt
  | 0 => some .f32 | 1 => some .f64 | 2 => some .f16 | 3 => some .bf | _ => none
/-- The code of a ShflMode. -/
def ShflMode.code : ShflMode → Nat
  | .idx => 0 | .up => 1 | .dn => 2 | .xor => 3
/-- The ShflMode of a code. -/
def ShflMode.ofCode : Nat → Option ShflMode
  | 0 => some .idx | 1 => some .up | 2 => some .dn | 3 => some .xor | _ => none
/-- The code of a RedOp. -/
def RedOp.code : RedOp → Nat
  | .add => 0 | .fadd => 1 | .min => 2 | .max => 3 | .minu => 4 | .maxu => 5 | .fmin => 6 | .fmax => 7
  | .and => 8 | .or => 9 | .xor => 10
/-- The RedOp of a code. -/
def RedOp.ofCode : Nat → Option RedOp
  | 0 => some .add | 1 => some .fadd | 2 => some .min | 3 => some .max | 4 => some .minu | 5 => some .maxu
  | 6 => some .fmin | 7 => some .fmax | 8 => some .and | 9 => some .or | 10 => some .xor | _ => none
/-- The code of a FoldType. -/
def FoldType.code : FoldType → Nat
  | .i => 0 | .n => 1 | .f => 2 | .bf => 3 | .e4m3 => 4 | .e5m2 => 5
/-- The FoldType of a code. -/
def FoldType.ofCode : Nat → Option FoldType
  | 0 => some .i | 1 => some .n | 2 => some .f | 3 => some .bf | 4 => some .e4m3 | 5 => some .e5m2 | _ => none
/-- The code of a FoldOp. -/
def FoldOp.code : FoldOp → Nat
  | .add => 0 | .max => 1 | .min => 2
/-- The FoldOp of a code. -/
def FoldOp.ofCode : Nat → Option FoldOp
  | 0 => some .add | 1 => some .max | 2 => some .min | _ => none
/-- The code of a Axis. -/
def Axis.code : Axis → Nat
  | .x => 0 | .y => 1 | .s0 => 2 | .s1 => 3
/-- The Axis of a code. -/
def Axis.ofCode : Nat → Option Axis
  | 0 => some .x | 1 => some .y | 2 => some .s0 | 3 => some .s1 | _ => none
/-- The code of a EdgeSel. -/
def EdgeSel.code : EdgeSel → Nat
  | .own => 0 | .zero => 1 | .wrap => 2 | .clamp => 3 | .mirror => 4
/-- The EdgeSel of a code. -/
def EdgeSel.ofCode : Nat → Option EdgeSel
  | 0 => some .own | 1 => some .zero | 2 => some .wrap | 3 => some .clamp | 4 => some .mirror | _ => none
/-- The code of a Size. -/
def Size.code : Size → Nat
  | .z8 => 0 | .s8 => 1 | .z16 => 2 | .s16 => 3 | .b32 => 4 | .b64 => 5 | .b128 => 6
/-- The Size of a code. -/
def Size.ofCode : Nat → Option Size
  | 0 => some .z8 | 1 => some .s8 | 2 => some .z16 | 3 => some .s16 | 4 => some .b32 | 5 => some .b64
  | 6 => some .b128 | _ => none
/-- The code of a XFmt. -/
def XFmt.code : XFmt → Nat
  | .f32 => 0 | .f16 => 1 | .bf => 2
/-- The XFmt of a code. -/
def XFmt.ofCode : Nat → Option XFmt
  | 0 => some .f32 | 1 => some .f16 | 2 => some .bf | _ => none
/-- The code of a Scope. -/
def Scope.code : Scope → Nat
  | .grp => 0 | .team => 1 | .dev => 2 | .sys => 3
/-- The Scope of a code. -/
def Scope.ofCode : Nat → Option Scope
  | 0 => some .grp | 1 => some .team | 2 => some .dev | 3 => some .sys | _ => none
/-- The code of a CopySize. -/
def CopySize.code : CopySize → Nat
  | .b4 => 0 | .b8 => 1 | .b16 => 2 | .b32 => 3
/-- The CopySize of a code. -/
def CopySize.ofCode : Nat → Option CopySize
  | 0 => some .b4 | 1 => some .b8 | 2 => some .b16 | 3 => some .b32 | _ => none
/-- The code of a MxType. -/
def MxType.code : MxType → Nat
  | .e4m3 => 0 | .e4e5 => 1 | .e5e4 => 2 | .e5m2 => 3 | .bf16 => 4 | .f16 => 5 | .nq4 => 6 | .nq4e5 => 7
/-- The MxType of a code. -/
def MxType.ofCode : Nat → Option MxType
  | 0 => some .e4m3 | 1 => some .e4e5 | 2 => some .e5e4 | 3 => some .e5m2 | 4 => some .bf16 | 5 => some .f16
  | 6 => some .nq4 | 7 => some .nq4e5 | _ => none
/-- The code of a AxCvt. -/
def AxCvt.code : AxCvt → Nat
  | .f32 => 0 | .f16 => 1 | .bf16 => 2 | .e4m3 => 3 | .e5m2 => 4
/-- The AxCvt of a code. -/
def AxCvt.ofCode : Nat → Option AxCvt
  | 0 => some .f32 | 1 => some .f16 | 2 => some .bf16 | 3 => some .e4m3 | 4 => some .e5m2 | _ => none
/-- The code of a RedType. -/
def RedType.code : RedType → Nat
  | .f32 => 0 | .bf16 => 1 | .f16 => 2 | .i32 => 3 | .xc => 4
/-- The RedType of a code. -/
def RedType.ofCode : Nat → Option RedType
  | 0 => some .f32 | 1 => some .bf16 | 2 => some .f16 | 3 => some .i32 | 4 => some .xc | _ => none
/-- Size codes of stores: codes 1 and 3 are reserved (14 R256). -/
def StSize.code : StSize → Nat
  | .b8 => 0 | .b16 => 2 | .b32 => 4 | .b64 => 5 | .b128 => 6
/-- The StSize of a code. -/
def StSize.ofCode : Nat → Option StSize
  | 0 => some .b8 | 2 => some .b16 | 4 => some .b32 | 5 => some .b64 | 6 => some .b128 | _ => none

/-- DotMode as a modifier. -/
def dotField {n : Nat} : Field DotMode n := ⟨fun a => BitVec.ofNat n a.code, DotMode.ofCode⟩
/-- Cvt as a modifier. -/
def cvtField {n : Nat} : Field Cvt n := ⟨fun a => BitVec.ofNat n a.code, Cvt.ofCode⟩
/-- PackKind as a modifier. -/
def packField {n : Nat} : Field PackKind n := ⟨fun a => BitVec.ofNat n a.code, PackKind.ofCode⟩
/-- UnpkKind as a modifier. -/
def unpkField {n : Nat} : Field UnpkKind n := ⟨fun a => BitVec.ofNat n a.code, UnpkKind.ofCode⟩
/-- DqKind as a modifier. -/
def dqField {n : Nat} : Field DqKind n := ⟨fun a => BitVec.ofNat n a.code, DqKind.ofCode⟩
/-- Qf8Kind as a modifier. -/
def qf8Field {n : Nat} : Field Qf8Kind n := ⟨fun a => BitVec.ofNat n a.code, Qf8Kind.ofCode⟩
/-- SrndKind as a modifier. -/
def srndField {n : Nat} : Field SrndKind n := ⟨fun a => BitVec.ofNat n a.code, SrndKind.ofCode⟩
/-- ClassFmt as a modifier. -/
def clsField {n : Nat} : Field ClassFmt n := ⟨fun a => BitVec.ofNat n a.code, ClassFmt.ofCode⟩
/-- ShflMode as a modifier. -/
def shflField {n : Nat} : Field ShflMode n := ⟨fun a => BitVec.ofNat n a.code, ShflMode.ofCode⟩
/-- RedOp as a modifier. -/
def redField {n : Nat} : Field RedOp n := ⟨fun a => BitVec.ofNat n a.code, RedOp.ofCode⟩
/-- CopySize as a modifier. -/
def cpnField {n : Nat} : Field CopySize n := ⟨fun a => BitVec.ofNat n a.code, CopySize.ofCode⟩
/-- MxType as a modifier. -/
def mxField {n : Nat} : Field MxType n := ⟨fun a => BitVec.ofNat n a.code, MxType.ofCode⟩
/-- MOD of SI.CMP: bit 4 selects pairs (10 R174). -/
def siCondField : Field SiCond 5 :=
  ⟨fun m => BitVec.ofNat 5 (m.cond.code + if m.wide then 16 else 0),
   fun c => (Cond.ofCode (c % 16)).map (SiCond.mk (decide (16 ≤ c)))⟩
/-- MOD of VF, VH and VD (11 R205). -/
def fModField (n : Nat) (half : Bool) : Field FMod 5 :=
  ⟨fun m => BitVec.ofNat 5 (m.na.toNat + 2 * m.nb.toNat + 4 * m.nc.toNat + 8 * m.aa.toNat + 16 * m.bf.toNat),
   fun c => keepIf (FMod.okFor n half)
     (some ⟨c % 2 == 1, c / 2 % 2 == 1, c / 4 % 2 == 1, c / 8 % 2 == 1, c / 16 % 2 == 1⟩)⟩
/-- MOD of VC.CMP (11 R216). -/
def vcModField : Field VcMod 5 :=
  ⟨fun m => BitVec.ofNat 5 (m.ty.code * 8 + m.cond.code),
   fun c => keepIf VcMod.ok (match CmpType.ofCode (c / 8), CmpCond.ofCode (c % 8) with
     | some t, some x => some ⟨t, x⟩
     | _, _ => none)⟩
/-- MOD of CL.SHFX; a segment wider than the group is refused (11 R220). -/
def shfxField (width : Nat) : Field ShfxMod 5 :=
  ⟨fun m => BitVec.ofNat 5 (m.mode.code * 8 + m.g.val),
   fun c => keepIf (fun m : ShfxMod => m.ok && decide (2 ^ m.g.val ≤ width))
     (match ShflMode.ofCode (c / 8), fin? 8 (c % 8) with
     | some t, some g => some ⟨t, g⟩
     | _, _ => none)⟩
/-- MOD of PL.FLD and PL.SCN (12 R233). -/
def foldModField : Field FoldMod 6 :=
  ⟨fun m => BitVec.ofNat 6 (m.ty.code * 4 + m.op.code),
   fun c => match FoldType.ofCode (c / 4), FoldOp.ofCode (c % 4) with
     | some t, some o => some ⟨t, o⟩
     | _, _ => none⟩
/-- MOD8 of AX.DRN (18 R297). -/
def drnField : Field DrnMod 8 :=
  ⟨fun m => BitVec.ofNat 8 (m.sat.toNat * 128 + m.clr.toNat * 64 + m.freg.val * 8 + m.cvt.code),
   fun c => match fin? 8 (c / 8 % 8), AxCvt.ofCode (c % 8) with
     | some f, some t => some ⟨c / 128 == 1, c / 64 % 2 == 1, f, t⟩
     | _, _ => none⟩
/-- MOD8 of AX.FIL (18 R297). -/
def filField : Field FilMod 8 :=
  ⟨fun m => BitVec.ofNat 8 (m.freg.val * 8 + m.cvt.code),
   fun c => match fin? 8 (c / 8), AxCvt.ofCode (c % 8) with
     | some f, some t => if t = .e5m2 then none else some ⟨f, t⟩
     | _, _ => none⟩
/-- MOD8 of FB.PUT (18 R300). -/
def putField : Field PutMod 8 :=
  ⟨fun m => BitVec.ofNat 8 (m.st.toNat + 2 * m.mc.toNat + 4 * m.sp.toNat),
   fun c => if c < 8 then keepIf PutMod.ok (some ⟨c % 2 == 1, c / 2 % 2 == 1, c / 4 == 1⟩) else none⟩
/-- MOD8 of FB.RED (18 R303). -/
def fbRedField : Field FbRedMod 8 :=
  ⟨fun m => BitVec.ofNat 8 (m.e5.toNat * 32 + m.rs.toNat * 16 + m.d.toNat * 8 + m.ty.code),
   fun c => if c < 64 then
     keepIf FbRedMod.ok ((RedType.ofCode (c % 8)).map (FbRedMod.mk (c / 32 == 1) (c / 16 % 2 == 1) (c / 8 % 2 == 1)))
     else none⟩
/-- SARG of SN.FENCE (14 R265). -/
def fenceField : Field FenceMod 23 :=
  ⟨fun m => BitVec.ofNat 23 (m.acq.toNat * 8 + m.rel.toNat * 4 + m.scope.code),
   fun c => if c < 16 then
     keepIf FenceMod.ok ((Scope.ofCode (c % 4)).map (FenceMod.mk (c / 8 == 1) (c / 4 % 2 == 1))) else none⟩
/-- A set of paths in five bits (14 R265). -/
def PathSet.code (m : PathSet) : Nat :=
  m.l.toNat + 2 * m.g.toNat + 4 * m.c.toNat + 8 * m.m.toNat + 16 * m.f.toNat
/-- The set of five bits. -/
def PathSet.ofCode (c : Nat) : PathSet :=
  ⟨c % 2 == 1, c / 2 % 2 == 1, c / 4 % 2 == 1, c / 8 % 2 == 1, c / 16 % 2 == 1⟩
/-- SARG of SN.XF (14 R265). -/
def xfField : Field XfMod 23 :=
  ⟨fun m => BitVec.ofNat 23 (m.src.code + 32 * m.dst.code),
   fun c => if c < 1024 then keepIf XfMod.ok (some ⟨.ofCode (c % 32), .ofCode (c / 32)⟩) else none⟩
/-- SARG of SN.BAR (14 R265). -/
def barField : Field BarMod 23 :=
  ⟨fun m => BitVec.ofNat 23 (m.x.toNat * 16 + m.bar.val),
   fun c => if c < 32 then (fin? 16 (c % 16)).map (BarMod.mk (c / 16 == 1)) else none⟩

/-! ## The formats (R140) -/

/-- Bits [63:50]: C, Q, CLASS, FUNC (R139). -/
def headWord (c q : Bool) (cls func : Nat) (body : BitVec 50) : BitVec 64 :=
  BitVec.ofBool c ++ BitVec.ofBool q ++ BitVec.ofNat 6 cls ++ BitVec.ofNat 6 func ++ body
/-- A field of a word, as a number. -/
def bits (w : BitVec 64) (lo n : Nat) : Nat := (w.extractLsb' lo n).toNat
/-- The chain bit. -/
def cBit (w : BitVec 64) : Bool := w.getLsbD 63
/-- The safe-point bit. -/
def qBit (w : BitVec 64) : Bool := w.getLsbD 62

variable {δ α β γ μ σ : Type}

/-- How an instruction of format A fills its fields; operand codes may depend on the modifier. -/
structure ShapeA (δ α β γ μ : Type) where
  guard : GuardKind
  mod : Field μ 5
  d : μ → Codec δ 10
  a : μ → Codec α 9
  b : μ → Codec β 9
  c : μ → Codec γ 9

/-- Bits [49:0] of format A. -/
def ShapeA.body (k : ShapeA δ α β γ μ) (w : FmtA δ α β γ μ) : BitVec 50 :=
  (guardCodec k.guard).enc w.g ++ (k.d w.mod).enc w.d ++ (k.a w.mod).enc w.a ++ (k.b w.mod).enc w.b
    ++ (k.c w.mod).enc w.cc ++ k.mod.enc w.mod
/-- Format A read from a word: the modifier first, then the operands (R150). -/
def ShapeA.parse (k : ShapeA δ α β γ μ) (mk : FmtA δ α β γ μ → Instr) (w : BitVec 64) : Except DecodeFault Instr :=
  match k.mod.dec (bits w 0 5) with
  | none => .error .illegalInstruction
  | some m =>
    match (guardCodec k.guard).dec (bits w 42 8), (k.d m).dec (bits w 32 10), (k.a m).dec (bits w 23 9),
      (k.b m).dec (bits w 14 9), (k.c m).dec (bits w 5 9) with
    | some g, some d, some a, some b, some c => .ok (mk ⟨cBit w, qBit w, g, d, a, b, c, m⟩)
    | _, _, _, _, _ => .error .illegalOperand
/-- What an instruction of format A names. -/
def ShapeA.use (k : ShapeA δ α β γ μ) (w : FmtA δ α β γ μ) : OpUse :=
  ((k.d w.mod).use w.d).join (((k.a w.mod).use w.a).join (((k.b w.mod).use w.b).join ((k.c w.mod).use w.cc)))

/-- The sources that an instruction of format A names. -/
def ShapeA.src (k : ShapeA δ α β γ μ) (w : FmtA δ α β γ μ) : OpUse :=
  ((k.a w.mod).use w.a).join (((k.b w.mod).use w.b).join ((k.c w.mod).use w.cc))

/-- How an instruction of format I fills its fields; `low` keeps the immediate's upper bits 0. -/
structure ShapeI (δ α : Type) where
  guard : GuardKind
  d : Codec δ 10
  a : Codec α 9
  ok : α → BitVec 23 → Bool
/-- Bits [49:0] of format I. -/
def ShapeI.body (k : ShapeI δ α) (w : FmtI δ α) : BitVec 50 :=
  (guardCodec k.guard).enc w.g ++ k.d.enc w.d ++ k.a.enc w.a ++ w.imm
/-- Format I read from a word. -/
def ShapeI.parse (k : ShapeI δ α) (mk : FmtI δ α → Instr) (w : BitVec 64) : Except DecodeFault Instr :=
  match (guardCodec k.guard).dec (bits w 42 8), k.d.dec (bits w 32 10), k.a.dec (bits w 23 9) with
  | some g, some d, some a =>
    if k.ok a (w.extractLsb' 0 23) then .ok (mk ⟨cBit w, qBit w, g, d, a, w.extractLsb' 0 23⟩)
    else .error .illegalOperand
  | _, _, _ => .error .illegalOperand
/-- What an instruction of format I names. -/
def ShapeI.use (k : ShapeI δ α) (w : FmtI δ α) : OpUse := (k.d.use w.d).join (k.a.use w.a)

/-- The source that an instruction of format I names. -/
def ShapeI.src (k : ShapeI δ α) (w : FmtI δ α) : OpUse := k.a.use w.a

/-- How an instruction of format S fills its fields. -/
structure ShapeS (δ α σ : Type) where
  guard : GuardKind
  d : Codec δ 10
  a : Codec α 9
  sarg : Field σ 23
/-- Bits [49:0] of format S. -/
def ShapeS.body (k : ShapeS δ α σ) (w : FmtS δ α σ) : BitVec 50 :=
  (guardCodec k.guard).enc w.g ++ k.d.enc w.d ++ k.a.enc w.a ++ k.sarg.enc w.sarg
/-- Format S read from a word. -/
def ShapeS.parse (k : ShapeS δ α σ) (mk : FmtS δ α σ → Instr) (w : BitVec 64) : Except DecodeFault Instr :=
  match (guardCodec k.guard).dec (bits w 42 8), k.d.dec (bits w 32 10), k.a.dec (bits w 23 9),
    k.sarg.dec (bits w 0 23) with
  | some g, some d, some a, some x => .ok (mk ⟨cBit w, qBit w, g, d, a, x⟩)
  | _, _, _, _ => .error .illegalOperand
/-- What an instruction of format S names. -/
def ShapeS.use (k : ShapeS δ α σ) (w : FmtS δ α σ) : OpUse := (k.d.use w.d).join (k.a.use w.a)

/-- The source that an instruction of format S names. -/
def ShapeS.src (k : ShapeS δ α σ) (w : FmtS δ α σ) : OpUse := k.a.use w.a

/-- How an instruction of format M fills its operand fields, by its size or kind. -/
structure ShapeM (δ α β σ : Type) where
  guard : GuardKind
  d : σ → Codec δ 9
  a : Codec α 9
  b : σ → Codec β 9
/-- Bits [49:0] of format M. -/
def ShapeM.body (k : ShapeM δ α β σ) (w : FmtM δ α β σ) : BitVec 50 :=
  (guardCodec k.guard).enc w.g ++ BitVec.ofNat 2 (match w.ord with | some x => x.code | none => 0)
    ++ (k.d w.sub).enc w.d ++ k.a.enc w.a ++ (k.b w.sub).enc w.b ++ w.off
/-- SCOPE under ORD: it must be 0 in an unordered access (R140). -/
def ordDec (ord : Bool) (scope : Nat) : Option (Option Scope) :=
  if ord then (Scope.ofCode scope).map some else if scope = 0 then some none else none
/-- Format M read from a word, its FUNC subfields known. -/
def ShapeM.parse (k : ShapeM δ α β σ) (mk : FmtM δ α β σ → Instr) (ord : Bool) (sub : σ) (w : BitVec 64) :
    Except DecodeFault Instr :=
  match (guardCodec k.guard).dec (bits w 42 8), ordDec ord (bits w 40 2), (k.d sub).dec (bits w 31 9),
    k.a.dec (bits w 22 9), (k.b sub).dec (bits w 13 9) with
  | some g, some o, some d, some a, some b => .ok (mk ⟨cBit w, qBit w, g, o, d, a, b, sub, w.extractLsb' 0 13⟩)
  | _, _, _, _, _ => .error .illegalOperand
/-- What an instruction of format M names. -/
def ShapeM.use (k : ShapeM δ α β σ) (w : FmtM δ α β σ) : OpUse :=
  ((k.d w.sub).use w.d).join ((k.a.use w.a).join ((k.b w.sub).use w.b))

/-- The base and index, or data, that an instruction of format M names. -/
def ShapeM.src (k : ShapeM δ α β σ) (w : FmtM δ α β σ) : OpUse := (k.a.use w.a).join ((k.b w.sub).use w.b)

/-- How an instruction of format B fills its fields: which offsets it uses. -/
structure ShapeB where
  guard : GuardKind
  tgt : Bool
  join : Bool
/-- Bits [49:0] of format B. -/
def ShapeB.body (k : ShapeB) (w : FmtB) : BitVec 50 :=
  (guardCodec k.guard).enc w.g ++ BitVec.ofNat 2 w.kind.val ++ w.tgt ++ w.join
/-- Format B read from a word. -/
def ShapeB.parse (k : ShapeB) (mk : FmtB → Instr) (w : BitVec 64) : Except DecodeFault Instr :=
  match (guardCodec k.guard).dec (bits w 42 8), fin? 3 (bits w 40 2) with
  | some g, some x =>
    if (k.tgt || bits w 16 24 == 0) && (k.join || bits w 0 16 == 0) then
      .ok (mk ⟨cBit w, qBit w, g, x, w.extractLsb' 16 24, w.extractLsb' 0 16⟩)
    else .error .illegalOperand
  | _, _ => .error .illegalOperand

/-- How an instruction of format P fills its fields: which of them it uses (12 R228). -/
structure ShapeP (μ : Type) where
  mod : Field μ 6
  axis : Bool
  dir : Bool
  dist : Bool
  edge : Bool
/-- Bits [49:0] of format P. -/
def ShapeP.body (k : ShapeP μ) (w : FmtP μ) : BitVec 50 :=
  (guardCodec .any).enc w.g ++ BitVec.ofNat 10 w.d.val ++ BitVec.ofNat 9 w.a.val ++ BitVec.ofNat 3 w.freg.val
    ++ BitVec.ofNat 2 w.axis.code ++ BitVec.ofBool w.down ++ w.dist ++ BitVec.ofNat 3 w.edge.code ++ k.mod.enc w.mod
/-- Format P read from a word. -/
def ShapeP.parse (k : ShapeP μ) (mk : FmtP μ → Instr) (w : BitVec 64) : Except DecodeFault Instr :=
  match k.mod.dec (bits w 0 6) with
  | none => .error .illegalInstruction
  | some m =>
    match (guardCodec .any).dec (bits w 42 8), fin? 256 (bits w 32 10), fin? 256 (bits w 23 9), fin? 8 (bits w 20 3),
      Axis.ofCode (bits w 18 2), EdgeSel.ofCode (bits w 6 3) with
    | some g, some d, some a, some f, some ax, some e =>
      if (k.axis || decide (ax = .x)) && (k.dir || bits w 17 1 == 0) && (k.dist || bits w 9 8 == 0)
          && (k.edge || decide (e = .own)) then
        .ok (mk ⟨cBit w, qBit w, g, d, a, f, ax, bits w 17 1 == 1, w.extractLsb' 9 8, e, m⟩)
      else .error .illegalOperand
    | _, _, _, _, _, _ => .error .illegalOperand
/-- The two registers that a plane word names; the planes' extents are checked at issue (12 R229). -/
def ShapeP.use (_ : ShapeP μ) (w : FmtP μ) : OpUse := (OpUse.vec w.d.val 1).join (.vec w.a.val 1)

/-- The first source register of a plane word. -/
def ShapeP.src (_ : ShapeP μ) (w : FmtP μ) : OpUse := .vec w.a.val 1

/-- How an instruction of format X fills its fields. -/
structure ShapeX (α β γ μ : Type) where
  guard : GuardKind
  mod : Field μ 8
  a : Codec α 9
  b : Codec β 9
  c : μ → Codec γ 9
/-- The code of TRIG. -/
def trigCode : Option (Fin 8) → Nat
  | some n => n.val
  | none => 8
/-- TRIG of a code that is not the word's own tag. -/
def trigDec (tag : Fin 8) (c : Nat) : Option (Option (Fin 8)) :=
  if c = 8 then some none else keepIf (fun t => decide (t ≠ some tag)) ((fin? 8 c).map some)
/-- Bits [49:0] of format X. -/
def ShapeX.body (k : ShapeX α β γ μ) (w : FmtX α β γ μ) : BitVec 50 :=
  (guardCodec k.guard).enc w.g ++ BitVec.ofNat 3 w.tag.val ++ BitVec.ofNat 4 (trigCode w.trig) ++ k.a.enc w.a
    ++ k.b.enc w.b ++ (k.c w.mod).enc w.cc ++ k.mod.enc w.mod
/-- Format X read from a word. -/
def ShapeX.parse (k : ShapeX α β γ μ) (mk : FmtX α β γ μ → Instr) (w : BitVec 64) : Except DecodeFault Instr :=
  match k.mod.dec (bits w 0 8) with
  | none => .error .illegalInstruction
  | some m =>
    match (guardCodec k.guard).dec (bits w 42 8), fin? 8 (bits w 39 3), k.a.dec (bits w 26 9), k.b.dec (bits w 17 9),
      (k.c m).dec (bits w 8 9) with
    | some g, some t, some a, some b, some c =>
      match trigDec t (bits w 35 4) with
      | some r => .ok (mk ⟨cBit w, qBit w, g, t, r, a, b, c, m⟩)
      | none => .error .illegalOperand
    | _, _, _, _, _ => .error .illegalOperand
/-- What an instruction of format X names. -/
def ShapeX.use (k : ShapeX α β γ μ) (w : FmtX α β γ μ) : OpUse :=
  (k.a.use w.a).join ((k.b.use w.b).join ((k.c w.mod).use w.cc))

/-- The operands of format X, but for the destination of AX.DRN, are sources. -/
def ShapeX.src (k : ShapeX α β γ μ) (w : FmtX α β γ μ) : OpUse := k.use w

/-- The two registers of a pair-sized operand, one otherwise. -/
def pairIf (w : Bool) : Nat := if w then 2 else 1
/-- Registers that a store's data operand names (14 R256). -/
def StSize.words : StSize → Nat
  | .b128 => 4 | .b64 => 2 | _ => 1

/-! ## The fields of each instruction, by its entry -/

/-- Fields of SY.NOP, SY.YIELD, SY.BKPT, SY.HALT, SN.FLUSH, SN.INV. -/
def formS_0_0_0_uni : ShapeS Unit Unit Unit :=
  ⟨.uni, zero, zero, noField⟩
/-- Fields of SY.EXIT. -/
def formS_0_0_0_any : ShapeS Unit Unit Unit :=
  ⟨.any, zero, zero, noField⟩
/-- Fields of SY.TRAP. -/
def formS_0_u_bool_uni : ShapeS Unit USrc Bool :=
  ⟨.uni, zero, uniPos, flagField⟩
/-- Fields of SY.TRET. -/
def formS_0_tret_0_uni : ShapeS Unit RetSrc Unit :=
  ⟨.uni, zero, retSrc, noField⟩
/-- Fields of SY.SLEEP, SY.SETS, SY.SFMT. -/
def formS_0_u_0_uni : ShapeS Unit USrc Unit :=
  ⟨.uni, zero, uniPos, noField⟩
/-- Fields of SY.GETS. -/
def formS_s_0_0_uni : ShapeS (Fin 64) Unit Unit :=
  ⟨.uni, noWs (uniRegs 1), zero, noField⟩
/-- Fields of SY.SETX. -/
def formS_0_u64_0_uni : ShapeS Unit USrc64 Unit :=
  ⟨.uni, zero, uniPos64, noField⟩
/-- Fields of SY.GETX. -/
def formS_sp_0_0_uni : ShapeS (Fin 32) Unit Unit :=
  ⟨.uni, noWs uniPair, zero, noField⟩
/-- Fields of BR.BRA, BR.CALL. -/
def formB_tgt_uni : ShapeB :=
  ⟨.uni, true, false⟩
/-- Fields of BR.BRV. -/
def formB_both_any : ShapeB :=
  ⟨.any, true, true⟩
/-- Fields of BR.JOIN. -/
def formB_none_uni : ShapeB :=
  ⟨.uni, false, false⟩
/-- Fields of BR.REGANG. -/
def formA_0_u_0_0_0_uni : ShapeA Unit USrc Unit Unit Unit :=
  ⟨.uni, noField, fun _ => zero, fun _ => uniPos, fun _ => zero, fun _ => zero⟩
/-- Fields of BR.CALLV. -/
def formA_sp_callv_0_0_0_any : ShapeA (Fin 32) CallSrc Unit Unit Unit :=
  ⟨.any, noField, fun _ => noWs uniPair, fun _ => callSrc, fun _ => zero, fun _ => zero⟩
/-- Fields of BR.RET. -/
def formA_0_sp_0_0_0_uni : ShapeA Unit (Fin 32) Unit Unit Unit :=
  ⟨.uni, noField, fun _ => zero, fun _ => uniPair, fun _ => zero, fun _ => zero⟩
/-- Fields of BR.BRX. -/
def formA_0_u_sp_u_0_uni : ShapeA Unit USrc (Fin 32) USrc Unit :=
  ⟨.uni, noField, fun _ => zero, fun _ => uniPos, fun _ => uniPair, fun _ => uniPos⟩
/-- Fields of SI.ADD, SI.SUB, SI.MUL, SI.AND, SI.OR, SI.XOR and 7 more. -/
def formA_sW_u_u_0_0_uni : ShapeA (Dest (Fin 64)) USrc USrc Unit Unit :=
  ⟨.uni, noField, fun _ => withWs (uniRegs 1), fun _ => uniPos, fun _ => uniPos, fun _ => zero⟩
/-- Fields of SI.MULH. -/
def formA_sW_u_u_0_bool_uni : ShapeA (Dest (Fin 64)) USrc USrc Unit Bool :=
  ⟨.uni, flagField, fun _ => withWs (uniRegs 1), fun _ => uniPos, fun _ => uniPos, fun _ => zero⟩
/-- Fields of SI.MAD. -/
def formA_sW_u_u_u_0_uni : ShapeA (Dest (Fin 64)) USrc USrc USrc Unit :=
  ⟨.uni, noField, fun _ => withWs (uniRegs 1), fun _ => uniPos, fun _ => uniPos, fun _ => uniPos⟩
/-- Fields of SI.CLZ, SI.POPC, SM.MOV. -/
def formA_sW_u_0_0_0_uni : ShapeA (Dest (Fin 64)) USrc Unit Unit Unit :=
  ⟨.uni, noField, fun _ => withWs (uniRegs 1), fun _ => uniPos, fun _ => zero, fun _ => zero⟩
/-- Fields of SI.SEL. -/
def formA_sW_u_u_Q_0_uni : ShapeA (Dest (Fin 64)) USrc USrc QSrc Unit :=
  ⟨.uni, noField, fun _ => withWs (uniRegs 1), fun _ => uniPos, fun _ => uniPos, fun _ => uniPredSrc⟩
/-- Fields of SI.ADD64, SI.SUB64, SI.MUL64. -/
def formA_sp_u64_u64_0_0_uni : ShapeA (Fin 32) USrc64 USrc64 Unit Unit :=
  ⟨.uni, noField, fun _ => noWs uniPair, fun _ => uniPos64, fun _ => uniPos64, fun _ => zero⟩
/-- Fields of SI.CMP. -/
def formA_q_u_u_0_sicmp_uni : ShapeA (Fin 16) USrc USrc Unit SiCond :=
  ⟨.uni, siCondField, fun _ => noWs uniPredDest, fun m => uniPosIf (pairIf m.wide) m.srcOk, fun m => uniPosIf (pairIf m.wide) m.srcOk, fun _ => zero⟩
/-- Fields of SM.MOVI. -/
def formI_sW_0_any_uni : ShapeI (Dest (Fin 64)) Unit :=
  ⟨.uni, withWs (uniRegs 1), zero, fun _ _ => true⟩
/-- Fields of SM.MOVH. -/
def formI_sp_pos_any_uni : ShapeI (Fin 32) Bool :=
  ⟨.uni, noWs uniPair, movhPart, fun p i => !p || decide (i.toNat < 2 ^ 18)⟩
/-- Fields of SM.QAND, SM.QOR, SM.QXOR. -/
def formA_q_Q_Q_0_0_uni : ShapeA (Fin 16) QSrc QSrc Unit Unit :=
  ⟨.uni, noField, fun _ => noWs uniPredDest, fun _ => uniPredSrc, fun _ => uniPredSrc, fun _ => zero⟩
/-- Fields of SM.QNOT. -/
def formA_q_Q_0_0_0_uni : ShapeA (Fin 16) QSrc Unit Unit Unit :=
  ⟨.uni, noField, fun _ => noWs uniPredDest, fun _ => uniPredSrc, fun _ => zero, fun _ => zero⟩
/-- Fields of SM.QMOV. -/
def formA_q_u_0_0_0_uni : ShapeA (Fin 16) USrc Unit Unit Unit :=
  ⟨.uni, noField, fun _ => noWs uniPredDest, fun _ => uniPos, fun _ => zero, fun _ => zero⟩
/-- Fields of VI.ADD, VI.SUB, VI.MUL, VI.MULH, VI.MULHU, VI.AND and 9 more. -/
def formA_vW_x_x_0_0_any : ShapeA (Dest (Fin 256)) Src Src Unit Unit :=
  ⟨.any, noField, fun _ => withWs vecReg, fun _ => lanePos, fun _ => lanePos, fun _ => zero⟩
/-- Fields of VI.MAD, VI.BFI. -/
def formA_vW_x_x_x_0_any : ShapeA (Dest (Fin 256)) Src Src Src Unit :=
  ⟨.any, noField, fun _ => withWs vecReg, fun _ => lanePos, fun _ => lanePos, fun _ => lanePos⟩
/-- Fields of VI.MAD64. -/
def formA_vp_x_x_x64_bool_any : ShapeA (Fin 128) Src Src Src64 Bool :=
  ⟨.any, flagField, fun _ => noWs vecPair, fun _ => lanePos, fun _ => lanePos, fun _ => lanePos64⟩
/-- Fields of VI.NOT, VI.ABS, VI.NEG, VI.CLZ, VI.POPC, SF.RCP and 7 more. -/
def formA_vW_x_0_0_0_any : ShapeA (Dest (Fin 256)) Src Unit Unit Unit :=
  ⟨.any, noField, fun _ => withWs vecReg, fun _ => lanePos, fun _ => zero, fun _ => zero⟩
/-- Fields of VI.ADDS, VI.SUBS, VI.BFE, CV.QNT. -/
def formA_vW_x_x_0_bool_any : ShapeA (Dest (Fin 256)) Src Src Unit Bool :=
  ⟨.any, flagField, fun _ => withWs vecReg, fun _ => lanePos, fun _ => lanePos, fun _ => zero⟩
/-- Fields of VI.SEL. -/
def formA_vW_x_x_P_0_any : ShapeA (Dest (Fin 256)) Src Src PSrc Unit :=
  ⟨.any, noField, fun _ => withWs vecReg, fun _ => lanePos, fun _ => lanePos, fun _ => predSrc⟩
/-- Fields of VI.DOT4, VI.DOT2. -/
def formA_vW_x_x_x_dot_any : ShapeA (Dest (Fin 256)) Src Src Src DotMode :=
  ⟨.any, dotField, fun _ => withWs vecReg, fun _ => lanePos, fun _ => lanePos, fun _ => lanePos⟩
/-- Fields of VI.ADD64, VI.SUB64. -/
def formA_vp_x64_x64_0_0_any : ShapeA (Fin 128) Src64 Src64 Unit Unit :=
  ⟨.any, noField, fun _ => noWs vecPair, fun _ => lanePos64, fun _ => lanePos64, fun _ => zero⟩
/-- Fields of VJ.ADDI, VJ.ANDI, VJ.ORI, VJ.XORI. -/
def formI_vW_x_any_any : ShapeI (Dest (Fin 256)) Src :=
  ⟨.any, withWs vecReg, lanePos, fun _ _ => true⟩
/-- Fields of VJ.SHLI. -/
def formI_vW_x_sh_any : ShapeI (Dest (Fin 256)) Src :=
  ⟨.any, withWs vecReg, lanePos, fun _ i => decide (i.toNat < 32)⟩
/-- Fields of VJ.MOVI. -/
def formI_vW_0_any_any : ShapeI (Dest (Fin 256)) Unit :=
  ⟨.any, withWs vecReg, zero, fun _ _ => true⟩
/-- Fields of VF.ADD, VF.SUB, VF.MUL, VF.MIN, VF.MAX, VF.MINN and 2 more. -/
def formA_vW_x_x_0_f2_any : ShapeA (Dest (Fin 256)) Src Src Unit FMod :=
  ⟨.any, fModField 2 false, fun _ => withWs vecReg, fun _ => lanePos, fun _ => lanePos, fun _ => zero⟩
/-- Fields of VF.FMA. -/
def formA_vW_x_x_x_f3_any : ShapeA (Dest (Fin 256)) Src Src Src FMod :=
  ⟨.any, fModField 3 false, fun _ => withWs vecReg, fun _ => lanePos, fun _ => lanePos, fun _ => lanePos⟩
/-- Fields of VF.FLOOR, VF.CEIL, VF.TRUNC, VF.RINT, VF.FRACT, VF.GETEXP and 1 more. -/
def formA_vW_x_0_0_f1_any : ShapeA (Dest (Fin 256)) Src Unit Unit FMod :=
  ⟨.any, fModField 1 false, fun _ => withWs vecReg, fun _ => lanePos, fun _ => zero, fun _ => zero⟩
/-- Fields of VH.ADD, VH.SUB, VH.MUL, VH.MIN, VH.MAX. -/
def formA_vW_x_x_0_h2_any : ShapeA (Dest (Fin 256)) Src Src Unit FMod :=
  ⟨.any, fModField 2 true, fun _ => withWs vecReg, fun _ => lanePos, fun _ => lanePos, fun _ => zero⟩
/-- Fields of VH.FMA, VH.DOT2. -/
def formA_vW_x_x_x_h3_any : ShapeA (Dest (Fin 256)) Src Src Src FMod :=
  ⟨.any, fModField 3 true, fun _ => withWs vecReg, fun _ => lanePos, fun _ => lanePos, fun _ => lanePos⟩
/-- Fields of VD.ADD, VD.SUB, VD.MUL, VD.MIN, VD.MAX. -/
def formA_vp_x64_x64_0_f2_any : ShapeA (Fin 128) Src64 Src64 Unit FMod :=
  ⟨.any, fModField 2 false, fun _ => noWs vecPair, fun _ => lanePos64, fun _ => lanePos64, fun _ => zero⟩
/-- Fields of VD.FMA. -/
def formA_vp_x64_x64_x64_f3_any : ShapeA (Fin 128) Src64 Src64 Src64 FMod :=
  ⟨.any, fModField 3 false, fun _ => noWs vecPair, fun _ => lanePos64, fun _ => lanePos64, fun _ => lanePos64⟩
/-- Fields of VD.RINT. -/
def formA_vp_x64_0_0_f1_any : ShapeA (Fin 128) Src64 Unit Unit FMod :=
  ⟨.any, fModField 1 false, fun _ => noWs vecPair, fun _ => lanePos64, fun _ => zero, fun _ => zero⟩
/-- Fields of CV.CVT. -/
def formA_vW_x_0_0_cvt_any : ShapeA (Dest (Fin 256)) Src Unit Unit Cvt :=
  ⟨.any, cvtField, cvtDest, fun m => lanePosIf (pairIf m.wideSrc) m.srcOk, fun _ => zero, fun _ => zero⟩
/-- Fields of CV.PACK. -/
def formA_vW_x_x_x_pack_any : ShapeA (Dest (Fin 256)) Src Src Src PackKind :=
  ⟨.any, packField, fun _ => withWs vecReg, fun _ => lanePos, fun _ => lanePos, packC⟩
/-- Fields of CV.UNPK. -/
def formA_vW_x_x_0_unpk_any : ShapeA (Dest (Fin 256)) Src Src Unit UnpkKind :=
  ⟨.any, unpkField, fun _ => withWs vecReg, fun _ => lanePos, fun _ => lanePos, fun _ => zero⟩
/-- Fields of CV.DQNT. -/
def formA_vW_x_x_x_dq_any : ShapeA (Dest (Fin 256)) Src Src Src DqKind :=
  ⟨.any, dqField, fun _ => withWs vecReg, fun _ => lanePos, fun _ => lanePos, fun _ => lanePos⟩
/-- Fields of CV.QF8. -/
def formA_vW_x_x_0_qf8_any : ShapeA (Dest (Fin 256)) Src Src Unit Qf8Kind :=
  ⟨.any, qf8Field, fun _ => withWs vecReg, fun _ => lanePos, fun _ => lanePos, fun _ => zero⟩
/-- Fields of CV.SRND. -/
def formA_vW_x_x_0_srnd_any : ShapeA (Dest (Fin 256)) Src Src Unit SrndKind :=
  ⟨.any, srndField, fun _ => withWs vecReg, fun _ => lanePos, fun _ => lanePos, fun _ => zero⟩
/-- Fields of VC.CMP. -/
def formA_p_x_x_0_vcmp_any : ShapeA (Fin 96) Src Src Unit VcMod :=
  ⟨.any, vcModField, fun _ => noWs predDest, fun m => lanePosIf (pairIf (m.ty == .f64)) m.srcOk, fun m => lanePosIf (pairIf (m.ty == .f64)) m.srcOk, fun _ => zero⟩
/-- Fields of VC.CLASS. -/
def formA_p_x_x_0_cls_any : ShapeA (Fin 96) Src Src Unit ClassFmt :=
  ⟨.any, clsField, fun _ => noWs predDest, fun m => lanePosIf (pairIf (m == .f64)) m.srcOk, fun _ => lanePos, fun _ => zero⟩
/-- Fields of VC.TEST. -/
def formA_p_x_x_0_bool_any : ShapeA (Fin 96) Src Src Unit Bool :=
  ⟨.any, flagField, fun _ => noWs predDest, fun _ => lanePos, fun _ => lanePos, fun _ => zero⟩
/-- Fields of CL.SHFL. -/
def formA_vW_v_x_0_shfl_any : ShapeA (Dest (Fin 256)) (Fin 256) Src Unit ShflMode :=
  ⟨.any, shflField, fun _ => withWs vecReg, fun _ => vecReg, fun _ => lanePos, fun _ => zero⟩
/-- Fields of CL.SHFX. -/
def formA_vW_v_x_0_shfx_any (width : Nat) : ShapeA (Dest (Fin 256)) (Fin 256) Src Unit ShfxMod :=
  ⟨.any, shfxField width, fun _ => withWs vecReg, fun _ => vecReg, fun _ => lanePos, fun _ => zero⟩
/-- Fields of CL.RFL. -/
def formA_vsW_v_0_0_0_any : ShapeA (Dest VSReg) (Fin 256) Unit Unit Unit :=
  ⟨.any, noField, fun _ => withWs vecUniReg, fun _ => vecReg, fun _ => zero, fun _ => zero⟩
/-- Fields of CL.RDL. -/
def formA_vsW_v_u_0_0_any : ShapeA (Dest VSReg) (Fin 256) USrc Unit Unit :=
  ⟨.any, noField, fun _ => withWs vecUniReg, fun _ => vecReg, fun _ => uniPos, fun _ => zero⟩
/-- Fields of CL.WRL. -/
def formA_v_u_u_0_0_any : ShapeA (Fin 256) USrc USrc Unit Unit :=
  ⟨.any, noField, fun _ => noWs vecReg, fun _ => uniPos, fun _ => uniPos, fun _ => zero⟩
/-- Fields of CL.RED. -/
def formA_vsW_v_0_0_red_any : ShapeA (Dest VSReg) (Fin 256) Unit Unit RedOp :=
  ⟨.any, redField, fun _ => withWs vecUniReg, fun _ => vecReg, fun _ => zero, fun _ => zero⟩
/-- Fields of CL.SCAN. -/
def formA_vW_v_0_0_red_any : ShapeA (Dest (Fin 256)) (Fin 256) Unit Unit RedOp :=
  ⟨.any, redField, fun _ => withWs vecReg, fun _ => vecReg, fun _ => zero, fun _ => zero⟩
/-- Fields of CL.BALLOT. -/
def formA_sp_P_0_0_0_any : ShapeA (Fin 32) PSrc Unit Unit Unit :=
  ⟨.any, noField, fun _ => noWs uniPair, fun _ => predSrc, fun _ => zero, fun _ => zero⟩
/-- Fields of CL.ANY, CL.ALL. -/
def formA_q_P_0_0_0_any : ShapeA (Fin 16) PSrc Unit Unit Unit :=
  ⟨.any, noField, fun _ => noWs uniPredDest, fun _ => predSrc, fun _ => zero, fun _ => zero⟩
/-- Fields of CL.SHTL. -/
def formA_vW_v_0_0_0_any : ShapeA (Dest (Fin 256)) (Fin 256) Unit Unit Unit :=
  ⟨.any, noField, fun _ => withWs vecReg, fun _ => vecReg, fun _ => zero, fun _ => zero⟩
/-- Fields of PR.AND, PR.OR, PR.XOR. -/
def formA_p_P_P_0_0_any : ShapeA (Fin 96) PSrc PSrc Unit Unit :=
  ⟨.any, noField, fun _ => noWs predDest, fun _ => predSrc, fun _ => predSrc, fun _ => zero⟩
/-- Fields of PR.NOT, PR.MOV. -/
def formA_p_P_0_0_0_any : ShapeA (Fin 96) PSrc Unit Unit Unit :=
  ⟨.any, noField, fun _ => noWs predDest, fun _ => predSrc, fun _ => zero, fun _ => zero⟩
/-- Fields of PR.SET. -/
def formA_p_x_x_0_0_any : ShapeA (Fin 96) Src Src Unit Unit :=
  ⟨.any, noField, fun _ => noWs predDest, fun _ => lanePos, fun _ => lanePos, fun _ => zero⟩
/-- Fields of PR.CNT. -/
def formA_s_P_0_0_0_any : ShapeA (Fin 64) PSrc Unit Unit Unit :=
  ⟨.any, noField, fun _ => noWs (uniRegs 1), fun _ => predSrc, fun _ => zero, fun _ => zero⟩
/-- Fields of PL.SHF. -/
def formP_0_1_1_1_1 : ShapeP Unit :=
  ⟨noField, true, true, true, true⟩
/-- Fields of PL.ROT. -/
def formP_0_1_1_1_0 : ShapeP Unit :=
  ⟨noField, true, true, true, false⟩
/-- Fields of PL.SPR. -/
def formP_0_1_0_1_0 : ShapeP Unit :=
  ⟨noField, true, false, true, false⟩
/-- Fields of PL.FLD, PL.SCN. -/
def formP_fold_1_0_0_0 : ShapeP FoldMod :=
  ⟨foldModField, true, false, false, false⟩
/-- Fields of PL.TRN. -/
def formP_0_0_0_0_0 : ShapeP Unit :=
  ⟨noField, false, false, false, false⟩
/-- Fields of PL.RFD. -/
def formP_freg_0_0_0_0 : ShapeP (Fin 8) :=
  ⟨finField 8, false, false, false, false⟩
/-- Fields of FD.SET. -/
def formA_f_u64_0_0_0_uni : ShapeA (Fin 8) USrc64 Unit Unit Unit :=
  ⟨.uni, noField, fun _ => noWs foldReg, fun _ => uniPos64, fun _ => zero, fun _ => zero⟩
/-- Fields of FD.GET. -/
def formA_sp_f_0_0_0_uni : ShapeA (Fin 32) (Fin 8) Unit Unit Unit :=
  ⟨.uni, noField, fun _ => noWs uniPair, fun _ => foldReg, fun _ => zero, fun _ => zero⟩
/-- Fields of FD.CHK. -/
def formA_sW_u64_0_0_0_uni : ShapeA (Dest (Fin 64)) USrc64 Unit Unit Unit :=
  ⟨.uni, noField, fun _ => withWs (uniRegs 1), fun _ => uniPos64, fun _ => zero, fun _ => zero⟩
/-- Fields of LD. -/
def formM_v_base_x_size_any : ShapeM (Fin 256) Base Src Size :=
  ⟨.any, fun z => vecRegs z.words, baseReg, fun _ => lanePos⟩
/-- Fields of LDU. -/
def formM_s_sp_u_size_uni : ShapeM (Fin 64) (Fin 32) USrc Size :=
  ⟨.uni, fun z => uniRegs z.words, uniPair, fun _ => uniPos⟩
/-- Fields of LDP, STP. -/
def formM_v_sp_u_freg_any : ShapeM (Fin 256) (Fin 32) USrc (Fin 8) :=
  ⟨.any, fun _ => vecReg, uniPair, fun _ => uniPos⟩
/-- Fields of ST. -/
def formM_x_base_x_ssize_any : ShapeM Src Base Src StSize :=
  ⟨.any, fun z => lanePosIf z.words (Src.storeOk z), baseReg, fun _ => lanePos⟩
/-- Fields of STU. -/
def formM_u_sp_u_ssize_uni : ShapeM USrc (Fin 32) USrc StSize :=
  ⟨.uni, fun z => uniPosIf z.words (USrc.storeOk z), uniPair, fun _ => uniPos⟩
/-- Fields of AT.ADD, AT.SUB, AT.MIN, AT.MAX, AT.MINU, AT.MAXU and 4 more. -/
def formM_ad_base_x_w_any : ShapeM AtDest Base Src Bool :=
  ⟨.any, atDest, baseReg, fun w => lanePosIf (pairIf w) (Src.okFor w)⟩
/-- Fields of AT.CAS. -/
def formM_vc_base_x_w_any : ShapeM (Fin 256) Base Src Bool :=
  ⟨.any, fun w => vecRegs (pairIf w), baseReg, fun w => lanePosIf (pairIf w) (Src.okFor w)⟩
/-- Fields of AT.FADD. -/
def formM_ad_base_x_w0_any : ShapeM AtDest Base Src Unit :=
  ⟨.any, fun _ => atDest false, baseReg, fun _ => lanePos⟩
/-- Fields of AT.XADD. -/
def formM_blank_base_x_xf_any : ShapeM Unit Base Src XFmt :=
  ⟨.any, fun _ => blank, baseReg, fun _ => lanePos⟩
/-- Fields of AT.XRD. -/
def formM_v_base_zero_clr_any : ShapeM (Fin 256) Base Unit Clr :=
  ⟨.any, fun _ => vecReg, baseReg, fun _ => blank⟩
/-- Fields of SN.FENCE. -/
def formS_0_0_fence_uni : ShapeS Unit Unit FenceMod :=
  ⟨.uni, zero, zero, fenceField⟩
/-- Fields of SN.XF. -/
def formS_0_0_xf_uni : ShapeS Unit Unit XfMod :=
  ⟨.uni, zero, zero, xfField⟩
/-- Fields of SN.BINIT, SN.BARW. -/
def formS_0_u_bar_uni : ShapeS Unit USrc (Fin 16) :=
  ⟨.uni, zero, uniPos, finField 16⟩
/-- Fields of SN.BAR. -/
def formS_0_0_barx_uni : ShapeS Unit Unit BarMod :=
  ⟨.uni, zero, zero, barField⟩
/-- Fields of SN.BARA. -/
def formS_s_0_bar_uni : ShapeS (Fin 64) Unit (Fin 16) :=
  ⟨.uni, noWs (uniRegs 1), zero, finField 16⟩
/-- Fields of SN.MARM. -/
def formS_0_sp_0_uni : ShapeS Unit (Fin 32) Unit :=
  ⟨.uni, zero, uniPair, noField⟩
/-- Fields of SN.MWAIT. -/
def formS_s_u_0_uni : ShapeS (Fin 64) USrc Unit :=
  ⟨.uni, noWs (uniRegs 1), uniPos, noField⟩
/-- Fields of CP.LANE. -/
def formX_base_base_x_cpn_any : ShapeX Base Base Src CopySize :=
  ⟨.any, cpnField, baseReg, baseReg, fun _ => lanePos⟩
/-- Fields of CP.BULK. -/
def formX_sp_sp_u_bool_uni : ShapeX (Fin 32) (Fin 32) USrc Bool :=
  ⟨.uni, flagField, uniPair, uniPair, fun m => uniPosIf (if m then 4 else 1) (USrc.bulkOk m)⟩
/-- Fields of CP.MCAST. -/
def formX_sp_s4_sp_0_uni : ShapeX (Fin 32) (Fin 16) (Fin 32) Unit :=
  ⟨.uni, noField, uniPair, uniQuad, fun _ => uniPair⟩
/-- Fields of CP.STAMP. -/
def formX_sp_u64_0_bool_uni : ShapeX (Fin 32) USrc64 Unit Bool :=
  ⟨.uni, flagField, uniPair, uniPos64, fun _ => zero⟩
/-- Fields of CP.ARRV. -/
def formX_u_u_0_0_uni : ShapeX USrc USrc Unit Unit :=
  ⟨.uni, noField, uniPos, uniPos, fun _ => zero⟩
/-- Fields of TK.WAIT, TK.CAN. -/
def formA_0_k_0_0_0_uni : ShapeA Unit (Fin 8) Unit Unit Unit :=
  ⟨.uni, noField, fun _ => zero, fun _ => token, fun _ => zero, fun _ => zero⟩
/-- Fields of TK.TST. -/
def formA_q_k_0_0_0_uni : ShapeA (Fin 16) (Fin 8) Unit Unit Unit :=
  ⟨.uni, noField, fun _ => noWs uniPredDest, fun _ => token, fun _ => zero, fun _ => zero⟩
/-- Fields of TK.CNT. -/
def formA_sW_k_0_0_0_uni : ShapeA (Dest (Fin 64)) (Fin 8) Unit Unit Unit :=
  ⟨.uni, noField, fun _ => withWs (uniRegs 1), fun _ => token, fun _ => zero, fun _ => zero⟩
/-- Fields of MX.MMA. -/
def formX_v_v_u_mx_uni : ShapeX (Fin 256) (Fin 256) USrc MxType :=
  ⟨.uni, mxField, vecReg, vecReg, fun m => uniPosIf (pairIf m.nq) m.rowOk⟩
/-- Fields of MX.MMAS. -/
def formX_u_v_u_mx_uni : ShapeX USrc (Fin 256) USrc MxType :=
  ⟨.uni, mxField, uniPos, vecReg, fun m => uniPosIf (pairIf m.nq) m.rowOk⟩
/-- Fields of MX.ZERO. -/
def formX_0_0_u_0_uni : ShapeX Unit Unit USrc Unit :=
  ⟨.uni, noField, zero, zero, fun _ => uniPos⟩
/-- Fields of AX.WIN. -/
def formA_0_u_u_u_0_uni : ShapeA Unit USrc USrc USrc Unit :=
  ⟨.uni, noField, fun _ => zero, fun _ => uniPos, fun _ => uniPos, fun _ => uniPos⟩
/-- Fields of AX.DRN. -/
def formX_v_u_u_drn_uni : ShapeX (Fin 256) USrc USrc DrnMod :=
  ⟨.uni, drnField, vecReg, uniPos, fun _ => uniPos⟩
/-- Fields of AX.FIL. -/
def formX_v_u_u_fil_uni : ShapeX (Fin 256) USrc USrc FilMod :=
  ⟨.uni, filField, vecReg, uniPos, fun _ => uniPos⟩
/-- Fields of AX.CHK. -/
def formX_0_u_u_0_uni : ShapeX Unit USrc USrc Unit :=
  ⟨.uni, noField, zero, uniPos, fun _ => uniPos⟩
/-- Fields of FB.PUT. -/
def formX_base_base_x_put_any : ShapeX Base Base Src PutMod :=
  ⟨.any, putField, baseReg, baseReg, fun _ => lanePos⟩
/-- Fields of FB.GET. -/
def formX_base_base_x_0_any : ShapeX Base Base Src Unit :=
  ⟨.any, noField, baseReg, baseReg, fun _ => lanePos⟩
/-- Fields of FB.RED. -/
def formX_base_base_x_fred_any : ShapeX Base Base Src FbRedMod :=
  ⟨.any, fbRedField, baseReg, baseReg, fun _ => lanePos⟩
/-- Fields of FB.ATA, FB.CMB. -/
def formX_sp_0_0_0_uni : ShapeX (Fin 32) Unit Unit Unit :=
  ⟨.uni, noField, uniPair, zero, fun _ => zero⟩
/-- Fields of FB.ARRV. -/
def formX_u_u_u_0_uni : ShapeX USrc USrc USrc Unit :=
  ⟨.uni, noField, uniPos, uniPos, fun _ => uniPos⟩
/-- Fields of DV.REG. -/
def formA_s_sp_0_0_0_uni : ShapeA (Fin 64) IntPair Unit Unit Unit :=
  ⟨.uni, noField, fun _ => noWs (uniRegs 1), fun _ => intPair, fun _ => zero, fun _ => zero⟩
/-- Fields of DV.UNREG. -/
def formA_s_ui_0_0_0_uni : ShapeA (Fin 64) IntSrc Unit Unit Unit :=
  ⟨.uni, noField, fun _ => noWs (uniRegs 1), fun _ => intSrc, fun _ => zero, fun _ => zero⟩
/-- Fields of DV.QRY. -/
def formA_s_ui_ui_0_0_uni : ShapeA (Fin 64) IntSrc IntSrc Unit Unit :=
  ⟨.uni, noField, fun _ => noWs (uniRegs 1), fun _ => intSrc, fun _ => intSrc, fun _ => zero⟩
/-- Fields of DV.WARM. -/
def formX_ui_ui_ui_0_uni : ShapeX IntSrc IntSrc IntSrc Unit :=
  ⟨.uni, noField, intSrc, intSrc, fun _ => intSrc⟩
/-- Fields of IC.LOCK. -/
def formA_q_sp_u_0_0_uni : ShapeA (Fin 16) (Fin 32) USrc Unit Unit :=
  ⟨.uni, noField, fun _ => noWs uniPredDest, fun _ => uniPair, fun _ => uniPos, fun _ => zero⟩
/-- Fields of IC.UNLK, IC.INV. -/
def formA_0_sp_u_0_0_uni : ShapeA Unit (Fin 32) USrc Unit Unit :=
  ⟨.uni, noField, fun _ => zero, fun _ => uniPair, fun _ => uniPos, fun _ => zero⟩

/-! ## Parsing, class by class (R148, R149) -/

/-- CLASS 0x00, by FUNC. -/
def parseSy (f : Nat) (w : BitVec 64) : Except DecodeFault Instr :=
  match f with
  | 0 => formS_0_0_0_uni.parse .syNop w
  | 1 => formS_0_0_0_any.parse .syExit w
  | 2 => formS_0_u_bool_uni.parse .syTrap w
  | 3 => formS_0_tret_0_uni.parse .syTret w
  | 4 => formS_0_0_0_uni.parse .syYield w
  | 5 => formS_0_u_0_uni.parse .sySleep w
  | 6 => formS_0_0_0_uni.parse .syBkpt w
  | 7 => formS_s_0_0_uni.parse .syGets w
  | 8 => formS_0_u_0_uni.parse .sySets w
  | 9 => formS_0_u_0_uni.parse .sySfmt w
  | 10 => formS_0_u64_0_uni.parse .sySetx w
  | 11 => formS_sp_0_0_uni.parse .syGetx w
  | 12 => formS_0_0_0_uni.parse .syHalt w
  | _ => .error .illegalInstruction

/-- CLASS 0x01, by FUNC. -/
def parseBr (f : Nat) (w : BitVec 64) : Except DecodeFault Instr :=
  match f with
  | 0 => formB_tgt_uni.parse .brBra w
  | 1 => formB_both_any.parse .brBrv w
  | 2 => formB_none_uni.parse .brJoin w
  | 3 => formA_0_u_0_0_0_uni.parse .brRegang w
  | 4 => formB_tgt_uni.parse .brCall w
  | 5 => formA_sp_callv_0_0_0_any.parse .brCallv w
  | 6 => formA_0_sp_0_0_0_uni.parse .brRet w
  | 7 => formA_0_u_sp_u_0_uni.parse .brBrx w
  | _ => .error .illegalInstruction

/-- CLASS 0x02, by FUNC. -/
def parseSi (f : Nat) (w : BitVec 64) : Except DecodeFault Instr :=
  match f with
  | 0 => formA_sW_u_u_0_0_uni.parse .siAdd w
  | 1 => formA_sW_u_u_0_0_uni.parse .siSub w
  | 2 => formA_sW_u_u_0_0_uni.parse .siMul w
  | 3 => formA_sW_u_u_0_bool_uni.parse .siMulh w
  | 4 => formA_sW_u_u_u_0_uni.parse .siMad w
  | 5 => formA_sW_u_u_0_0_uni.parse .siAnd w
  | 6 => formA_sW_u_u_0_0_uni.parse .siOr w
  | 7 => formA_sW_u_u_0_0_uni.parse .siXor w
  | 8 => formA_sW_u_u_0_0_uni.parse .siShl w
  | 9 => formA_sW_u_u_0_0_uni.parse .siShr w
  | 10 => formA_sW_u_u_0_0_uni.parse .siSra w
  | 11 => formA_sW_u_u_0_0_uni.parse .siMin w
  | 12 => formA_sW_u_u_0_0_uni.parse .siMax w
  | 13 => formA_sW_u_u_0_0_uni.parse .siMinu w
  | 14 => formA_sW_u_u_0_0_uni.parse .siMaxu w
  | 15 => formA_sW_u_0_0_0_uni.parse .siClz w
  | 16 => formA_sW_u_0_0_0_uni.parse .siPopc w
  | 17 => formA_sW_u_u_Q_0_uni.parse .siSel w
  | 18 => formA_sp_u64_u64_0_0_uni.parse .siAdd64 w
  | 19 => formA_sp_u64_u64_0_0_uni.parse .siSub64 w
  | 20 => formA_sp_u64_u64_0_0_uni.parse .siMul64 w
  | 21 => formA_q_u_u_0_sicmp_uni.parse .siCmp w
  | _ => .error .illegalInstruction

/-- CLASS 0x03, by FUNC. -/
def parseSm (f : Nat) (w : BitVec 64) : Except DecodeFault Instr :=
  match f with
  | 0 => formA_sW_u_0_0_0_uni.parse .smMov w
  | 1 => formI_sW_0_any_uni.parse .smMovi w
  | 2 => formI_sp_pos_any_uni.parse .smMovh w
  | 3 => formA_q_Q_Q_0_0_uni.parse .smQand w
  | 4 => formA_q_Q_Q_0_0_uni.parse .smQor w
  | 5 => formA_q_Q_Q_0_0_uni.parse .smQxor w
  | 6 => formA_q_Q_0_0_0_uni.parse .smQnot w
  | 7 => formA_q_u_0_0_0_uni.parse .smQmov w
  | _ => .error .illegalInstruction

/-- CLASS 0x04, by FUNC. -/
def parseVi (f : Nat) (w : BitVec 64) : Except DecodeFault Instr :=
  match f with
  | 0 => formA_vW_x_x_0_0_any.parse .viAdd w
  | 1 => formA_vW_x_x_0_0_any.parse .viSub w
  | 2 => formA_vW_x_x_0_0_any.parse .viMul w
  | 3 => formA_vW_x_x_0_0_any.parse .viMulh w
  | 4 => formA_vW_x_x_0_0_any.parse .viMulhu w
  | 5 => formA_vW_x_x_x_0_any.parse .viMad w
  | 6 => formA_vp_x_x_x64_bool_any.parse .viMad64 w
  | 7 => formA_vW_x_x_0_0_any.parse .viAnd w
  | 8 => formA_vW_x_x_0_0_any.parse .viOr w
  | 9 => formA_vW_x_x_0_0_any.parse .viXor w
  | 10 => formA_vW_x_0_0_0_any.parse .viNot w
  | 11 => formA_vW_x_x_0_0_any.parse .viShl w
  | 12 => formA_vW_x_x_0_0_any.parse .viShr w
  | 13 => formA_vW_x_x_0_0_any.parse .viSra w
  | 14 => formA_vW_x_x_0_0_any.parse .viMin w
  | 15 => formA_vW_x_x_0_0_any.parse .viMax w
  | 16 => formA_vW_x_x_0_0_any.parse .viMinu w
  | 17 => formA_vW_x_x_0_0_any.parse .viMaxu w
  | 18 => formA_vW_x_0_0_0_any.parse .viAbs w
  | 19 => formA_vW_x_0_0_0_any.parse .viNeg w
  | 20 => formA_vW_x_x_0_bool_any.parse .viAdds w
  | 21 => formA_vW_x_x_0_bool_any.parse .viSubs w
  | 22 => formA_vW_x_0_0_0_any.parse .viClz w
  | 23 => formA_vW_x_0_0_0_any.parse .viPopc w
  | 24 => formA_vW_x_x_0_bool_any.parse .viBfe w
  | 25 => formA_vW_x_x_x_0_any.parse .viBfi w
  | 26 => formA_vW_x_x_P_0_any.parse .viSel w
  | 27 => formA_vW_x_x_x_dot_any.parse .viDot4 w
  | 28 => formA_vW_x_x_x_dot_any.parse .viDot2 w
  | 29 => formA_vp_x64_x64_0_0_any.parse .viAdd64 w
  | 30 => formA_vp_x64_x64_0_0_any.parse .viSub64 w
  | _ => .error .illegalInstruction

/-- CLASS 0x05, by FUNC. -/
def parseVj (f : Nat) (w : BitVec 64) : Except DecodeFault Instr :=
  match f with
  | 0 => formI_vW_x_any_any.parse .vjAddi w
  | 1 => formI_vW_x_any_any.parse .vjAndi w
  | 2 => formI_vW_x_any_any.parse .vjOri w
  | 3 => formI_vW_x_any_any.parse .vjXori w
  | 4 => formI_vW_x_sh_any.parse .vjShli w
  | 5 => formI_vW_0_any_any.parse .vjMovi w
  | _ => .error .illegalInstruction

/-- CLASS 0x06, by FUNC. -/
def parseVf (f : Nat) (w : BitVec 64) : Except DecodeFault Instr :=
  match f with
  | 0 => formA_vW_x_x_0_f2_any.parse .vfAdd w
  | 1 => formA_vW_x_x_0_f2_any.parse .vfSub w
  | 2 => formA_vW_x_x_0_f2_any.parse .vfMul w
  | 3 => formA_vW_x_x_x_f3_any.parse .vfFma w
  | 4 => formA_vW_x_x_0_f2_any.parse .vfMin w
  | 5 => formA_vW_x_x_0_f2_any.parse .vfMax w
  | 6 => formA_vW_x_x_0_f2_any.parse .vfMinn w
  | 7 => formA_vW_x_x_0_f2_any.parse .vfMaxn w
  | 8 => formA_vW_x_0_0_f1_any.parse .vfFloor w
  | 9 => formA_vW_x_0_0_f1_any.parse .vfCeil w
  | 10 => formA_vW_x_0_0_f1_any.parse .vfTrunc w
  | 11 => formA_vW_x_0_0_f1_any.parse .vfRint w
  | 12 => formA_vW_x_0_0_f1_any.parse .vfFract w
  | 13 => formA_vW_x_x_0_f2_any.parse .vfLdexp w
  | 14 => formA_vW_x_0_0_f1_any.parse .vfGetexp w
  | 15 => formA_vW_x_0_0_f1_any.parse .vfGetmant w
  | _ => .error .illegalInstruction

/-- CLASS 0x07, by FUNC. -/
def parseVh (f : Nat) (w : BitVec 64) : Except DecodeFault Instr :=
  match f with
  | 0 => formA_vW_x_x_0_h2_any.parse .vhAdd w
  | 1 => formA_vW_x_x_0_h2_any.parse .vhSub w
  | 2 => formA_vW_x_x_0_h2_any.parse .vhMul w
  | 3 => formA_vW_x_x_x_h3_any.parse .vhFma w
  | 4 => formA_vW_x_x_0_h2_any.parse .vhMin w
  | 5 => formA_vW_x_x_0_h2_any.parse .vhMax w
  | 6 => formA_vW_x_x_x_h3_any.parse .vhDot2 w
  | _ => .error .illegalInstruction

/-- CLASS 0x08, by FUNC. -/
def parseVd (f : Nat) (w : BitVec 64) : Except DecodeFault Instr :=
  match f with
  | 0 => formA_vp_x64_x64_0_f2_any.parse .vdAdd w
  | 1 => formA_vp_x64_x64_0_f2_any.parse .vdSub w
  | 2 => formA_vp_x64_x64_0_f2_any.parse .vdMul w
  | 3 => formA_vp_x64_x64_x64_f3_any.parse .vdFma w
  | 4 => formA_vp_x64_x64_0_f2_any.parse .vdMin w
  | 5 => formA_vp_x64_x64_0_f2_any.parse .vdMax w
  | 6 => formA_vp_x64_0_0_f1_any.parse .vdRint w
  | _ => .error .illegalInstruction

/-- CLASS 0x09, by FUNC. -/
def parseCv (f : Nat) (w : BitVec 64) : Except DecodeFault Instr :=
  match f with
  | 0 => formA_vW_x_0_0_cvt_any.parse .cvCvt w
  | 1 => formA_vW_x_x_x_pack_any.parse .cvPack w
  | 2 => formA_vW_x_x_0_unpk_any.parse .cvUnpk w
  | 3 => formA_vW_x_x_0_bool_any.parse .cvQnt w
  | 4 => formA_vW_x_x_x_dq_any.parse .cvDqnt w
  | 5 => formA_vW_x_x_0_qf8_any.parse .cvQf8 w
  | 6 => formA_vW_x_x_0_srnd_any.parse .cvSrnd w
  | _ => .error .illegalInstruction

/-- CLASS 0x0A, by FUNC. -/
def parseVc (f : Nat) (w : BitVec 64) : Except DecodeFault Instr :=
  match f with
  | 0 => formA_p_x_x_0_vcmp_any.parse .vcCmp w
  | 1 => formA_p_x_x_0_cls_any.parse .vcClass w
  | 2 => formA_p_x_x_0_bool_any.parse .vcTest w
  | _ => .error .illegalInstruction

/-- CLASS 0x0B, by FUNC. -/
def parseCl (width : Nat) (f : Nat) (w : BitVec 64) : Except DecodeFault Instr :=
  match f with
  | 0 => formA_vW_v_x_0_shfl_any.parse .clShfl w
  | 1 => (formA_vW_v_x_0_shfx_any width).parse .clShfx w
  | 2 => formA_vsW_v_0_0_0_any.parse .clRfl w
  | 3 => formA_vsW_v_u_0_0_any.parse .clRdl w
  | 4 => formA_v_u_u_0_0_any.parse .clWrl w
  | 5 => formA_vsW_v_0_0_red_any.parse .clRed w
  | 6 => formA_vW_v_0_0_red_any.parse .clScan w
  | 7 => formA_sp_P_0_0_0_any.parse .clBallot w
  | 8 => formA_q_P_0_0_0_any.parse .clAny w
  | 9 => formA_q_P_0_0_0_any.parse .clAll w
  | 10 => formA_vW_v_0_0_0_any.parse .clShtl w
  | _ => .error .illegalInstruction

/-- CLASS 0x0C, by FUNC. -/
def parsePr (f : Nat) (w : BitVec 64) : Except DecodeFault Instr :=
  match f with
  | 0 => formA_p_P_P_0_0_any.parse .prAnd w
  | 1 => formA_p_P_P_0_0_any.parse .prOr w
  | 2 => formA_p_P_P_0_0_any.parse .prXor w
  | 3 => formA_p_P_0_0_0_any.parse .prNot w
  | 4 => formA_p_P_0_0_0_any.parse .prMov w
  | 5 => formA_p_x_x_0_0_any.parse .prSet w
  | 6 => formA_s_P_0_0_0_any.parse .prCnt w
  | _ => .error .illegalInstruction

/-- CLASS 0x0D, by FUNC. -/
def parseSf (f : Nat) (w : BitVec 64) : Except DecodeFault Instr :=
  match f with
  | 0 => formA_vW_x_0_0_0_any.parse .sfRcp w
  | 1 => formA_vW_x_0_0_0_any.parse .sfRsq w
  | 2 => formA_vW_x_0_0_0_any.parse .sfSqrt w
  | 3 => formA_vW_x_0_0_0_any.parse .sfExp2 w
  | 4 => formA_vW_x_0_0_0_any.parse .sfLog2 w
  | 5 => formA_vW_x_0_0_0_any.parse .sfSin w
  | 6 => formA_vW_x_0_0_0_any.parse .sfCos w
  | 7 => formA_vW_x_0_0_0_any.parse .sfTanh w
  | _ => .error .illegalInstruction

/-- CLASS 0x0E, by FUNC. -/
def parsePl (f : Nat) (w : BitVec 64) : Except DecodeFault Instr :=
  match f with
  | 0 => formP_0_1_1_1_1.parse .plShf w
  | 1 => formP_0_1_1_1_0.parse .plRot w
  | 2 => formP_0_1_0_1_0.parse .plSpr w
  | 3 => formP_fold_1_0_0_0.parse .plFld w
  | 4 => formP_fold_1_0_0_0.parse .plScn w
  | 5 => formP_0_0_0_0_0.parse .plTrn w
  | 6 => formP_freg_0_0_0_0.parse .plRfd w
  | _ => .error .illegalInstruction

/-- CLASS 0x0F, by FUNC. -/
def parseFd (f : Nat) (w : BitVec 64) : Except DecodeFault Instr :=
  match f with
  | 0 => formA_f_u64_0_0_0_uni.parse .fdSet w
  | 1 => formA_sp_f_0_0_0_uni.parse .fdGet w
  | 2 => formA_sW_u64_0_0_0_uni.parse .fdChk w
  | _ => .error .illegalInstruction

/-- CLASS 0x10, by FUNC. -/
def parseLd (f : Nat) (w : BitVec 64) : Except DecodeFault Instr :=
  let sz := Size.ofCode (f / 2 % 8)
  let ord := f % 2 == 1
  match f / 16 with
  | 0 => match sz with
    | some z => formM_v_base_x_size_any.parse .ld ord z w
    | none => .error .illegalInstruction
  | 1 => match sz with
    | some z => formM_s_sp_u_size_uni.parse .ldu ord z w
    | none => .error .illegalInstruction
  | 2 => match fin? 8 (f / 2 % 8) with
    | some r => formM_v_sp_u_freg_any.parse .ldp ord r w
    | none => .error .illegalInstruction
  | _ => .error .illegalInstruction

/-- CLASS 0x11, by FUNC. -/
def parseSt (f : Nat) (w : BitVec 64) : Except DecodeFault Instr :=
  let sz := StSize.ofCode (f / 2 % 8)
  let ord := f % 2 == 1
  match f / 16 with
  | 0 => match sz with
    | some z => formM_x_base_x_ssize_any.parse .st ord z w
    | none => .error .illegalInstruction
  | 1 => match sz with
    | some z => formM_u_sp_u_ssize_uni.parse .stu ord z w
    | none => .error .illegalInstruction
  | 2 => match fin? 8 (f / 2 % 8) with
    | some r => formM_v_sp_u_freg_any.parse .stp ord r w
    | none => .error .illegalInstruction
  | _ => .error .illegalInstruction

/-- CLASS 0x12, by FUNC. -/
def parseAt (f : Nat) (w : BitVec 64) : Except DecodeFault Instr :=
  let wide := f / 2 % 2 == 1
  let ord := f % 2 == 1
  match f / 4 with
  | 0 => formM_ad_base_x_w_any.parse .atAdd ord wide w
  | 1 => formM_ad_base_x_w_any.parse .atSub ord wide w
  | 2 => formM_ad_base_x_w_any.parse .atMin ord wide w
  | 3 => formM_ad_base_x_w_any.parse .atMax ord wide w
  | 4 => formM_ad_base_x_w_any.parse .atMinu ord wide w
  | 5 => formM_ad_base_x_w_any.parse .atMaxu ord wide w
  | 6 => formM_ad_base_x_w_any.parse .atAnd ord wide w
  | 7 => formM_ad_base_x_w_any.parse .atOr ord wide w
  | 8 => formM_ad_base_x_w_any.parse .atXor ord wide w
  | 9 => formM_ad_base_x_w_any.parse .atXchg ord wide w
  | 10 => formM_vc_base_x_w_any.parse .atCas ord wide w
  | 11 => if wide then .error .illegalInstruction else formM_ad_base_x_w0_any.parse .atFadd ord () w
  | 12 => match XFmt.ofCode (f % 4) with
    | some x => formM_blank_base_x_xf_any.parse .atXadd false x w
    | none => .error .illegalInstruction
  | 13 => formM_v_base_zero_clr_any.parse .atXrd ord wide w
  | _ => .error .illegalInstruction

/-- CLASS 0x13, by FUNC. -/
def parseSn (f : Nat) (w : BitVec 64) : Except DecodeFault Instr :=
  match f with
  | 0 => formS_0_0_fence_uni.parse .snFence w
  | 1 => formS_0_0_xf_uni.parse .snXf w
  | 2 => formS_0_u_bar_uni.parse .snBinit w
  | 3 => formS_0_0_barx_uni.parse .snBar w
  | 4 => formS_s_0_bar_uni.parse .snBara w
  | 5 => formS_0_u_bar_uni.parse .snBarw w
  | 6 => formS_0_sp_0_uni.parse .snMarm w
  | 7 => formS_s_u_0_uni.parse .snMwait w
  | 8 => formS_0_0_0_uni.parse .snFlush w
  | 9 => formS_0_0_0_uni.parse .snInv w
  | _ => .error .illegalInstruction

/-- CLASS 0x14, by FUNC. -/
def parseCp (f : Nat) (w : BitVec 64) : Except DecodeFault Instr :=
  match f with
  | 0 => formX_base_base_x_cpn_any.parse .cpLane w
  | 1 => formX_sp_sp_u_bool_uni.parse .cpBulk w
  | 2 => formX_sp_s4_sp_0_uni.parse .cpMcast w
  | 3 => formX_sp_u64_0_bool_uni.parse .cpStamp w
  | 4 => formX_u_u_0_0_uni.parse .cpArrv w
  | _ => .error .illegalInstruction

/-- CLASS 0x15, by FUNC. -/
def parseTk (f : Nat) (w : BitVec 64) : Except DecodeFault Instr :=
  match f with
  | 0 => formA_0_k_0_0_0_uni.parse .tkWait w
  | 1 => formA_q_k_0_0_0_uni.parse .tkTst w
  | 2 => formA_0_k_0_0_0_uni.parse .tkCan w
  | 3 => formA_sW_k_0_0_0_uni.parse .tkCnt w
  | _ => .error .illegalInstruction

/-- CLASS 0x16, by FUNC. -/
def parseMx (f : Nat) (w : BitVec 64) : Except DecodeFault Instr :=
  match f with
  | 0 => formX_v_v_u_mx_uni.parse .mxMma w
  | 1 => formX_u_v_u_mx_uni.parse .mxMmas w
  | 2 => formX_0_0_u_0_uni.parse .mxZero w
  | _ => .error .illegalInstruction

/-- CLASS 0x17, by FUNC. -/
def parseAx (f : Nat) (w : BitVec 64) : Except DecodeFault Instr :=
  match f with
  | 0 => formA_0_u_u_u_0_uni.parse .axWin w
  | 1 => formX_v_u_u_drn_uni.parse .axDrn w
  | 2 => formX_v_u_u_fil_uni.parse .axFil w
  | 3 => formX_0_u_u_0_uni.parse .axChk w
  | _ => .error .illegalInstruction

/-- CLASS 0x18, by FUNC. -/
def parseFb (f : Nat) (w : BitVec 64) : Except DecodeFault Instr :=
  match f with
  | 0 => formX_base_base_x_put_any.parse .fbPut w
  | 1 => formX_base_base_x_0_any.parse .fbGet w
  | 2 => formX_base_base_x_fred_any.parse .fbRed w
  | 3 => formX_sp_0_0_0_uni.parse .fbAta w
  | 4 => formX_sp_0_0_0_uni.parse .fbCmb w
  | 5 => formX_u_u_u_0_uni.parse .fbArrv w
  | _ => .error .illegalInstruction

/-- CLASS 0x19, by FUNC. -/
def parseDv (f : Nat) (w : BitVec 64) : Except DecodeFault Instr :=
  match f with
  | 0 => formA_s_sp_0_0_0_uni.parse .dvReg w
  | 1 => formA_s_ui_0_0_0_uni.parse .dvUnreg w
  | 2 => formA_s_ui_ui_0_0_uni.parse .dvQry w
  | 3 => formX_ui_ui_ui_0_uni.parse .dvWarm w
  | _ => .error .illegalInstruction

/-- CLASS 0x1A, by FUNC. -/
def parseIc (f : Nat) (w : BitVec 64) : Except DecodeFault Instr :=
  match f with
  | 0 => formA_q_sp_u_0_0_uni.parse .icLock w
  | 1 => formA_0_sp_u_0_0_uni.parse .icUnlk w
  | 2 => formA_0_sp_u_0_0_uni.parse .icInv w
  | _ => .error .illegalInstruction

/-- A word read as an instruction of a group of `width` lanes: rows 1 and 2 of R150, but for chains and latches. -/
def parseWord (width : Nat) (w : BitVec 64) : Except DecodeFault Instr :=
  let f := bits w 50 6
  match bits w 56 6 with
  | 0 => parseSy f w
  | 1 => parseBr f w
  | 2 => parseSi f w
  | 3 => parseSm f w
  | 4 => parseVi f w
  | 5 => parseVj f w
  | 6 => parseVf f w
  | 7 => parseVh f w
  | 8 => parseVd f w
  | 9 => parseCv f w
  | 10 => parseVc f w
  | 11 => parseCl width f w
  | 12 => parsePr f w
  | 13 => parseSf f w
  | 14 => parsePl f w
  | 15 => parseFd f w
  | 16 => parseLd f w
  | 17 => parseSt f w
  | 18 => parseAt f w
  | 19 => parseSn f w
  | 20 => parseCp f w
  | 21 => parseTk f w
  | 22 => parseMx f w
  | 23 => parseAx f w
  | 24 => parseFb f w
  | 25 => parseDv f w
  | 26 => parseIc f w
  | _ => .error .illegalInstruction

/-! ## Encoding, and what a word names -/

/-- A word with what its operands name and what it writes to its latch. -/
structure Encoded where
  word : BitVec 64
  use : OpUse
  src : OpUse
  latch : LatchKind

/-- What the D field of CL.RFL, RDL and RED makes of the latch (R146, 11 R221). -/
def VSReg.latch : Dest VSReg → LatchKind
  | .reg (.s _) => .uni
  | .reg (.v _) => .lane
  | .latch => .lane

/-- The word of an instruction. Events have none. -/
def Instr.encoded : Instr → Option Encoded
  | .syNop w => some ⟨headWord w.c w.q 0 0 (formS_0_0_0_uni.body w), formS_0_0_0_uni.use w, formS_0_0_0_uni.src w, .none⟩
  | .syExit w => some ⟨headWord w.c w.q 0 1 (formS_0_0_0_any.body w), formS_0_0_0_any.use w, formS_0_0_0_any.src w, .none⟩
  | .syTrap w => some ⟨headWord w.c w.q 0 2 (formS_0_u_bool_uni.body w), formS_0_u_bool_uni.use w, formS_0_u_bool_uni.src w, .none⟩
  | .syTret w => some ⟨headWord w.c w.q 0 3 (formS_0_tret_0_uni.body w), formS_0_tret_0_uni.use w, formS_0_tret_0_uni.src w, .none⟩
  | .syYield w => some ⟨headWord w.c w.q 0 4 (formS_0_0_0_uni.body w), formS_0_0_0_uni.use w, formS_0_0_0_uni.src w, .none⟩
  | .sySleep w => some ⟨headWord w.c w.q 0 5 (formS_0_u_0_uni.body w), formS_0_u_0_uni.use w, formS_0_u_0_uni.src w, .none⟩
  | .syBkpt w => some ⟨headWord w.c w.q 0 6 (formS_0_0_0_uni.body w), formS_0_0_0_uni.use w, formS_0_0_0_uni.src w, .none⟩
  | .syGets w => some ⟨headWord w.c w.q 0 7 (formS_s_0_0_uni.body w), formS_s_0_0_uni.use w, formS_s_0_0_uni.src w, .none⟩
  | .sySets w => some ⟨headWord w.c w.q 0 8 (formS_0_u_0_uni.body w), formS_0_u_0_uni.use w, formS_0_u_0_uni.src w, .none⟩
  | .sySfmt w => some ⟨headWord w.c w.q 0 9 (formS_0_u_0_uni.body w), formS_0_u_0_uni.use w, formS_0_u_0_uni.src w, .none⟩
  | .sySetx w => some ⟨headWord w.c w.q 0 10 (formS_0_u64_0_uni.body w), formS_0_u64_0_uni.use w, formS_0_u64_0_uni.src w, .none⟩
  | .syGetx w => some ⟨headWord w.c w.q 0 11 (formS_sp_0_0_uni.body w), formS_sp_0_0_uni.use w, formS_sp_0_0_uni.src w, .none⟩
  | .syHalt w => some ⟨headWord w.c w.q 0 12 (formS_0_0_0_uni.body w), formS_0_0_0_uni.use w, formS_0_0_0_uni.src w, .none⟩
  | .brBra w => some ⟨headWord w.c w.q 1 0 (formB_tgt_uni.body w), .nil, .nil, .none⟩
  | .brBrv w => some ⟨headWord w.c w.q 1 1 (formB_both_any.body w), .nil, .nil, .none⟩
  | .brJoin w => some ⟨headWord w.c w.q 1 2 (formB_none_uni.body w), .nil, .nil, .none⟩
  | .brRegang w => some ⟨headWord w.c w.q 1 3 (formA_0_u_0_0_0_uni.body w), formA_0_u_0_0_0_uni.use w, formA_0_u_0_0_0_uni.src w, .none⟩
  | .brCall w => some ⟨headWord w.c w.q 1 4 (formB_tgt_uni.body w), .nil, .nil, .none⟩
  | .brCallv w => some ⟨headWord w.c w.q 1 5 (formA_sp_callv_0_0_0_any.body w), formA_sp_callv_0_0_0_any.use w, formA_sp_callv_0_0_0_any.src w, .none⟩
  | .brRet w => some ⟨headWord w.c w.q 1 6 (formA_0_sp_0_0_0_uni.body w), formA_0_sp_0_0_0_uni.use w, formA_0_sp_0_0_0_uni.src w, .none⟩
  | .brBrx w => some ⟨headWord w.c w.q 1 7 (formA_0_u_sp_u_0_uni.body w), formA_0_u_sp_u_0_uni.use w, formA_0_u_sp_u_0_uni.src w, .none⟩
  | .siAdd w => some ⟨headWord w.c w.q 2 0 (formA_sW_u_u_0_0_uni.body w), formA_sW_u_u_0_0_uni.use w, formA_sW_u_u_0_0_uni.src w, .uni⟩
  | .siSub w => some ⟨headWord w.c w.q 2 1 (formA_sW_u_u_0_0_uni.body w), formA_sW_u_u_0_0_uni.use w, formA_sW_u_u_0_0_uni.src w, .uni⟩
  | .siMul w => some ⟨headWord w.c w.q 2 2 (formA_sW_u_u_0_0_uni.body w), formA_sW_u_u_0_0_uni.use w, formA_sW_u_u_0_0_uni.src w, .uni⟩
  | .siMulh w => some ⟨headWord w.c w.q 2 3 (formA_sW_u_u_0_bool_uni.body w), formA_sW_u_u_0_bool_uni.use w, formA_sW_u_u_0_bool_uni.src w, .uni⟩
  | .siMad w => some ⟨headWord w.c w.q 2 4 (formA_sW_u_u_u_0_uni.body w), formA_sW_u_u_u_0_uni.use w, formA_sW_u_u_u_0_uni.src w, .uni⟩
  | .siAnd w => some ⟨headWord w.c w.q 2 5 (formA_sW_u_u_0_0_uni.body w), formA_sW_u_u_0_0_uni.use w, formA_sW_u_u_0_0_uni.src w, .uni⟩
  | .siOr w => some ⟨headWord w.c w.q 2 6 (formA_sW_u_u_0_0_uni.body w), formA_sW_u_u_0_0_uni.use w, formA_sW_u_u_0_0_uni.src w, .uni⟩
  | .siXor w => some ⟨headWord w.c w.q 2 7 (formA_sW_u_u_0_0_uni.body w), formA_sW_u_u_0_0_uni.use w, formA_sW_u_u_0_0_uni.src w, .uni⟩
  | .siShl w => some ⟨headWord w.c w.q 2 8 (formA_sW_u_u_0_0_uni.body w), formA_sW_u_u_0_0_uni.use w, formA_sW_u_u_0_0_uni.src w, .uni⟩
  | .siShr w => some ⟨headWord w.c w.q 2 9 (formA_sW_u_u_0_0_uni.body w), formA_sW_u_u_0_0_uni.use w, formA_sW_u_u_0_0_uni.src w, .uni⟩
  | .siSra w => some ⟨headWord w.c w.q 2 10 (formA_sW_u_u_0_0_uni.body w), formA_sW_u_u_0_0_uni.use w, formA_sW_u_u_0_0_uni.src w, .uni⟩
  | .siMin w => some ⟨headWord w.c w.q 2 11 (formA_sW_u_u_0_0_uni.body w), formA_sW_u_u_0_0_uni.use w, formA_sW_u_u_0_0_uni.src w, .uni⟩
  | .siMax w => some ⟨headWord w.c w.q 2 12 (formA_sW_u_u_0_0_uni.body w), formA_sW_u_u_0_0_uni.use w, formA_sW_u_u_0_0_uni.src w, .uni⟩
  | .siMinu w => some ⟨headWord w.c w.q 2 13 (formA_sW_u_u_0_0_uni.body w), formA_sW_u_u_0_0_uni.use w, formA_sW_u_u_0_0_uni.src w, .uni⟩
  | .siMaxu w => some ⟨headWord w.c w.q 2 14 (formA_sW_u_u_0_0_uni.body w), formA_sW_u_u_0_0_uni.use w, formA_sW_u_u_0_0_uni.src w, .uni⟩
  | .siClz w => some ⟨headWord w.c w.q 2 15 (formA_sW_u_0_0_0_uni.body w), formA_sW_u_0_0_0_uni.use w, formA_sW_u_0_0_0_uni.src w, .uni⟩
  | .siPopc w => some ⟨headWord w.c w.q 2 16 (formA_sW_u_0_0_0_uni.body w), formA_sW_u_0_0_0_uni.use w, formA_sW_u_0_0_0_uni.src w, .uni⟩
  | .siSel w => some ⟨headWord w.c w.q 2 17 (formA_sW_u_u_Q_0_uni.body w), formA_sW_u_u_Q_0_uni.use w, formA_sW_u_u_Q_0_uni.src w, .uni⟩
  | .siAdd64 w => some ⟨headWord w.c w.q 2 18 (formA_sp_u64_u64_0_0_uni.body w), formA_sp_u64_u64_0_0_uni.use w, formA_sp_u64_u64_0_0_uni.src w, .none⟩
  | .siSub64 w => some ⟨headWord w.c w.q 2 19 (formA_sp_u64_u64_0_0_uni.body w), formA_sp_u64_u64_0_0_uni.use w, formA_sp_u64_u64_0_0_uni.src w, .none⟩
  | .siMul64 w => some ⟨headWord w.c w.q 2 20 (formA_sp_u64_u64_0_0_uni.body w), formA_sp_u64_u64_0_0_uni.use w, formA_sp_u64_u64_0_0_uni.src w, .none⟩
  | .siCmp w => some ⟨headWord w.c w.q 2 21 (formA_q_u_u_0_sicmp_uni.body w), formA_q_u_u_0_sicmp_uni.use w, formA_q_u_u_0_sicmp_uni.src w, .none⟩
  | .smMov w => some ⟨headWord w.c w.q 3 0 (formA_sW_u_0_0_0_uni.body w), formA_sW_u_0_0_0_uni.use w, formA_sW_u_0_0_0_uni.src w, .uni⟩
  | .smMovi w => some ⟨headWord w.c w.q 3 1 (formI_sW_0_any_uni.body w), formI_sW_0_any_uni.use w, formI_sW_0_any_uni.src w, .uni⟩
  | .smMovh w => some ⟨headWord w.c w.q 3 2 (formI_sp_pos_any_uni.body w), formI_sp_pos_any_uni.use w, formI_sp_pos_any_uni.use w, .none⟩
  | .smQand w => some ⟨headWord w.c w.q 3 3 (formA_q_Q_Q_0_0_uni.body w), formA_q_Q_Q_0_0_uni.use w, formA_q_Q_Q_0_0_uni.src w, .none⟩
  | .smQor w => some ⟨headWord w.c w.q 3 4 (formA_q_Q_Q_0_0_uni.body w), formA_q_Q_Q_0_0_uni.use w, formA_q_Q_Q_0_0_uni.src w, .none⟩
  | .smQxor w => some ⟨headWord w.c w.q 3 5 (formA_q_Q_Q_0_0_uni.body w), formA_q_Q_Q_0_0_uni.use w, formA_q_Q_Q_0_0_uni.src w, .none⟩
  | .smQnot w => some ⟨headWord w.c w.q 3 6 (formA_q_Q_0_0_0_uni.body w), formA_q_Q_0_0_0_uni.use w, formA_q_Q_0_0_0_uni.src w, .none⟩
  | .smQmov w => some ⟨headWord w.c w.q 3 7 (formA_q_u_0_0_0_uni.body w), formA_q_u_0_0_0_uni.use w, formA_q_u_0_0_0_uni.src w, .none⟩
  | .viAdd w => some ⟨headWord w.c w.q 4 0 (formA_vW_x_x_0_0_any.body w), formA_vW_x_x_0_0_any.use w, formA_vW_x_x_0_0_any.src w, .lane⟩
  | .viSub w => some ⟨headWord w.c w.q 4 1 (formA_vW_x_x_0_0_any.body w), formA_vW_x_x_0_0_any.use w, formA_vW_x_x_0_0_any.src w, .lane⟩
  | .viMul w => some ⟨headWord w.c w.q 4 2 (formA_vW_x_x_0_0_any.body w), formA_vW_x_x_0_0_any.use w, formA_vW_x_x_0_0_any.src w, .lane⟩
  | .viMulh w => some ⟨headWord w.c w.q 4 3 (formA_vW_x_x_0_0_any.body w), formA_vW_x_x_0_0_any.use w, formA_vW_x_x_0_0_any.src w, .lane⟩
  | .viMulhu w => some ⟨headWord w.c w.q 4 4 (formA_vW_x_x_0_0_any.body w), formA_vW_x_x_0_0_any.use w, formA_vW_x_x_0_0_any.src w, .lane⟩
  | .viMad w => some ⟨headWord w.c w.q 4 5 (formA_vW_x_x_x_0_any.body w), formA_vW_x_x_x_0_any.use w, formA_vW_x_x_x_0_any.src w, .lane⟩
  | .viMad64 w => some ⟨headWord w.c w.q 4 6 (formA_vp_x_x_x64_bool_any.body w), formA_vp_x_x_x64_bool_any.use w, formA_vp_x_x_x64_bool_any.src w, .none⟩
  | .viAnd w => some ⟨headWord w.c w.q 4 7 (formA_vW_x_x_0_0_any.body w), formA_vW_x_x_0_0_any.use w, formA_vW_x_x_0_0_any.src w, .lane⟩
  | .viOr w => some ⟨headWord w.c w.q 4 8 (formA_vW_x_x_0_0_any.body w), formA_vW_x_x_0_0_any.use w, formA_vW_x_x_0_0_any.src w, .lane⟩
  | .viXor w => some ⟨headWord w.c w.q 4 9 (formA_vW_x_x_0_0_any.body w), formA_vW_x_x_0_0_any.use w, formA_vW_x_x_0_0_any.src w, .lane⟩
  | .viNot w => some ⟨headWord w.c w.q 4 10 (formA_vW_x_0_0_0_any.body w), formA_vW_x_0_0_0_any.use w, formA_vW_x_0_0_0_any.src w, .lane⟩
  | .viShl w => some ⟨headWord w.c w.q 4 11 (formA_vW_x_x_0_0_any.body w), formA_vW_x_x_0_0_any.use w, formA_vW_x_x_0_0_any.src w, .lane⟩
  | .viShr w => some ⟨headWord w.c w.q 4 12 (formA_vW_x_x_0_0_any.body w), formA_vW_x_x_0_0_any.use w, formA_vW_x_x_0_0_any.src w, .lane⟩
  | .viSra w => some ⟨headWord w.c w.q 4 13 (formA_vW_x_x_0_0_any.body w), formA_vW_x_x_0_0_any.use w, formA_vW_x_x_0_0_any.src w, .lane⟩
  | .viMin w => some ⟨headWord w.c w.q 4 14 (formA_vW_x_x_0_0_any.body w), formA_vW_x_x_0_0_any.use w, formA_vW_x_x_0_0_any.src w, .lane⟩
  | .viMax w => some ⟨headWord w.c w.q 4 15 (formA_vW_x_x_0_0_any.body w), formA_vW_x_x_0_0_any.use w, formA_vW_x_x_0_0_any.src w, .lane⟩
  | .viMinu w => some ⟨headWord w.c w.q 4 16 (formA_vW_x_x_0_0_any.body w), formA_vW_x_x_0_0_any.use w, formA_vW_x_x_0_0_any.src w, .lane⟩
  | .viMaxu w => some ⟨headWord w.c w.q 4 17 (formA_vW_x_x_0_0_any.body w), formA_vW_x_x_0_0_any.use w, formA_vW_x_x_0_0_any.src w, .lane⟩
  | .viAbs w => some ⟨headWord w.c w.q 4 18 (formA_vW_x_0_0_0_any.body w), formA_vW_x_0_0_0_any.use w, formA_vW_x_0_0_0_any.src w, .lane⟩
  | .viNeg w => some ⟨headWord w.c w.q 4 19 (formA_vW_x_0_0_0_any.body w), formA_vW_x_0_0_0_any.use w, formA_vW_x_0_0_0_any.src w, .lane⟩
  | .viAdds w => some ⟨headWord w.c w.q 4 20 (formA_vW_x_x_0_bool_any.body w), formA_vW_x_x_0_bool_any.use w, formA_vW_x_x_0_bool_any.src w, .lane⟩
  | .viSubs w => some ⟨headWord w.c w.q 4 21 (formA_vW_x_x_0_bool_any.body w), formA_vW_x_x_0_bool_any.use w, formA_vW_x_x_0_bool_any.src w, .lane⟩
  | .viClz w => some ⟨headWord w.c w.q 4 22 (formA_vW_x_0_0_0_any.body w), formA_vW_x_0_0_0_any.use w, formA_vW_x_0_0_0_any.src w, .lane⟩
  | .viPopc w => some ⟨headWord w.c w.q 4 23 (formA_vW_x_0_0_0_any.body w), formA_vW_x_0_0_0_any.use w, formA_vW_x_0_0_0_any.src w, .lane⟩
  | .viBfe w => some ⟨headWord w.c w.q 4 24 (formA_vW_x_x_0_bool_any.body w), formA_vW_x_x_0_bool_any.use w, formA_vW_x_x_0_bool_any.src w, .lane⟩
  | .viBfi w => some ⟨headWord w.c w.q 4 25 (formA_vW_x_x_x_0_any.body w), formA_vW_x_x_x_0_any.use w, formA_vW_x_x_x_0_any.src w, .lane⟩
  | .viSel w => some ⟨headWord w.c w.q 4 26 (formA_vW_x_x_P_0_any.body w), formA_vW_x_x_P_0_any.use w, formA_vW_x_x_P_0_any.src w, .lane⟩
  | .viDot4 w => some ⟨headWord w.c w.q 4 27 (formA_vW_x_x_x_dot_any.body w), formA_vW_x_x_x_dot_any.use w, formA_vW_x_x_x_dot_any.src w, .lane⟩
  | .viDot2 w => some ⟨headWord w.c w.q 4 28 (formA_vW_x_x_x_dot_any.body w), formA_vW_x_x_x_dot_any.use w, formA_vW_x_x_x_dot_any.src w, .lane⟩
  | .viAdd64 w => some ⟨headWord w.c w.q 4 29 (formA_vp_x64_x64_0_0_any.body w), formA_vp_x64_x64_0_0_any.use w, formA_vp_x64_x64_0_0_any.src w, .none⟩
  | .viSub64 w => some ⟨headWord w.c w.q 4 30 (formA_vp_x64_x64_0_0_any.body w), formA_vp_x64_x64_0_0_any.use w, formA_vp_x64_x64_0_0_any.src w, .none⟩
  | .vjAddi w => some ⟨headWord w.c w.q 5 0 (formI_vW_x_any_any.body w), formI_vW_x_any_any.use w, formI_vW_x_any_any.src w, .lane⟩
  | .vjAndi w => some ⟨headWord w.c w.q 5 1 (formI_vW_x_any_any.body w), formI_vW_x_any_any.use w, formI_vW_x_any_any.src w, .lane⟩
  | .vjOri w => some ⟨headWord w.c w.q 5 2 (formI_vW_x_any_any.body w), formI_vW_x_any_any.use w, formI_vW_x_any_any.src w, .lane⟩
  | .vjXori w => some ⟨headWord w.c w.q 5 3 (formI_vW_x_any_any.body w), formI_vW_x_any_any.use w, formI_vW_x_any_any.src w, .lane⟩
  | .vjShli w => some ⟨headWord w.c w.q 5 4 (formI_vW_x_sh_any.body w), formI_vW_x_sh_any.use w, formI_vW_x_sh_any.src w, .lane⟩
  | .vjMovi w => some ⟨headWord w.c w.q 5 5 (formI_vW_0_any_any.body w), formI_vW_0_any_any.use w, formI_vW_0_any_any.src w, .lane⟩
  | .vfAdd w => some ⟨headWord w.c w.q 6 0 (formA_vW_x_x_0_f2_any.body w), formA_vW_x_x_0_f2_any.use w, formA_vW_x_x_0_f2_any.src w, .lane⟩
  | .vfSub w => some ⟨headWord w.c w.q 6 1 (formA_vW_x_x_0_f2_any.body w), formA_vW_x_x_0_f2_any.use w, formA_vW_x_x_0_f2_any.src w, .lane⟩
  | .vfMul w => some ⟨headWord w.c w.q 6 2 (formA_vW_x_x_0_f2_any.body w), formA_vW_x_x_0_f2_any.use w, formA_vW_x_x_0_f2_any.src w, .lane⟩
  | .vfFma w => some ⟨headWord w.c w.q 6 3 (formA_vW_x_x_x_f3_any.body w), formA_vW_x_x_x_f3_any.use w, formA_vW_x_x_x_f3_any.src w, .lane⟩
  | .vfMin w => some ⟨headWord w.c w.q 6 4 (formA_vW_x_x_0_f2_any.body w), formA_vW_x_x_0_f2_any.use w, formA_vW_x_x_0_f2_any.src w, .lane⟩
  | .vfMax w => some ⟨headWord w.c w.q 6 5 (formA_vW_x_x_0_f2_any.body w), formA_vW_x_x_0_f2_any.use w, formA_vW_x_x_0_f2_any.src w, .lane⟩
  | .vfMinn w => some ⟨headWord w.c w.q 6 6 (formA_vW_x_x_0_f2_any.body w), formA_vW_x_x_0_f2_any.use w, formA_vW_x_x_0_f2_any.src w, .lane⟩
  | .vfMaxn w => some ⟨headWord w.c w.q 6 7 (formA_vW_x_x_0_f2_any.body w), formA_vW_x_x_0_f2_any.use w, formA_vW_x_x_0_f2_any.src w, .lane⟩
  | .vfFloor w => some ⟨headWord w.c w.q 6 8 (formA_vW_x_0_0_f1_any.body w), formA_vW_x_0_0_f1_any.use w, formA_vW_x_0_0_f1_any.src w, .lane⟩
  | .vfCeil w => some ⟨headWord w.c w.q 6 9 (formA_vW_x_0_0_f1_any.body w), formA_vW_x_0_0_f1_any.use w, formA_vW_x_0_0_f1_any.src w, .lane⟩
  | .vfTrunc w => some ⟨headWord w.c w.q 6 10 (formA_vW_x_0_0_f1_any.body w), formA_vW_x_0_0_f1_any.use w, formA_vW_x_0_0_f1_any.src w, .lane⟩
  | .vfRint w => some ⟨headWord w.c w.q 6 11 (formA_vW_x_0_0_f1_any.body w), formA_vW_x_0_0_f1_any.use w, formA_vW_x_0_0_f1_any.src w, .lane⟩
  | .vfFract w => some ⟨headWord w.c w.q 6 12 (formA_vW_x_0_0_f1_any.body w), formA_vW_x_0_0_f1_any.use w, formA_vW_x_0_0_f1_any.src w, .lane⟩
  | .vfLdexp w => some ⟨headWord w.c w.q 6 13 (formA_vW_x_x_0_f2_any.body w), formA_vW_x_x_0_f2_any.use w, formA_vW_x_x_0_f2_any.src w, .lane⟩
  | .vfGetexp w => some ⟨headWord w.c w.q 6 14 (formA_vW_x_0_0_f1_any.body w), formA_vW_x_0_0_f1_any.use w, formA_vW_x_0_0_f1_any.src w, .lane⟩
  | .vfGetmant w => some ⟨headWord w.c w.q 6 15 (formA_vW_x_0_0_f1_any.body w), formA_vW_x_0_0_f1_any.use w, formA_vW_x_0_0_f1_any.src w, .lane⟩
  | .vhAdd w => some ⟨headWord w.c w.q 7 0 (formA_vW_x_x_0_h2_any.body w), formA_vW_x_x_0_h2_any.use w, formA_vW_x_x_0_h2_any.src w, .lane⟩
  | .vhSub w => some ⟨headWord w.c w.q 7 1 (formA_vW_x_x_0_h2_any.body w), formA_vW_x_x_0_h2_any.use w, formA_vW_x_x_0_h2_any.src w, .lane⟩
  | .vhMul w => some ⟨headWord w.c w.q 7 2 (formA_vW_x_x_0_h2_any.body w), formA_vW_x_x_0_h2_any.use w, formA_vW_x_x_0_h2_any.src w, .lane⟩
  | .vhFma w => some ⟨headWord w.c w.q 7 3 (formA_vW_x_x_x_h3_any.body w), formA_vW_x_x_x_h3_any.use w, formA_vW_x_x_x_h3_any.src w, .lane⟩
  | .vhMin w => some ⟨headWord w.c w.q 7 4 (formA_vW_x_x_0_h2_any.body w), formA_vW_x_x_0_h2_any.use w, formA_vW_x_x_0_h2_any.src w, .lane⟩
  | .vhMax w => some ⟨headWord w.c w.q 7 5 (formA_vW_x_x_0_h2_any.body w), formA_vW_x_x_0_h2_any.use w, formA_vW_x_x_0_h2_any.src w, .lane⟩
  | .vhDot2 w => some ⟨headWord w.c w.q 7 6 (formA_vW_x_x_x_h3_any.body w), formA_vW_x_x_x_h3_any.use w, formA_vW_x_x_x_h3_any.src w, .lane⟩
  | .vdAdd w => some ⟨headWord w.c w.q 8 0 (formA_vp_x64_x64_0_f2_any.body w), formA_vp_x64_x64_0_f2_any.use w, formA_vp_x64_x64_0_f2_any.src w, .none⟩
  | .vdSub w => some ⟨headWord w.c w.q 8 1 (formA_vp_x64_x64_0_f2_any.body w), formA_vp_x64_x64_0_f2_any.use w, formA_vp_x64_x64_0_f2_any.src w, .none⟩
  | .vdMul w => some ⟨headWord w.c w.q 8 2 (formA_vp_x64_x64_0_f2_any.body w), formA_vp_x64_x64_0_f2_any.use w, formA_vp_x64_x64_0_f2_any.src w, .none⟩
  | .vdFma w => some ⟨headWord w.c w.q 8 3 (formA_vp_x64_x64_x64_f3_any.body w), formA_vp_x64_x64_x64_f3_any.use w, formA_vp_x64_x64_x64_f3_any.src w, .none⟩
  | .vdMin w => some ⟨headWord w.c w.q 8 4 (formA_vp_x64_x64_0_f2_any.body w), formA_vp_x64_x64_0_f2_any.use w, formA_vp_x64_x64_0_f2_any.src w, .none⟩
  | .vdMax w => some ⟨headWord w.c w.q 8 5 (formA_vp_x64_x64_0_f2_any.body w), formA_vp_x64_x64_0_f2_any.use w, formA_vp_x64_x64_0_f2_any.src w, .none⟩
  | .vdRint w => some ⟨headWord w.c w.q 8 6 (formA_vp_x64_0_0_f1_any.body w), formA_vp_x64_0_0_f1_any.use w, formA_vp_x64_0_0_f1_any.src w, .none⟩
  | .cvCvt w => some ⟨headWord w.c w.q 9 0 (formA_vW_x_0_0_cvt_any.body w), formA_vW_x_0_0_cvt_any.use w, formA_vW_x_0_0_cvt_any.src w, (if w.mod.wideDst then .none else .lane)⟩
  | .cvPack w => some ⟨headWord w.c w.q 9 1 (formA_vW_x_x_x_pack_any.body w), formA_vW_x_x_x_pack_any.use w, formA_vW_x_x_x_pack_any.src w, .lane⟩
  | .cvUnpk w => some ⟨headWord w.c w.q 9 2 (formA_vW_x_x_0_unpk_any.body w), formA_vW_x_x_0_unpk_any.use w, formA_vW_x_x_0_unpk_any.src w, .lane⟩
  | .cvQnt w => some ⟨headWord w.c w.q 9 3 (formA_vW_x_x_0_bool_any.body w), formA_vW_x_x_0_bool_any.use w, formA_vW_x_x_0_bool_any.src w, .lane⟩
  | .cvDqnt w => some ⟨headWord w.c w.q 9 4 (formA_vW_x_x_x_dq_any.body w), formA_vW_x_x_x_dq_any.use w, formA_vW_x_x_x_dq_any.src w, .lane⟩
  | .cvQf8 w => some ⟨headWord w.c w.q 9 5 (formA_vW_x_x_0_qf8_any.body w), formA_vW_x_x_0_qf8_any.use w, formA_vW_x_x_0_qf8_any.src w, .lane⟩
  | .cvSrnd w => some ⟨headWord w.c w.q 9 6 (formA_vW_x_x_0_srnd_any.body w), formA_vW_x_x_0_srnd_any.use w, formA_vW_x_x_0_srnd_any.src w, .lane⟩
  | .vcCmp w => some ⟨headWord w.c w.q 10 0 (formA_p_x_x_0_vcmp_any.body w), formA_p_x_x_0_vcmp_any.use w, formA_p_x_x_0_vcmp_any.src w, .none⟩
  | .vcClass w => some ⟨headWord w.c w.q 10 1 (formA_p_x_x_0_cls_any.body w), formA_p_x_x_0_cls_any.use w, formA_p_x_x_0_cls_any.src w, .none⟩
  | .vcTest w => some ⟨headWord w.c w.q 10 2 (formA_p_x_x_0_bool_any.body w), formA_p_x_x_0_bool_any.use w, formA_p_x_x_0_bool_any.src w, .none⟩
  | .clShfl w => some ⟨headWord w.c w.q 11 0 (formA_vW_v_x_0_shfl_any.body w), formA_vW_v_x_0_shfl_any.use w, formA_vW_v_x_0_shfl_any.src w, .lane⟩
  | .clShfx w => some ⟨headWord w.c w.q 11 1 ((formA_vW_v_x_0_shfx_any 64).body w), (formA_vW_v_x_0_shfx_any 64).use w, (formA_vW_v_x_0_shfx_any 64).src w, .lane⟩
  | .clRfl w => some ⟨headWord w.c w.q 11 2 (formA_vsW_v_0_0_0_any.body w), formA_vsW_v_0_0_0_any.use w, formA_vsW_v_0_0_0_any.src w, (VSReg.latch w.d)⟩
  | .clRdl w => some ⟨headWord w.c w.q 11 3 (formA_vsW_v_u_0_0_any.body w), formA_vsW_v_u_0_0_any.use w, formA_vsW_v_u_0_0_any.src w, (VSReg.latch w.d)⟩
  | .clWrl w => some ⟨headWord w.c w.q 11 4 (formA_v_u_u_0_0_any.body w), formA_v_u_u_0_0_any.use w, formA_v_u_u_0_0_any.src w, .none⟩
  | .clRed w => some ⟨headWord w.c w.q 11 5 (formA_vsW_v_0_0_red_any.body w), formA_vsW_v_0_0_red_any.use w, formA_vsW_v_0_0_red_any.src w, (VSReg.latch w.d)⟩
  | .clScan w => some ⟨headWord w.c w.q 11 6 (formA_vW_v_0_0_red_any.body w), formA_vW_v_0_0_red_any.use w, formA_vW_v_0_0_red_any.src w, .lane⟩
  | .clBallot w => some ⟨headWord w.c w.q 11 7 (formA_sp_P_0_0_0_any.body w), formA_sp_P_0_0_0_any.use w, formA_sp_P_0_0_0_any.src w, .none⟩
  | .clAny w => some ⟨headWord w.c w.q 11 8 (formA_q_P_0_0_0_any.body w), formA_q_P_0_0_0_any.use w, formA_q_P_0_0_0_any.src w, .none⟩
  | .clAll w => some ⟨headWord w.c w.q 11 9 (formA_q_P_0_0_0_any.body w), formA_q_P_0_0_0_any.use w, formA_q_P_0_0_0_any.src w, .none⟩
  | .clShtl w => some ⟨headWord w.c w.q 11 10 (formA_vW_v_0_0_0_any.body w), formA_vW_v_0_0_0_any.use w, formA_vW_v_0_0_0_any.src w, .lane⟩
  | .prAnd w => some ⟨headWord w.c w.q 12 0 (formA_p_P_P_0_0_any.body w), formA_p_P_P_0_0_any.use w, formA_p_P_P_0_0_any.src w, .none⟩
  | .prOr w => some ⟨headWord w.c w.q 12 1 (formA_p_P_P_0_0_any.body w), formA_p_P_P_0_0_any.use w, formA_p_P_P_0_0_any.src w, .none⟩
  | .prXor w => some ⟨headWord w.c w.q 12 2 (formA_p_P_P_0_0_any.body w), formA_p_P_P_0_0_any.use w, formA_p_P_P_0_0_any.src w, .none⟩
  | .prNot w => some ⟨headWord w.c w.q 12 3 (formA_p_P_0_0_0_any.body w), formA_p_P_0_0_0_any.use w, formA_p_P_0_0_0_any.src w, .none⟩
  | .prMov w => some ⟨headWord w.c w.q 12 4 (formA_p_P_0_0_0_any.body w), formA_p_P_0_0_0_any.use w, formA_p_P_0_0_0_any.src w, .none⟩
  | .prSet w => some ⟨headWord w.c w.q 12 5 (formA_p_x_x_0_0_any.body w), formA_p_x_x_0_0_any.use w, formA_p_x_x_0_0_any.src w, .none⟩
  | .prCnt w => some ⟨headWord w.c w.q 12 6 (formA_s_P_0_0_0_any.body w), formA_s_P_0_0_0_any.use w, formA_s_P_0_0_0_any.src w, .none⟩
  | .sfRcp w => some ⟨headWord w.c w.q 13 0 (formA_vW_x_0_0_0_any.body w), formA_vW_x_0_0_0_any.use w, formA_vW_x_0_0_0_any.src w, .lane⟩
  | .sfRsq w => some ⟨headWord w.c w.q 13 1 (formA_vW_x_0_0_0_any.body w), formA_vW_x_0_0_0_any.use w, formA_vW_x_0_0_0_any.src w, .lane⟩
  | .sfSqrt w => some ⟨headWord w.c w.q 13 2 (formA_vW_x_0_0_0_any.body w), formA_vW_x_0_0_0_any.use w, formA_vW_x_0_0_0_any.src w, .lane⟩
  | .sfExp2 w => some ⟨headWord w.c w.q 13 3 (formA_vW_x_0_0_0_any.body w), formA_vW_x_0_0_0_any.use w, formA_vW_x_0_0_0_any.src w, .lane⟩
  | .sfLog2 w => some ⟨headWord w.c w.q 13 4 (formA_vW_x_0_0_0_any.body w), formA_vW_x_0_0_0_any.use w, formA_vW_x_0_0_0_any.src w, .lane⟩
  | .sfSin w => some ⟨headWord w.c w.q 13 5 (formA_vW_x_0_0_0_any.body w), formA_vW_x_0_0_0_any.use w, formA_vW_x_0_0_0_any.src w, .lane⟩
  | .sfCos w => some ⟨headWord w.c w.q 13 6 (formA_vW_x_0_0_0_any.body w), formA_vW_x_0_0_0_any.use w, formA_vW_x_0_0_0_any.src w, .lane⟩
  | .sfTanh w => some ⟨headWord w.c w.q 13 7 (formA_vW_x_0_0_0_any.body w), formA_vW_x_0_0_0_any.use w, formA_vW_x_0_0_0_any.src w, .lane⟩
  | .plShf w => some ⟨headWord w.c w.q 14 0 (formP_0_1_1_1_1.body w), formP_0_1_1_1_1.use w, formP_0_1_1_1_1.src w, .none⟩
  | .plRot w => some ⟨headWord w.c w.q 14 1 (formP_0_1_1_1_0.body w), formP_0_1_1_1_0.use w, formP_0_1_1_1_0.src w, .none⟩
  | .plSpr w => some ⟨headWord w.c w.q 14 2 (formP_0_1_0_1_0.body w), formP_0_1_0_1_0.use w, formP_0_1_0_1_0.src w, .none⟩
  | .plFld w => some ⟨headWord w.c w.q 14 3 (formP_fold_1_0_0_0.body w), formP_fold_1_0_0_0.use w, formP_fold_1_0_0_0.src w, .none⟩
  | .plScn w => some ⟨headWord w.c w.q 14 4 (formP_fold_1_0_0_0.body w), formP_fold_1_0_0_0.use w, formP_fold_1_0_0_0.src w, .none⟩
  | .plTrn w => some ⟨headWord w.c w.q 14 5 (formP_0_0_0_0_0.body w), formP_0_0_0_0_0.use w, formP_0_0_0_0_0.src w, .none⟩
  | .plRfd w => some ⟨headWord w.c w.q 14 6 (formP_freg_0_0_0_0.body w), formP_freg_0_0_0_0.use w, formP_freg_0_0_0_0.src w, .none⟩
  | .fdSet w => some ⟨headWord w.c w.q 15 0 (formA_f_u64_0_0_0_uni.body w), formA_f_u64_0_0_0_uni.use w, formA_f_u64_0_0_0_uni.src w, .none⟩
  | .fdGet w => some ⟨headWord w.c w.q 15 1 (formA_sp_f_0_0_0_uni.body w), formA_sp_f_0_0_0_uni.use w, formA_sp_f_0_0_0_uni.src w, .none⟩
  | .fdChk w => some ⟨headWord w.c w.q 15 2 (formA_sW_u64_0_0_0_uni.body w), formA_sW_u64_0_0_0_uni.use w, formA_sW_u64_0_0_0_uni.src w, .uni⟩
  | .ld w => some ⟨headWord w.c w.q 16 (0 + 2 * w.sub.code + w.ord.isSome.toNat) (formM_v_base_x_size_any.body w), formM_v_base_x_size_any.use w, formM_v_base_x_size_any.src w, .none⟩
  | .ldu w => some ⟨headWord w.c w.q 16 (16 + 2 * w.sub.code + w.ord.isSome.toNat) (formM_s_sp_u_size_uni.body w), formM_s_sp_u_size_uni.use w, formM_s_sp_u_size_uni.src w, .none⟩
  | .ldp w => some ⟨headWord w.c w.q 16 (32 + 2 * w.sub.val + w.ord.isSome.toNat) (formM_v_sp_u_freg_any.body w), formM_v_sp_u_freg_any.use w, formM_v_sp_u_freg_any.src w, .none⟩
  | .st w => some ⟨headWord w.c w.q 17 (0 + 2 * w.sub.code + w.ord.isSome.toNat) (formM_x_base_x_ssize_any.body w), formM_x_base_x_ssize_any.use w, formM_x_base_x_ssize_any.use w, .none⟩
  | .stu w => some ⟨headWord w.c w.q 17 (16 + 2 * w.sub.code + w.ord.isSome.toNat) (formM_u_sp_u_ssize_uni.body w), formM_u_sp_u_ssize_uni.use w, formM_u_sp_u_ssize_uni.use w, .none⟩
  | .stp w => some ⟨headWord w.c w.q 17 (32 + 2 * w.sub.val + w.ord.isSome.toNat) (formM_v_sp_u_freg_any.body w), formM_v_sp_u_freg_any.use w, formM_v_sp_u_freg_any.use w, .none⟩
  | .atAdd w => some ⟨headWord w.c w.q 18 (0 + 2 * w.sub.toNat + w.ord.isSome.toNat) (formM_ad_base_x_w_any.body w), formM_ad_base_x_w_any.use w, formM_ad_base_x_w_any.src w, .none⟩
  | .atSub w => some ⟨headWord w.c w.q 18 (4 + 2 * w.sub.toNat + w.ord.isSome.toNat) (formM_ad_base_x_w_any.body w), formM_ad_base_x_w_any.use w, formM_ad_base_x_w_any.src w, .none⟩
  | .atMin w => some ⟨headWord w.c w.q 18 (8 + 2 * w.sub.toNat + w.ord.isSome.toNat) (formM_ad_base_x_w_any.body w), formM_ad_base_x_w_any.use w, formM_ad_base_x_w_any.src w, .none⟩
  | .atMax w => some ⟨headWord w.c w.q 18 (12 + 2 * w.sub.toNat + w.ord.isSome.toNat) (formM_ad_base_x_w_any.body w), formM_ad_base_x_w_any.use w, formM_ad_base_x_w_any.src w, .none⟩
  | .atMinu w => some ⟨headWord w.c w.q 18 (16 + 2 * w.sub.toNat + w.ord.isSome.toNat) (formM_ad_base_x_w_any.body w), formM_ad_base_x_w_any.use w, formM_ad_base_x_w_any.src w, .none⟩
  | .atMaxu w => some ⟨headWord w.c w.q 18 (20 + 2 * w.sub.toNat + w.ord.isSome.toNat) (formM_ad_base_x_w_any.body w), formM_ad_base_x_w_any.use w, formM_ad_base_x_w_any.src w, .none⟩
  | .atAnd w => some ⟨headWord w.c w.q 18 (24 + 2 * w.sub.toNat + w.ord.isSome.toNat) (formM_ad_base_x_w_any.body w), formM_ad_base_x_w_any.use w, formM_ad_base_x_w_any.src w, .none⟩
  | .atOr w => some ⟨headWord w.c w.q 18 (28 + 2 * w.sub.toNat + w.ord.isSome.toNat) (formM_ad_base_x_w_any.body w), formM_ad_base_x_w_any.use w, formM_ad_base_x_w_any.src w, .none⟩
  | .atXor w => some ⟨headWord w.c w.q 18 (32 + 2 * w.sub.toNat + w.ord.isSome.toNat) (formM_ad_base_x_w_any.body w), formM_ad_base_x_w_any.use w, formM_ad_base_x_w_any.src w, .none⟩
  | .atXchg w => some ⟨headWord w.c w.q 18 (36 + 2 * w.sub.toNat + w.ord.isSome.toNat) (formM_ad_base_x_w_any.body w), formM_ad_base_x_w_any.use w, formM_ad_base_x_w_any.src w, .none⟩
  | .atCas w => some ⟨headWord w.c w.q 18 (40 + 2 * w.sub.toNat + w.ord.isSome.toNat) (formM_vc_base_x_w_any.body w), formM_vc_base_x_w_any.use w, formM_vc_base_x_w_any.use w, .none⟩
  | .atFadd w => some ⟨headWord w.c w.q 18 (44 + w.ord.isSome.toNat) (formM_ad_base_x_w0_any.body w), formM_ad_base_x_w0_any.use w, formM_ad_base_x_w0_any.src w, .none⟩
  | .atXadd w => some ⟨headWord w.c w.q 18 (48 + w.sub.code) (formM_blank_base_x_xf_any.body w), formM_blank_base_x_xf_any.use w, formM_blank_base_x_xf_any.src w, .none⟩
  | .atXrd w => some ⟨headWord w.c w.q 18 (52 + 2 * w.sub.toNat + w.ord.isSome.toNat) (formM_v_base_zero_clr_any.body w), formM_v_base_zero_clr_any.use w, formM_v_base_zero_clr_any.src w, .none⟩
  | .snFence w => some ⟨headWord w.c w.q 19 0 (formS_0_0_fence_uni.body w), formS_0_0_fence_uni.use w, formS_0_0_fence_uni.src w, .none⟩
  | .snXf w => some ⟨headWord w.c w.q 19 1 (formS_0_0_xf_uni.body w), formS_0_0_xf_uni.use w, formS_0_0_xf_uni.src w, .none⟩
  | .snBinit w => some ⟨headWord w.c w.q 19 2 (formS_0_u_bar_uni.body w), formS_0_u_bar_uni.use w, formS_0_u_bar_uni.src w, .none⟩
  | .snBar w => some ⟨headWord w.c w.q 19 3 (formS_0_0_barx_uni.body w), formS_0_0_barx_uni.use w, formS_0_0_barx_uni.src w, .none⟩
  | .snBara w => some ⟨headWord w.c w.q 19 4 (formS_s_0_bar_uni.body w), formS_s_0_bar_uni.use w, formS_s_0_bar_uni.src w, .none⟩
  | .snBarw w => some ⟨headWord w.c w.q 19 5 (formS_0_u_bar_uni.body w), formS_0_u_bar_uni.use w, formS_0_u_bar_uni.src w, .none⟩
  | .snMarm w => some ⟨headWord w.c w.q 19 6 (formS_0_sp_0_uni.body w), formS_0_sp_0_uni.use w, formS_0_sp_0_uni.src w, .none⟩
  | .snMwait w => some ⟨headWord w.c w.q 19 7 (formS_s_u_0_uni.body w), formS_s_u_0_uni.use w, formS_s_u_0_uni.src w, .none⟩
  | .snFlush w => some ⟨headWord w.c w.q 19 8 (formS_0_0_0_uni.body w), formS_0_0_0_uni.use w, formS_0_0_0_uni.src w, .none⟩
  | .snInv w => some ⟨headWord w.c w.q 19 9 (formS_0_0_0_uni.body w), formS_0_0_0_uni.use w, formS_0_0_0_uni.src w, .none⟩
  | .cpLane w => some ⟨headWord w.c w.q 20 0 (formX_base_base_x_cpn_any.body w), formX_base_base_x_cpn_any.use w, formX_base_base_x_cpn_any.src w, .none⟩
  | .cpBulk w => some ⟨headWord w.c w.q 20 1 (formX_sp_sp_u_bool_uni.body w), formX_sp_sp_u_bool_uni.use w, formX_sp_sp_u_bool_uni.src w, .none⟩
  | .cpMcast w => some ⟨headWord w.c w.q 20 2 (formX_sp_s4_sp_0_uni.body w), formX_sp_s4_sp_0_uni.use w, formX_sp_s4_sp_0_uni.src w, .none⟩
  | .cpStamp w => some ⟨headWord w.c w.q 20 3 (formX_sp_u64_0_bool_uni.body w), formX_sp_u64_0_bool_uni.use w, formX_sp_u64_0_bool_uni.src w, .none⟩
  | .cpArrv w => some ⟨headWord w.c w.q 20 4 (formX_u_u_0_0_uni.body w), formX_u_u_0_0_uni.use w, formX_u_u_0_0_uni.src w, .none⟩
  | .tkWait w => some ⟨headWord w.c w.q 21 0 (formA_0_k_0_0_0_uni.body w), formA_0_k_0_0_0_uni.use w, formA_0_k_0_0_0_uni.src w, .none⟩
  | .tkTst w => some ⟨headWord w.c w.q 21 1 (formA_q_k_0_0_0_uni.body w), formA_q_k_0_0_0_uni.use w, formA_q_k_0_0_0_uni.src w, .none⟩
  | .tkCan w => some ⟨headWord w.c w.q 21 2 (formA_0_k_0_0_0_uni.body w), formA_0_k_0_0_0_uni.use w, formA_0_k_0_0_0_uni.src w, .none⟩
  | .tkCnt w => some ⟨headWord w.c w.q 21 3 (formA_sW_k_0_0_0_uni.body w), formA_sW_k_0_0_0_uni.use w, formA_sW_k_0_0_0_uni.src w, .uni⟩
  | .mxMma w => some ⟨headWord w.c w.q 22 0 (formX_v_v_u_mx_uni.body w), formX_v_v_u_mx_uni.use w, formX_v_v_u_mx_uni.src w, .none⟩
  | .mxMmas w => some ⟨headWord w.c w.q 22 1 (formX_u_v_u_mx_uni.body w), formX_u_v_u_mx_uni.use w, formX_u_v_u_mx_uni.src w, .none⟩
  | .mxZero w => some ⟨headWord w.c w.q 22 2 (formX_0_0_u_0_uni.body w), formX_0_0_u_0_uni.use w, formX_0_0_u_0_uni.src w, .none⟩
  | .axWin w => some ⟨headWord w.c w.q 23 0 (formA_0_u_u_u_0_uni.body w), formA_0_u_u_u_0_uni.use w, formA_0_u_u_u_0_uni.src w, .none⟩
  | .axDrn w => some ⟨headWord w.c w.q 23 1 (formX_v_u_u_drn_uni.body w), formX_v_u_u_drn_uni.use w, (uniPos.use w.b).join (uniPos.use w.cc), .none⟩
  | .axFil w => some ⟨headWord w.c w.q 23 2 (formX_v_u_u_fil_uni.body w), formX_v_u_u_fil_uni.use w, formX_v_u_u_fil_uni.src w, .none⟩
  | .axChk w => some ⟨headWord w.c w.q 23 3 (formX_0_u_u_0_uni.body w), formX_0_u_u_0_uni.use w, formX_0_u_u_0_uni.src w, .none⟩
  | .fbPut w => some ⟨headWord w.c w.q 24 0 (formX_base_base_x_put_any.body w), formX_base_base_x_put_any.use w, formX_base_base_x_put_any.src w, .none⟩
  | .fbGet w => some ⟨headWord w.c w.q 24 1 (formX_base_base_x_0_any.body w), formX_base_base_x_0_any.use w, formX_base_base_x_0_any.src w, .none⟩
  | .fbRed w => some ⟨headWord w.c w.q 24 2 (formX_base_base_x_fred_any.body w), formX_base_base_x_fred_any.use w, formX_base_base_x_fred_any.src w, .none⟩
  | .fbAta w => some ⟨headWord w.c w.q 24 3 (formX_sp_0_0_0_uni.body w), formX_sp_0_0_0_uni.use w, formX_sp_0_0_0_uni.src w, .none⟩
  | .fbCmb w => some ⟨headWord w.c w.q 24 4 (formX_sp_0_0_0_uni.body w), formX_sp_0_0_0_uni.use w, formX_sp_0_0_0_uni.src w, .none⟩
  | .fbArrv w => some ⟨headWord w.c w.q 24 5 (formX_u_u_u_0_uni.body w), formX_u_u_u_0_uni.use w, formX_u_u_u_0_uni.src w, .none⟩
  | .dvReg w => some ⟨headWord w.c w.q 25 0 (formA_s_sp_0_0_0_uni.body w), formA_s_sp_0_0_0_uni.use w, formA_s_sp_0_0_0_uni.src w, .none⟩
  | .dvUnreg w => some ⟨headWord w.c w.q 25 1 (formA_s_ui_0_0_0_uni.body w), formA_s_ui_0_0_0_uni.use w, formA_s_ui_0_0_0_uni.src w, .none⟩
  | .dvQry w => some ⟨headWord w.c w.q 25 2 (formA_s_ui_ui_0_0_uni.body w), formA_s_ui_ui_0_0_uni.use w, formA_s_ui_ui_0_0_uni.src w, .none⟩
  | .dvWarm w => some ⟨headWord w.c w.q 25 3 (formX_ui_ui_ui_0_uni.body w), formX_ui_ui_ui_0_uni.use w, formX_ui_ui_ui_0_uni.src w, .none⟩
  | .icLock w => some ⟨headWord w.c w.q 26 0 (formA_q_sp_u_0_0_uni.body w), formA_q_sp_u_0_0_uni.use w, formA_q_sp_u_0_0_uni.src w, .none⟩
  | .icUnlk w => some ⟨headWord w.c w.q 26 1 (formA_0_sp_u_0_0_uni.body w), formA_0_sp_u_0_0_uni.use w, formA_0_sp_u_0_0_uni.src w, .none⟩
  | .icInv w => some ⟨headWord w.c w.q 26 2 (formA_0_sp_u_0_0_uni.body w), formA_0_sp_u_0_0_uni.use w, formA_0_sp_u_0_0_uni.src w, .none⟩
  | .kick _ _ _ => none
  | .preemptTeam _ _ => none
  | .preemptFunction _ => none
  | .vfrstStart _ => none
  | .functionLevelReset _ => none
  | .invalidateContext _ => none
  | .invalidatePage _ => none
  | .invalidateRange _ _ => none
  | .invalidationComplete => none
  | .seal _ => none
  | .sealCheck _ => none
  | .attcmd _ => none
  | .dbgteamResume _ => none
  | .queueEnable _ _ _ => none
  | .queueDisable _ _ _ => none
  | .queueRestart _ _ _ => none
  | .partWrite _ _ _ => none
  | .registerWrite _ _ _ => none
  | .hostWindowRead _ _ _ => none
  | .hostWindowWrite _ _ _ => none
  | .apertureRead _ _ _ => none
  | .apertureWrite _ _ _ => none
  | .hostAtomicop _ _ _ _ _ _ => none
  | .atsInvalidationRequest _ _ _ => none
  | .atsTranslationCompletion _ _ _ => none
  | .pageRequestResponse _ _ _ => none
  | .pldmEnrollOwnerKey _ _ => none
  | .pldmRemoveOwnerKey _ _ => none
  | .pldmAttest _ => none
  | .pldmSetPowerLimit _ => none
  | .pldmSetScrubRate _ => none
  | .firmwareStage _ _ => none
  | .moduleReset => none
  | .entryFetch _ _ => none
  | .stampWaitHolds _ _ => none
  | .launch _ => none
  | .barrier _ => none
  | .flush _ => none
  | .stamp _ => none
  | .teamPlace _ => none
  | .groupRetire _ => none
  | .launchComplete _ => none
  | .watchdog _ => none
  | .faultRecorded _ => none
  | .faultDrainDone _ => none
  | .preemptRequest _ => none
  | .timeSliceExpire _ => none
  | .preemptBoundExpire _ => none
  | .preemptSave _ => none
  | .vfResetDrainDone _ => none
  | .vfResetDrainTimeout _ => none
  | .sliceRead _ => none
  | .sliceWrite _ => none
  | .sliceAtomic _ => none
  | .patrolScrub _ => none
  | .loadReturn _ => none
  | .recomputeComplete _ _ => none
  | .pageWalkComplete _ => none
  | .lineFill _ => none
  | .triggerStart _ => none
  | .copyComplete _ => none
  | .stampWrite _ => none
  | .arrivalLand _ => none
  | .deliveryLand _ => none
  | .mwaitTimeout _ _ => none
  | .sleepExpire _ _ => none
  | .matrixOpComplete _ => none
  | .fabricPacketReceive _ => none
  | .fabricAcknowledge _ _ _ => none
  | .linkRetrained _ => none
  | .linkDown _ => none
  | .thermalStop => none
  | .thermalResume => none
  | .thermalShutdown => none
  | .softError _ _ => none
  | .droopEvent _ => none
  | .withholdIssueCycles _ => none
  | .hostWriteCompletion _ => none

/-- The word of a well-formed instruction. -/
def encode (i : Instr) : Option (BitVec 64) := if i.ok then i.encoded.map (·.word) else none
/-- What the operands of an instruction name. -/
def Instr.use (i : Instr) : OpUse := match i.encoded with | some e => e.use | none => .nil
/-- The sources that an instruction names. -/
def Instr.src (i : Instr) : OpUse := match i.encoded with | some e => e.src | none => .nil
/-- What an instruction writes to its latch (R146). -/
def Instr.latch (i : Instr) : LatchKind := match i.encoded with | some e => e.latch | none => .none
/-- The safe-point bit of an instruction (R139). -/
def Instr.qBit (i : Instr) : Bool :=
  match i.encoded with | some e => e.word.getLsbD 62 | none => false
/-- The chain bit of an instruction (R139). -/
def Instr.cBit (i : Instr) : Bool :=
  match i.encoded with | some e => e.word.getLsbD 63 | none => false

/-! ## Words in their chain (R144 to R150) -/

/-- What surrounds a word when it is decoded: lanes of the group, declared vector registers, the latches that earlier
words of the chain write, and the word after it. -/
structure DecodeEnv where
  width : Nat
  regs : Nat
  latches : List LatchKind
  next : BitVec 64

/-- The chain and safe-point conditions of row 1 of R150. -/
def chainBad (env : DecodeEnv) (w : BitVec 64) : Bool :=
  (Sys2Proof.cBit w && (decide (7 ≤ env.latches.length) || Sys2Proof.qBit w || decide (bits w 56 6 ≤ 1)))
    || (Sys2Proof.qBit w && bits env.next 56 8 != 0xFF)

/-- A latch read that R171 refuses: a lane latch in a uniform position. -/
def LatchRead.misplaced (ls : List LatchKind) (r : LatchRead) : Bool :=
  !r.lanePos && ls[r.n]? == some .lane
/-- A latch read that R146 refuses: not written by an earlier word. -/
def LatchRead.invalid (ls : List LatchKind) (r : LatchRead) : Bool :=
  match ls[r.n]? with
  | some .uni | some .lane => false
  | _ => true

/-- One more than the highest vector register named. -/
def OpUse.top (u : OpUse) : Nat := u.regs.foldl (fun t r => if r.vec then max t (r.base + r.n) else t) 0

/-- One word, in the order of R150. -/
def decodeWord (env : DecodeEnv) (w : BitVec 64) : Except DecodeFault Instr :=
  if chainBad env w then .error .illegalInstruction
  else match parseWord env.width w with
    | .error e => .error e
    | .ok i =>
      let u := i.use
      if u.lats.any (LatchRead.misplaced env.latches) then .error .illegalOperand
      else if env.regs < u.top then .error .registerRange
      else if u.lats.any (LatchRead.invalid env.latches) then .error .latchInvalid
      else .ok i

/-- A chain decoded whole before any word executes (R138): the words and, where decoding stops short, the number of
the faulting word with its fault. `ws` are the words from the chain's first; `fuel` is at most 8. -/
def decodeChain (width regs : Nat) : Nat → List LatchKind → List (BitVec 64) → Except (Nat × DecodeFault) (List Instr)
  | 0, ls, _ => .error (ls.length, .illegalInstruction)
  | fuel + 1, ls, w :: ws =>
    match decodeWord ⟨width, regs, ls, ws.headD 0⟩ w with
    | .error e => .error (ls.length, e)
    | .ok i =>
      if cBit w then
        match decodeChain width regs fuel (ls ++ [i.latch]) ws with
        | .error e => .error e
        | .ok is => .ok (i :: is)
      else .ok [i]
  | _, ls, [] => .error (ls.length, .illegalInstruction)

/-! ## Bytes -/

/-- `n` bytes of a number, least significant first (00 R3). -/
def bytesOfNat : Nat → Nat → List Byte
  | 0, _ => []
  | n + 1, x => BitVec.ofNat 8 x :: bytesOfNat n (x / 256)
/-- The number of little-endian bytes (00 R3). -/
def natOfBytes : List Byte → Nat
  | [] => 0
  | b :: bs => b.toNat + 256 * natOfBytes bs

/-- The instruction words in bytes as the hardware stores them. -/
def wordsOfBytes : Nat → List Byte → List (BitVec 64)
  | 0, _ => []
  | n + 1, bs => BitVec.ofNat 64 (natOfBytes (bs.take 8)) :: wordsOfBytes n (bs.drop 8)

/-- The instruction that the decoder reads from bits laid out as the hardware stores them, followed by zeros. The group
has 64 lanes and declares all 256 registers. -/
def decodeTableWord (nbits w : Nat) : Option Instr :=
  match wordsOfBytes 2 (bytesOfNat 16 (w % 2 ^ nbits)) with
  | [a, b] => match decodeWord ⟨64, 256, [], b⟩ a with
    | .ok i => some i
    | .error _ => none
  | _ => none

end Sys2Proof
end

