-- ==== Sys2Proof/Config.lean ====
section
/-! DEFINITION. What an implementation fixes, and the values the manual leaves open (uninterpreted constants). -/
namespace Sys2Proof

/-- Which of the enabled candidates happens next, for the n-th choice: 00 R386 leaves latencies and arrival orders
open. Log 2. -/
opaque Config.pick : Nat → Nat
/-- Bits read from storage whose error lies beyond what its code promises (01 R9, R10 state nothing), for the n-th
such read. Log 5. -/
opaque Config.freeByte : Nat → Byte
/-- Whether an error beyond the code's promise is detected (01 R9, R10), for the n-th such read. Log 5. -/
opaque Config.freeBit : Nat → Bool
/-- Cycles within which a store that may take effect does, and an answer on its way arrives: finite (21 R331). Log 58. -/
opaque Config.storeBound : Nat
/-- The sealing key that the device derives from its identity secret and a firmware measurement; it never leaves the device
(09 R168). Log 8. -/
opaque Config.sealingKey : List Byte → List Byte
/-- Whether an Ed448 signature is Kregan's key's, over the bytes (24 R372). Log 8. -/
opaque Config.kreganSigned : List Byte → List Byte → Bool
/-- Whether an Ed448 signature over the bytes verifies under an owner key (24 R372). Log 8. -/
opaque Config.ownerSigned : List Byte → List Byte → List Byte → Bool
/-- The device's Ed448 identity public key, 57 bytes (24 R374). Log 8. -/
opaque Config.identityKey : Nat → Byte
/-- The identity key's signature over the bytes, 114 bytes (24 R374). Log 8. -/
opaque Config.identitySign : List Byte → Nat → Byte
/-- A core's temperature at a cycle, in 0.125 °C steps (06 R115): nothing states it. Log 17. -/
opaque Config.therm : Nat → Nat → BitVec 16
/-- A host address lies inside the device's own BARs, which the host places (01 R29; nothing states where). Log 57. -/
opaque Config.inOwnBars : Nat → Bool
/-- A ring oscillator's reading: 16 × die + its number, and the cycle (24 R375 states no value). Log 17. -/
opaque Config.oscillator : Nat → Nat → Word
/-- The signature that stands beside a firmware image (24 R372 does not say where it lies). Log 14. -/
opaque Config.imageSignature : List Byte → List Byte

/-- STEPPING: 0x0000_07A0 for x7a0 (06 R115). DESIGN CHOICE, log 9: the part modelled is x7a0. -/
def Config.stepping : Word := 0x000007A0
/-- The compatibility mask of x7a0 (09 R167). -/
def Config.compatMask : Nat := 0b01

end Sys2Proof
end

