-- ==== Sys2Proof/Machine/Keccak.lean ====
section
/-! DEFINITION. SHAKE256 (24 R372) and KMAC256 (09 R168), by FIPS 202 and NIST SP 800-185, which the spec names. PRESUMED,
log 8: the standards' own text stands outside spec/. Lanes are numbers below 2^64. -/
namespace Sys2Proof.Machine
open Sys2Proof

/-- A number's bytes, least significant first. -/
def natBytes : Nat → Nat → List Byte
  | 0, _ => []
  | n + 1, x => BitVec.ofNat 8 (x % 256) :: natBytes n (x / 256)
/-- The number of bytes, least significant first. -/
def bytesNat : List Byte → Nat
  | [] => 0
  | b :: bs => b.toNat + 256 * bytesNat bs

/-! ## Keccak-f[1600] (FIPS 202, 3.2): lane (x, y) at place x + 5y -/

/-- A lane turned left. -/
def turn64 (x n : Nat) : Nat := (x <<< n ||| x >>> (64 - n)) % 2 ^ 64
/-- Offsets of ρ, by place. -/
def keccakTurns : List Nat :=
  [0, 1, 62, 28, 27, 36, 44, 6, 55, 20, 3, 10, 43, 25, 39, 41, 45, 15, 21, 8, 18, 2, 61, 56, 14]
/-- Constants of ι, by round. -/
def keccakRounds : List Nat :=
  [0x0000000000000001, 0x0000000000008082, 0x800000000000808A, 0x8000000080008000, 0x000000000000808B, 0x0000000080000001,
   0x8000000080008081, 0x8000000000008009, 0x000000000000008A, 0x0000000000000088, 0x0000000080008009, 0x000000008000000A] ++
  [0x000000008000808B, 0x800000000000008B, 0x8000000000008089, 0x8000000000008003, 0x8000000000008002, 0x8000000000000080,
   0x000000000000800A, 0x800000008000000A, 0x8000000080008081, 0x8000000000008080, 0x0000000080000001, 0x8000000080008008]
/-- θ. -/
def keccakTheta (a : List Nat) : List Nat :=
  let c := (List.range 5).map (fun x => (List.range 5).foldl (fun v y => v ^^^ a.getD (x + 5 * y) 0) 0)
  let d := (List.range 5).map (fun x => c.getD ((x + 4) % 5) 0 ^^^ turn64 (c.getD ((x + 1) % 5) 0) 1)
  (List.range 25).map (fun i => a.getD i 0 ^^^ d.getD (i % 5) 0)
/-- ρ, then π: the lane at (x, y) comes from (x + 3y, x). -/
def keccakRhoPi (a : List Nat) : List Nat :=
  (List.range 25).map (fun i =>
    let j := (i % 5 + 3 * (i / 5)) % 5 + 5 * (i % 5)
    turn64 (a.getD j 0) (keccakTurns.getD j 0))
/-- χ. -/
def keccakChi (a : List Nat) : List Nat :=
  (List.range 25).map (fun i =>
    let row := 5 * (i / 5)
    a.getD i 0 ^^^ ((2 ^ 64 - 1 - a.getD (row + (i + 1) % 5) 0) &&& a.getD (row + (i + 2) % 5) 0))
/-- One round. -/
def keccakRound (a : List Nat) (rc : Nat) : List Nat :=
  match keccakChi (keccakRhoPi (keccakTheta a)) with
  | [] => []
  | x :: xs => (x ^^^ rc) :: xs
/-- The permutation. -/
def keccakF (a : List Nat) : List Nat := keccakRounds.foldl keccakRound a

/-! ## The sponge, of rate 136 bytes -/

/-- A message padded to whole blocks: the suffix bits of the function, then 1, zeros and 1. -/
def keccakPad (suffix : Nat) (m : List Byte) : List Byte :=
  let z := 135 - m.length % 136
  if z = 0 then m ++ [BitVec.ofNat 8 (suffix ||| 0x80)]
  else m ++ BitVec.ofNat 8 suffix :: List.replicate (z - 1) 0 ++ [0x80]
/-- `n` blocks absorbed. -/
def keccakAbsorb : Nat → List Nat → List Byte → List Nat
  | 0, a, _ => a
  | n + 1, a, m =>
    let b := (List.range 25).map (fun i => a.getD i 0 ^^^ bytesNat (((m.take 136).drop (8 * i)).take 8))
    keccakAbsorb n (keccakF b) (m.drop 136)
/-- Up to 136 bytes of output for a message. -/
def keccakSponge (suffix : Nat) (m : List Byte) (out : Nat) : List Byte :=
  let p := keccakPad suffix m
  ((keccakAbsorb (p.length / 136) (List.replicate 25 0) p).flatMap (natBytes 8)).take out
/-- SHAKE256, up to 136 bytes of output. -/
def shake256 (m : List Byte) (out : Nat) : List Byte := keccakSponge 0x1F m out

/-! ## KMAC256 (SP 800-185, 2.3, 3.3, 4.3) -/

/-- Bytes of a number, most significant first, at least one. -/
def shortBytes (x : Nat) : List Byte := (natBytes (max 1 ((x.log2 + 8) / 8)) x).reverse
/-- left_encode. -/
def leftEncode (x : Nat) : List Byte := BitVec.ofNat 8 (shortBytes x).length :: shortBytes x
/-- right_encode. -/
def rightEncode (x : Nat) : List Byte := shortBytes x ++ [BitVec.ofNat 8 (shortBytes x).length]
/-- encode_string. -/
def encodeString (s : List Byte) : List Byte := leftEncode (8 * s.length) ++ s
/-- bytepad to the rate. -/
def bytepad (s : List Byte) : List Byte :=
  let x := leftEncode 136 ++ s
  x ++ List.replicate ((136 - x.length % 136) % 136) 0
/-- "KMAC". -/
def kmacName : List Byte := [0x4B, 0x4D, 0x41, 0x43]
/-- KMAC256 with up to 136 bytes of output. -/
def kmac256 (key m custom : List Byte) (out : Nat) : List Byte :=
  keccakSponge 0x04
    (bytepad (encodeString kmacName ++ encodeString custom) ++ bytepad (encodeString key) ++ m ++ rightEncode (8 * out)) out
/-- "Celpoiz cache" (09 R168). -/
def sealCustom : List Byte := [0x43, 0x65, 0x6C, 0x70, 0x6F, 0x69, 0x7A, 0x20, 0x63, 0x61, 0x63, 0x68, 0x65]

end Sys2Proof.Machine
end

