-- ==== Sys2Proof/Machine/State.lean ====
section
/-! DEFINITION. The state of one module and its host memory: plain data, everything that spec/ names. INVENTORY.md lists
each piece with its rule and its value at reset. -/
namespace Sys2Proof.Machine
open Sys2Proof

/-- Why the machine stops. -/
inductive Fault where
  /-- A word was executed while no path stands selected. Raised by exec alone, never through step, which selects the
  path first. Safe: the spec gives a word a meaning only on a path. -/
  | noPath
  deriving DecidableEq, Repr

/-- Why the machine has no meaning for an instruction. -/
inductive Refusal where
  /-- An instruction whose meaning is not written yet. Safe. -/
  | notModelled (mnemonic : String)
  deriving DecidableEq, Repr

/-- Memory: bytes by address, addresses strictly rising, no entry equal to what an unlisted address reads as (0). -/
abbrev Memory := List Host.Cell

/-! ## Codes -/

/-- Access paths (13 R243). -/
inductive APath where
  | l | g | c | m | f | h
  deriving DecidableEq, Repr

/-- Fault codes (23 R347). -/
inductive Code where
  | illegalInstruction | illegalOperand | latchInvalid | registerRange | misaligned | address | derivedWrite
  | cyclicDerivation | accWindow | accIntegrity | rejoinCycle | foldInvalid | recordInvalid | poison | watchdog
  | bind | userTrap | fabric
  deriving DecidableEq, Repr

/-- What an address names once it is translated (01 R11, R23, R24): device physical memory, host memory, a peer's
physical memory, or a half of a team's scratchpad. -/
inductive Target where
  | dev (pa : Nat)
  | host (ha : Nat)
  | peer (p pa : Nat)
  | spad (team side off : Nat)
  deriving DecidableEq, Repr

/-! ## Requests in flight -/

/-- What a request does at its owner (01 R13, R16, R19, R20, 18 R303). -/
inductive ReqOp where
  | read (n : Nat)
  | write (data : List Byte) (bad : List Bool)
  | atomic (op : AtOp) (wide : Bool) (x y : DWord) (fmt : BitVec 6)
  | xadd (fmt : XFmt) (x : Word)
  | xrd (clr : Bool)
  | red (ty : RedType) (data : List Byte) (bad : List Bool)
  /-- A delivery to a team's scratchpad at a peer (18 R301). -/
  | spad (handle : Word) (data : List Byte) (bad : List Bool)
  /-- An arrival at a barrier of a team at a peer (18 R310). -/
  | arrive (handle : Word) (bar : Nat)
  deriving DecidableEq, Repr

/-- Where a request's answer goes. -/
inductive Ret where
  | none
  /-- Vector registers `reg …` of lanes, as the size code's image (14 R256) of the bytes at an offset of those read: lanes
  that read one scratchpad word share one access (03 R63). -/
  | lanes (grp : Nat) (parts : List (Lanes × Nat)) (reg : Nat) (size : Size)
  /-- Uniform registers (14 R258). -/
  | uni (grp reg : Nat) (size : Size)
  /-- The old value of an atomic, of four or eight bytes (14 R264). -/
  | atom (grp lane reg : Nat) (wide : Bool)
  /-- Elements of a plane of `n` bytes: the lane, register and byte of each, and its offset in the bytes read (14 R262, 03
  R63). -/
  | elem (grp n : Nat) (parts : List (Nat × Nat × Nat × Nat))
  /-- Piece k of an operation: its bytes read, or its write done. -/
  | op (id k : Nat)
  /-- Bytes of a table that a path's word reads at issue: table, offset. -/
  | table (path k off : Nat)
  /-- Bytes of an instruction line that is being filled: fill, offset. -/
  | line (fill off : Nat)
  /-- A peer's operation, answered by a packet. -/
  | peer (p op : Nat)
  /-- The host's read of its aperture (24 R364). -/
  | host
  deriving DecidableEq, Repr

/-- A request in flight: source, path, owner of the work, operation, target and what must take effect before it. -/
structure Req where
  /-- The core (0 to 255), a core's requests at its sluice engine (16384 + core), the fabric port side of a die (600 + die),
  the host (1024), the walker of page tables (1025) or the peer (1536 + peer) that issued it. -/
  src : Nat
  /-- The path whose word issued it, 0 for every other: by it and `born`, the requests of one word. -/
  arm : Nat
  /-- Its place in the order in which its sluice engine has served requests, 0 before it is served (04 R73); of a request of
  any other source, 0. -/
  served : Nat
  path : APath
  fn : Nat
  entry : Nat
  team : Nat
  grp : Nat
  /-- The lanes whose access it is: for an access made once, the path's lanes. -/
  lanes : Lanes
  /-- LANES of a fault that it meets: 0 for an access made once (23 R353). -/
  named : Lanes
  pc : DWord
  va : DWord
  ctx : Nat
  op : ReqOp
  tgt : Target
  after : List Nat
  ret : Ret
  /-- An acquire at team scope or wider (13 R246). -/
  acquire : Bool
  /-- The answer must not fill the load buffer: it never does, or the line was invalidated meanwhile (03 R71). -/
  noFill : Bool
  /-- The answer of a performed read or atomic, which has not returned yet, and its place in the order of answers; for a
  request to a peer, before its answer: 0 not sent, 1 sent, 2 its packet was discarded (24 R370). -/
  value : Option (List Byte × List Bool)
  doneAt : Nat
  /-- A mesh flit of it or of its answer was given up on: its poison is the mesh's (01 R35, 23 R354). -/
  mesh : Bool
  /-- The first 64 bytes of the line that the load fills, once read (01 R13: a line is read in two steps). -/
  half : Option (List Byte × List Bool)
  /-- The bytes of a copy's write that have landed, by offset (17 R288: they land in any order). -/
  part : List Nat
  /-- The cycle in which it was issued: a store takes effect within a finite time (21 R331). -/
  born : Nat
  deriving DecidableEq, Repr

/-! ## Asynchronous operations (04, 18) -/

/-- A contributing lane of an FB word (18 R300): local address, remote address (for .SP: handle and offset), bytes, and
the peers it addresses. -/
structure FbLane where
  loc : DWord
  rem : DWord
  size : Nat
  peers : List Nat
  deriving DecidableEq, Repr

/-- One lane's copy (04 R75): source, destination, valid bytes; and whether its bytes are written: not where a higher lane
of a request that lands first has the same destination. -/
structure LaneCopy where
  src : DWord
  dst : DWord
  n : Nat
  written : Bool
  deriving DecidableEq, Repr

/-- The kinds of operation that count under a tag, with the operands captured at issue. -/
inductive OpKind where
  /-- Lane copies that share one line request (04 R74, R75), in the order of their lanes, and their size. -/
  | lane (copies : List LaneCopy) (size : Nat)
  /-- A bulk copy (04 R76). -/
  | bulk (src dst : DWord) (bytes rows spitch dpitch : Nat)
  /-- A multicast: source, bytes, destination offset, handles, stamp offset and value (04 R89). -/
  | mcast (src : DWord) (bytes off : Nat) (handles : List Word) (stamp : Option (Nat × DWord))
  /-- A stamp (04 R84). -/
  | stamp (addr val : DWord) (sys : Bool)
  /-- A local arrival (04 R88). -/
  | arrive (handle : Word) (bar : Nat)
  /-- DV.WARM: tiles of a handle (02 R57). -/
  | warm (handle first count : Nat)
  /-- A matrix multiply: type, the fragments' elements and scale codes as read at issue, A's scratchpad offset for
  MMAS, row, and for NQ4 the superscale (18 R290 to R294). -/
  | mma (ty : MxType) (a b codes : List Nat) (spadA : Option Nat) (row : Nat) (scale : Word)
  /-- MX.ZERO. -/
  | zero (row : Nat)
  /-- AX.DRN: destination register, fold word, rows (18 R297, R299). -/
  | drain (mod : DrnMod) (d : Nat) (fold : DWord) (row n : Nat)
  /-- AX.FIL: the words of the rows, as read and widened at issue (18 R297). -/
  | fill (words : List Word) (row n : Nat)
  /-- AX.CHK. -/
  | check (row n : Nat)
  /-- FB.PUT (18 R302). -/
  | put (mod : PutMod) (lanes : List FbLane)
  /-- FB.GET. -/
  | get (lanes : List FbLane)
  /-- FB.RED. -/
  | red (mod : FbRedMod) (lanes : List FbLane)
  /-- FB.ATA with its layout map, 128 bytes as a number (18 R306). -/
  | ata (map : Nat)
  /-- FB.CMB with its combine record as a number, its gate table and its slot table (18 R308). -/
  | cmb (img : Nat) (gate slot : List Byte)
  /-- FB.ARRV (18 R310). -/
  | fbArrive (peer : Nat) (handle : Word) (bar : Nat)
  deriving DecidableEq, Repr

/-- Where a piece's bytes come from: given, an address of the context, or an address at a peer (18 R301). -/
inductive Source where
  | given
  | mem (va : DWord)
  | peer (p : Nat) (va : DWord)
  deriving DecidableEq, Repr

/-- Where a piece's bytes go: an address of the context, an address at a peer, a team's scratchpad on this module or at
a peer, a reduction at a peer, a count at a peer, an arrival at a peer, or nowhere yet. -/
inductive Sink where
  | mem (va : DWord)
  | peer (p : Nat) (va : DWord)
  | team (handle : Word) (off : Nat)
  | peerTeam (p : Nat) (handle : Word) (off : Nat)
  | red (p : Nat) (va : DWord) (ty : RedType)
  | count (p : Nat) (va : DWord)
  | arrive (p : Nat) (handle : Word) (bar : Nat)
  | keep
  deriving DecidableEq, Repr

/-- One piece of an operation (04 R75, R76, R89; 18 R302 to R309): its source, its destination, the bytes read, the zero
bytes that follow them, and the data once there. -/
structure Piece where
  src : Source
  dst : Sink
  n : Nat
  pad : Nat
  data : Option (List Byte × List Bool)
  /-- The read, then the write, has been issued. -/
  asked : Bool
  put : Bool
  /-- The request or delivery that writes it. -/
  id : Nat
  /-- The lane, receiver or row it belongs to, and whether it lands after everything else of that key. -/
  key : Nat
  last : Bool
  /-- LANES of a fault that it meets: its lane, 0 in an operation of the whole path (23 R353). -/
  lanes : Lanes
  deriving DecidableEq, Repr

/-- An asynchronous operation (04 R77 to R84). -/
structure Op where
  kind : OpKind
  fn : Nat
  ctx : Nat
  entry : Nat
  team : Nat
  grp : Nat
  core : Nat
  lanes : Lanes
  pc : DWord
  tag : Nat
  /-- The tag whose COUNT it waits for; none once that was 0 or where there is none (R81). -/
  trig : Option Nat
  started : Bool
  /-- Operations that must complete first: those it covers (R84, R88), those it must follow in its engine. -/
  covers : List Nat
  /-- A covered operation was cancelled: the stamp or arrival is never made (R84). -/
  barred : Bool
  /-- Accesses that must take effect before the releasing write it carries (13 R246). -/
  release : List Nat
  pieces : List Piece
  /-- Requests, deliveries and packets outstanding. -/
  waiting : List Nat
  status : Nat
  /-- It met a fault: what covers it is never made (R84). -/
  failed : Bool
  /-- Tiles that DV.WARM still waits for (02 R58). -/
  left : List Nat
  /-- Ranges of device memory that it has written without poison, by address and length, and granules into which it brought
  poison: a copy that overwrites a whole granule clears its poison (01 R36). -/
  wrote : List (Nat × Nat)
  soiled : List Nat
  deriving DecidableEq, Repr

/-- A delivery or an arrival on its way to a team (04 R88, R89). -/
structure Delivery where
  fn : Nat
  /-- The launch that made it, 0 for a peer's. -/
  entry : Nat
  handle : Word
  /-- Bytes at an offset, or an arrival at a barrier. -/
  data : Option (Nat × List Byte × List Bool)
  bar : Nat
  /-- The operation that waits for it, here or at a peer. -/
  ret : Ret
  /-- The bytes that have landed, by offset (04 R90: a receiver sees old or new, byte by byte). -/
  part : List Nat
  deriving DecidableEq, Repr

/-! ## Derivation records (02) -/

/-- A captured page of a tensor (02 R43): virtual base, frame, log2 of its size, and the address of its leaf entry. -/
structure PageMap where
  va : Nat
  pa : Nat
  log : Nat
  pte : Nat
  deriving DecidableEq, Repr

/-- A derivation record as registered (02 R38 to R46): its 64 bytes as a number, owner, and the captured pages of the
first base, the second base, the derived tensor and the scale codes. -/
structure Deriv where
  handle : Nat
  fn : Nat
  ctx : Nat
  img : Nat
  pagesA : List PageMap
  pagesB : List PageMap
  pagesD : List PageMap
  pagesS : List PageMap
  deriving DecidableEq, Repr

/-! ## Divergence (06 R107, R114; 10 R180 to R187) -/

/-- A direction that is not running: its PC, lane mask, EXEC, FMT, FSTAT, and the call-table entry of its class. -/
structure Pend where
  pc : DWord
  mask : Lanes
  exec : Lanes
  fmt : BitVec 6
  fstat : BitVec 7
  entry : DWord
  /-- The branch that pushed it, named by a failing fetch of its first word (10 R178). -/
  branch : Option DWord
  deriving DecidableEq, Repr

/-- A serial split of an arm: its join, the FMT at the split, directions still to run, and the lanes that have arrived
at the join. -/
structure Frame where
  join : DWord
  fmt : BitVec 6
  pend : List Pend
  arrMask : Lanes
  arrExec : Lanes
  arrFstat : BitVec 7
  deriving DecidableEq, Repr

/-- The top-level record of a divided slice: join and FMT (R114), and the lanes that wait at the join without an arm. -/
structure TopRec where
  join : DWord
  fmt : BitVec 6
  arrMask : Lanes
  arrExec : Lanes
  arrFstat : BitVec 7
  deriving DecidableEq, Repr

/-- What a path waits for. -/
inductive Wait where
  | none
  /-- At its innermost join (R181). -/
  | join
  /-- At a regang word naming slices, with the word's address (R183). -/
  | regang (names : Nat) (at_ : DWord)
  /-- SN.BAR or SN.BARW: until the phase of a barrier differs (04 R87). -/
  | barrier (b : Nat) (phase : Bool)
  /-- SN.MWAIT: destination, and the cycle of its timeout if it has one (04 R85). -/
  | monitor (dest : Nat) (until_ : Option Nat)
  /-- SY.SLEEP (10 R188). -/
  | sleep (until_ : Nat)
  /-- SY.TRAP waits to enter the handler (10 R191). -/
  | handler (bind : Bool) (arg : Word) (pc : DWord)
  /-- CL.SHTL waits for the partner's matching word (11 R224). -/
  | shtl (n : Nat) (dest : Option Nat) (active : Lanes) (latch : Nat)
  /-- DV.UNREG holds the group until tiles of a record have been VALID (02 R56). -/
  | derive (handle : Nat) (left : List Nat)
  /-- DV.REG holds the group until its earlier writes, and stores in flight to the pages of the derived tensor, have taken
  effect (02 R48, R55). -/
  | register (ids : List Nat)
  /-- Stopped for a save, for a fault, or by SY.BKPT. -/
  | stopped
  deriving DecidableEq, Repr

/-- A latch of the current chain (08 R146): one value for the group, or one for each lane. -/
inductive Latch where
  | none
  | uni (x : Word)
  | lanes (xs : SMap Word)
  deriving DecidableEq, Repr

/-- A table that a word reads from memory at issue: address, bytes gathered by offset, poisoned offsets, the loads that have
not returned, and whether a mesh flit brought poison (01 R35). -/
structure Gather where
  addr : DWord
  n : Nat
  data : SMap Byte
  bad : List Nat
  left : List Nat
  mesh : Bool
  deriving DecidableEq, Repr

/-- A path: one arm, or one arm over several undivided slices. -/
structure Path where
  grp : Nat
  pc : DWord
  mask : Lanes
  exec : Lanes
  fmt : BitVec 6
  fstat : BitVec 7
  /-- Serial splits, innermost first. -/
  frames : List Frame
  wait : Wait
  /-- The decoded chain being executed, the words left, and how many are done. -/
  chain : List Instr
  pos : Nat
  latches : List Latch
  /-- The address of the next word's chain was reached by a branch at this address (R178). -/
  branch : Option DWord
  /-- TRAPCODE, TRAPPC, TRAPARG, BIND and the in-handler mark (06 R115, 10 R191). -/
  trapCode : Word
  trapPc : DWord
  trapArg : Word
  bindAddr : DWord
  inHandler : Bool
  trapQ : Bool
  /-- The call-table entry of the CALLV class that brought the path to its PC (R187), 0 for none. -/
  entry : DWord
  /-- Accesses that must take effect before the path's later L and G accesses (acquires, 13 R246). -/
  acquires : List Nat
  /-- An acquire at team scope or wider stands before the path's later accesses: the core's load buffer is emptied before
  the next of them (13 R246, 03 R71). -/
  fresh : Bool
  /-- Accesses and operations that must take effect before the next word issues (fences, 13 R249). -/
  hold : List Nat
  /-- The word after the decoded chain: the live mask of its safe point, if its last word is one (08 R147). -/
  live : DWord
  /-- The live mask of the safe point that the path issued last, when it has issued nothing since (08 R147). -/
  safe : Option DWord
  /-- A failed answer of a page walk that the path's word waited for: page, write or fetch, DETAIL. -/
  refused : List (Nat × Nat)
  /-- Tables that the path's word reads at issue. -/
  tables : List Gather
  /-- Pages of its IC.LOCK's range that have been found to translate (10 R195). -/
  locking : Nat
  /-- The consecutive cycles through which it has been ready and has not issued (22 R341). -/
  waited : Nat
  /-- The first cycle in which it may issue its next chain: one chain a cycle (22 R341). -/
  nextChain : Nat
  deriving DecidableEq, Repr

/-! ## Groups, teams, launches -/

/-- A tag word (04 R77), and whether an operation of the batch was cancelled: a stamp or arrival that covers it is
never made (R84). -/
structure Tag where
  count : Nat
  stat : Nat
  barred : Bool
  deriving DecidableEq, Repr

/-- A group's monitor (04 R85): the armed line, and a pending wake. -/
structure Monitor where
  line : Option Target
  wake : Bool
  deriving DecidableEq, Repr

/-- A hold of SN.XF on the group's later accesses (14 R267): what must take effect first, and which paths wait. -/
structure XfHold where
  ids : List Nat
  dst : PathSet
  /-- The core's load buffer is to be emptied once more, before the group's next access that looks it up (03 R71, 13
  R249). -/
  fresh : Bool
  deriving DecidableEq, Repr

/-- A line of bytes: its number (address div its size), the bytes and their poison, and whether a mesh flit brought that
(01 R35). -/
structure Line where
  line : Nat
  bytes : List Byte
  bad : List Bool
  mesh : Bool
  deriving DecidableEq, Repr

/-- The fallback slot of a group (21 R330): the arm it serves, its line, with the line before it while a chain that
crosses into it is decoded, and whether the arm has issued a chain since the fill. -/
structure Fallback where
  arm : Nat
  lines : List Line
  used : Bool
  deriving DecidableEq, Repr

/-- A group (06 R108, R109). Vector register n of lane i stands at key 64n + i, lane predicate pn at key n. -/
structure Group where
  team : Nat
  idx : Nat
  core : Nat
  slot : Nat
  v : SMap Word
  p : SMap Lanes
  s : SMap Word
  q : BitVec 16
  k : SMap Tag
  f : SMap DWord
  abase : Nat
  alimit : Nat
  exited : Lanes
  keys : SMap Nat
  tops : SMap TopRec
  monitor : Monitor
  clk : DWord
  /-- CL.SHTL words issued, and the values supplied, at key 64n + lane (11 R224). -/
  shtlCount : Nat
  shtl : SMap Word
  /-- State words that carry poison, by key: 64n + lane for vn, 65,536 + n for sn, 65,664 + n for pn, 65,760 for the word of
  q0 to q15, 65,768 + n for the word of tag n, 65,776 + n for fold register n, 65,784 and 65,785 for ABASE and ALIMIT, 2^20 + n
  for what path n always saves (23 R356, 01 R36). -/
  bad : List Nat
  /-- Flipped bits of vector registers, not yet corrected: key 64n + lane, bit (01 R10). -/
  flips : List (Nat × Nat)
  /-- Registers that an outstanding load or atomic, or a waiting SN.MWAIT, is to write, keyed as in `bad`, and its request
  or path: a later write of the register takes the entry away, so that writes take effect in issue order (06 R110, 14 R258,
  R269). -/
  due : List (Nat × Nat)
  /-- Bytes that a later word has written of registers which an outstanding load is to write: key, request, byte. What the
  load brings for them is dropped (06 R110). -/
  later : List (Nat × Nat × Nat)
  xf : List XfHold
  fallback : Option Fallback
  /-- Words not done: accumulated HALT. -/
  halted : Bool
  retired : Bool
  /-- The cycle in which a word of the group issued last, and the lowest lane of its path: within a cycle the paths issue
  in the order of their lowest lanes (06 R110). -/
  turn : Nat × Nat
  deriving DecidableEq, Repr

/-- A barrier (04 R87). `x`: a BAR.X has arrived in the phase being counted; `xids`: the accesses that the last flip's
fence orders before what the released groups do on M, L and G (13 R249); `bad`: its word carries poison (23 R356). -/
structure Barrier where
  expected : Nat
  arrived : Nat
  phase : Bool
  x : Bool
  xids : List Nat
  bad : Bool
  deriving DecidableEq, Repr

/-- Where a team is (22 R337 to R345): on its core, saved, or retired with its last group. -/
inductive Place where
  | resident | saved | ended
  deriving DecidableEq, Repr

/-- One side of a team: its scratchpad half and its accumulator (03 R68, R69). Accumulator word of row r, column c at
key 64r + c; checksum column of row r at key r; checksum row of granule g, column c at key 64g + c. -/
structure Side where
  spad : Memory
  spadBad : List Nat
  acc : SMap Word
  accCol : SMap Word
  accRow : SMap Word
  accBad : List Nat
  deriving DecidableEq, Repr

/-- A request to save a team (22 R344, R345): the cycle it was made, whether arms stop after their current chains, whether
its groups take a full save whatever their masks (10 R193), and whether the arms that waited when it was made are still to be
stopped where they wait. An arm that stopped where it waits counts as a safe point that keeps everything. -/
structure SaveReq where
  since : Nat
  bound : Bool
  full : Bool
  fresh : Bool
  deriving DecidableEq, Repr

/-- Where a team's granules begin on one core: its register, scratchpad and accumulator runs (03 R66). -/
structure Runs where
  regs : Nat
  spad : Nat
  acc : Nat
  deriving DecidableEq, Repr

/-- A team that has been placed at least once. -/
structure Team where
  entry : Nat
  x : Nat
  y : Nat
  z : Nat
  home : Nat
  slot : Nat
  gen : Nat
  core : Nat
  place : Place
  /-- Its granules on the core of each side. -/
  runs0 : Runs
  runs1 : Runs
  placedAt : Nat
  /-- Its place in the order of placements (22 R344). -/
  placedOrd : Nat
  pendSince : Nat
  side0 : Side
  side1 : Side
  bars : SMap Barrier
  resumes : Nat
  /-- Droops at the core of each side since team start (06 R115). -/
  droop0 : Nat
  droop1 : Nat
  save : Option SaveReq
  /-- Stopped by SY.BKPT until the host resumes it (10 R193). -/
  debug : Bool
  /-- SY.HALT was issued (10 R190). -/
  halted : Bool
  deriving DecidableEq, Repr

/-- The fields of a queue entry (22 R332). -/
structure EntryRec where
  ty : Nat
  prio : Nat
  coop : Bool
  twin : Bool
  gw : Nat
  regs : Nat
  image : Word
  wdog : Nat
  spad : Nat
  acc : Nat
  tdx : Nat
  tdy : Nat
  tdz : Nat
  gx : Nat
  gy : Nat
  gz : Nat
  w1val : DWord
  w1addr : DWord
  w0val : DWord
  w0addr : DWord
  csval : DWord
  csaddr : DWord
  argp : DWord
  trappc : DWord
  pc : DWord
  deriving DecidableEq, Repr

/-- A fault that reached the launch's fault unit (23 R350, R353). -/
structure FaultEv where
  code : Code
  precise : Bool
  addr : DWord
  pc : DWord
  lanes : Lanes
  detail : Word
  teamh : Word
  x : Nat
  y : Nat
  z : Nat
  core : Nat
  grpid : Nat
  /-- The word that met it: the cycle in which it issued and its path, 0 where no lane's access met it. Lanes of one word that
  take poison are one fault (R353). -/
  word : Nat × Nat
  deriving DecidableEq, Repr

/-- Progress of an entry (22 R334, R335): read, started, or faulted with its work draining. An entry that has ended is
no longer listed. -/
inductive Phase where
  | waiting | started | draining
  deriving DecidableEq, Repr

/-- A queue entry that the device has read. -/
structure Entry where
  fn : Nat
  q : Nat
  seq : Nat
  ctx : Nat
  body : EntryRec
  phase : Phase
  /-- Its place in the order in which launches started. -/
  order : Nat
  /-- Translations kept for the life of the entry (22 R333). -/
  csPa : Nat
  w0Pa : Nat
  w1Pa : Nat
  w0ok : Bool
  w1ok : Bool
  /-- Teams in grid order that have been placed at least once. -/
  placed : Nat
  retired : Nat
  /-- The watchdog's units left, cycles into the present unit, and whether it runs (22 R343). -/
  wdLeft : Nat
  wdPhase : Nat
  wdOn : Bool
  /-- Gang-key counters of the cores, 1 where none is listed (06 R107). -/
  keyCtr : SMap Nat
  faults : List FaultEv
  fault : Option FaultEv
  /-- The cycle in which the recorded fault reached the fault unit (23 R350). -/
  faultAt : Nat
  nfault : Nat
  pendSince : Nat
  deriving DecidableEq, Repr

/-! ## Cores, queues, functions -/

/-- A line of the instruction buffer (21 R327): context, virtual address div 256, words, the groups that lock it, order
of last use, and flipped bits (word, bit). No bytes: an uncorrectable word was met, and the line is fetched again. -/
structure CodeLine where
  ctx : Nat
  line : Nat
  bytes : List Byte
  bad : List Bool
  locks : List Nat
  age : Nat
  flips : List (Nat × Nat)
  deriving DecidableEq, Repr

/-- A slot of a handle table (04 R86). -/
structure HandleSlot where
  gen : Nat
  team : Option Nat
  deriving DecidableEq, Repr

/-- A core. -/
structure Core where
  /-- The load buffer, lines of 128 bytes (03 R71). -/
  loads : List Line
  code : List CodeLine
  handles : SMap HandleSlot
  droop : Nat
  corrected : Nat
  /-- Operations that the matrix engine has started, in order (18 R291). -/
  mxOrder : List Nat
  deriving DecidableEq, Repr

/-- A queue's registers (24 R368) and its last accepted tail (R369). -/
structure Queue where
  base : DWord
  log2n : Nat
  ctx : Nat
  enable : Bool
  head : Nat
  state : Nat
  status : Nat
  kerr : Bool
  fault : Nat
  tail : Nat
  /-- The 128 bytes of the head entry, once read, while a translation that its check needs is on its way: the device reads an
  entry once (22 R333). -/
  got : Option Nat
  /-- The first 64 bytes of the head entry, between the two steps in which it is read (01 R13). -/
  half : Option Nat
  deriving DecidableEq, Repr

/-- A function's registers (24 R364, R365) and its placement cursor (22 R338). -/
structure Fn where
  debug : Bool
  dbgPc : DWord
  dbgTeam : Word
  dbgValid : Bool
  dbgId : Nat
  errcnt : DWord
  apEnable : Bool
  apBase : DWord
  apCtx : Nat
  part : BitVec 128
  saveBase : DWord
  saveSize : DWord
  tslice : DWord
  mcgBase : DWord
  cursor : Nat
  /-- The step of a reset in progress, 0 for none, and the cycle in which it began (23 R359). -/
  reset : Nat
  resetAt : Nat
  priAlloc : Nat
  deriving DecidableEq, Repr

/-- A context descriptor (24 R366). -/
structure Ctx where
  pasid : BitVec 20
  pri : Bool
  svm : Bool
  fn : Nat
  v : Bool
  root : Nat
  deriving DecidableEq, Repr

/-! ## Translation (01 R24 to R30) -/

/-- What a leaf grants: target kind and frame of a page of 2^`log` bytes, permissions, kind; and where its entry stands,
by which DV.REG, DV.UNREG and a reset find what they must remove (R25). -/
structure Leaf where
  tgt : Nat
  peer : Nat
  frame : Nat
  log : Nat
  der : Bool
  dep : Bool
  cw : Bool
  w : Bool
  x : Bool
  pte : Nat
  deriving DecidableEq, Repr

/-- A cached translation: the core (0 to 255) or die (256 + die) that holds it, context, page base, leaf. -/
structure TlbEntry where
  unit : Nat
  ctx : Nat
  base : Nat
  leaf : Leaf
  deriving DecidableEq, Repr

/-- A walk in progress: core, context, page, and the path whose word waits; or an ATS or page request (R29, R30). -/
structure Walk where
  core : Nat
  ctx : Nat
  page : Nat
  arm : Nat
  /-- 0 a walk of the device's tables, 1 an ATS request, 2 a page request. -/
  kind : Nat
  deriving DecidableEq, Repr

/-- An instruction-line fill in progress (21 R328): core, context, line, the arm that misses, and its bytes. -/
structure Fill where
  core : Nat
  ctx : Nat
  line : Nat
  arm : Nat
  got : Gather
  deriving DecidableEq, Repr

/-! ## Derived tensors (02) -/

/-- State of a derived tile that is not STALE (02 R51). -/
inductive TileState where
  | valid | computing | computingStale | exclusive
  deriving DecidableEq, Repr

/-- A derived tile that is not STALE. -/
structure Tile where
  handle : Nat
  tile : Nat
  state : TileState
  deriving DecidableEq, Repr

/-- A recompute in progress (02 R50): its tile, whether a base tile's version has moved since the bases were read, the
tries, the function whose read started it (R61), and the held reads that a marking found waiting (R51). -/
structure Recompute where
  handle : Nat
  tile : Nat
  moved : Bool
  tries : Nat
  fn : Nat
  served : List Nat
  deriving DecidableEq, Repr

/-- An invalidation in progress (01 R28): what waits, kind (0 INVCMD, 1 ATS, 2 + n a reset of function n, R25), and the accesses it
waits for. -/
structure Inval where
  kind : Nat
  ids : List Nat
  deriving DecidableEq, Repr

/-- What the outside world does next. -/
abbrev Inbox := List Instr

/-- The mode of the module (24 R372, R375). -/
inductive Mode where
  | running
  | waitFirmware
  | powerOff
  deriving DecidableEq, Repr

/-! ## The state -/

/-- The module and its host memory. -/
structure State where
  mode : Mode
  cycle : Nat
  mem : Memory
  host : Memory
  /-- Poisoned granules of device memory, by base address (01 R36). -/
  bad : List Nat
  /-- Flipped bits of protected units, not yet corrected (01 R9, R10, R37). -/
  errs : List (ErrUnit × List Nat)
  /-- Corrected and uncorrectable errors counted by each slice, keyed by 32 × die + slice (01 R37). -/
  errCorrected : SMap Nat
  errUncorrected : SMap Nat
  scrubRate : Nat
  tlb : List TlbEntry
  walks : SMap Walk
  fills : SMap Fill
  reqs : SMap Req
  /-- The core that each sluice engine served last (04 R73), keyed by engine. -/
  turns : SMap Nat
  ops : SMap Op
  deliveries : SMap Delivery
  entries : SMap Entry
  teams : SMap Team
  groups : SMap Group
  paths : SMap Path
  cores : SMap Core
  queues : SMap Queue
  fns : SMap Fn
  contexts : SMap Ctx
  routes : SMap (BitVec 128)
  derivs : List Deriv
  tiles : List Tile
  recomputes : List Recompute
  /-- Packets that have left through a port (24 R370): the port is open, the packet is recorded. -/
  fabricOut : List (Nat × Packet)
  linksDown : List Nat
  peerid : Nat
  domsize : Nat
  vfrstBusy : BitVec 16
  vfrstDone : BitVec 16
  invaddr : DWord
  invcmd : DWord
  invals : List Inval
  preempt : DWord
  /-- The teams whose saves the last PREEMPT command waits for: BUSY while one of them has not been saved. -/
  preemptFor : List Nat
  sealaddr : DWord
  sealcmd : DWord
  sealtag : List Byte
  /-- The address of the bytes of a seal or check in progress, while BUSY is set (24 R373). -/
  sealJob : Option Nat
  attaddr : DWord
  stageaddr : DWord
  stagelen : DWord
  staged : Option (List Byte)
  image : List Byte
  measurement : List Byte
  ownerKeys : List (List Byte)
  powerLimit : Nat
  thermalStop : Bool
  withheld : Bool
  /-- The answer of the last host read or AtomicOp, and of the last PLDM attestation. -/
  hostReply : List Byte
  /-- The path whose word is being executed. The model's own field, log 2. -/
  cur : Option Nat
  /-- Choices already drawn. The model's own field, log 2. -/
  sched : List Nat
  /-- How many free values have been read. The model's own field, log 2. -/
  drawn : Nat
  /-- What the outside world does next, oldest first. The model's own field, log 2. -/
  inbox : Inbox
  /-- The next number for a request, operation, delivery, path, group, team or entry. The model's own field, log 2. -/
  nextId : Nat
  deriving DecidableEq, Repr

/-! ## Reset values -/

/-- A tag word at group start (06 R109). -/
def Tag.zero : Tag := ⟨0, 0, false⟩
/-- A barrier at team start (04 R87). -/
def Barrier.zero : Barrier := ⟨0, 0, false, false, [], false⟩
/-- A free handle slot, GEN 0 (DESIGN CHOICE, log 15). -/
def HandleSlot.free : HandleSlot := ⟨0, none⟩
/-- A core with nothing in it (DESIGN CHOICE, log 15). -/
def Core.zero : Core := ⟨[], [], [], 0, 0, []⟩
/-- A queue at reset: disabled (24 R368: ENABLE is 0), other registers 0 (DESIGN CHOICE, log 15). -/
def Queue.zero : Queue := ⟨0, 0, 0, false, 0, 3, 0, false, 0, 0, none, none⟩
/-- A function's registers at reset (24 R365: every field of +0x00 to +0x28 is 0; the rest DESIGN CHOICE, log 15). -/
def Fn.zero : Fn := ⟨false, 0, 0, false, 0, 0, false, 0, 0, 0, 0, 0, 0, 0, 0, 0, 0, 0⟩
/-- A context descriptor at reset (24 R366). -/
def Ctx.zero : Ctx := ⟨0, false, false, 0, false, 0⟩
/-- A team's side with no bytes written: unlisted bytes and rows read 0 (DESIGN CHOICE, logs 3 and 4). -/
def Side.zero : Side := ⟨[], [], [], [], [], []⟩

/-- The module right after reset, its firmware verified (24 R372; log 14). -/
def State.reset : State where
  mode := .running
  cycle := 0
  mem := []
  host := []
  bad := []
  errs := []
  errCorrected := []
  errUncorrected := []
  scrubRate := 0
  tlb := []
  walks := []
  fills := []
  reqs := []
  turns := []
  ops := []
  deliveries := []
  entries := []
  teams := []
  groups := []
  paths := []
  cores := []
  queues := []
  fns := []
  contexts := []
  routes := []
  derivs := []
  tiles := []
  recomputes := []
  fabricOut := []
  linksDown := []
  peerid := 0
  domsize := 0
  vfrstBusy := 0
  vfrstDone := 0
  invaddr := 0
  invcmd := 0
  invals := []
  preempt := 0
  preemptFor := []
  sealaddr := 0
  sealcmd := 0
  sealtag := List.replicate 32 0
  sealJob := none
  attaddr := 0
  stageaddr := 0
  stagelen := 0
  staged := none
  image := []
  measurement := shake256 [] 64
  ownerKeys := []
  powerLimit := 3600
  thermalStop := false
  withheld := false
  hostReply := []
  cur := none
  sched := []
  drawn := 0
  inbox := []
  nextId := 1

end Sys2Proof.Machine
end

