-- ==== Sys2Proof/Machine/Ops.lean ====
section
/-! DEFINITION. The named operations over tables, memory, registers and paths, and the one operation that takes an
exception with its return (10 R191, R192; 23 R347 to R350). -/
namespace Sys2Proof.Machine
open Sys2Proof

/-! ## Sparse tables -/

/-- What a key holds. -/
def SMap.find? {α : Type} : SMap α → Nat → Option α
  | [], _ => none
  | (k, v) :: m, n => if k = n then some v else SMap.find? m n

/-- A key's value, or a default. -/
def SMap.getD {α : Type} (m : SMap α) (n : Nat) (d : α) : α :=
  match SMap.find? m n with
  | some v => v
  | none => d

/-- The table with a key set. -/
def SMap.put {α : Type} : SMap α → Nat → α → SMap α
  | [], n, v => [(n, v)]
  | (k, u) :: m, n, v => if k = n then (n, v) :: m else if n < k then (n, v) :: (k, u) :: m else (k, u) :: SMap.put m n v

/-- The table without a key. -/
def SMap.del {α : Type} (m : SMap α) (n : Nat) : SMap α := m.filter (fun e => e.1 != n)

/-- The table with a key set, listing nothing that equals the default. -/
def SMap.set {α : Type} [DecidableEq α] (m : SMap α) (n : Nat) (v d : α) : SMap α :=
  if v = d then SMap.del m n else SMap.put m n v

/-- Keys strictly rising. -/
def SMap.rising {α : Type} : SMap α → Bool
  | [] => true
  | [_] => true
  | (k, _) :: (l, v) :: m => decide (k < l) && SMap.rising ((l, v) :: m)

/-- The table with one value changed, where the key is listed. -/
def SMap.mod {α : Type} (m : SMap α) (n : Nat) (f : α → α) : SMap α :=
  match SMap.find? m n with
  | some v => SMap.put m n (f v)
  | none => m

/-- The entries whose value meets a condition. -/
def SMap.where_ {α : Type} (m : SMap α) (p : Nat → α → Bool) : SMap α := m.filter (fun e => p e.1 e.2)

/-- A number put into a rising list of numbers, once. -/
def insertNat : List Nat → Nat → List Nat
  | [], n => [n]
  | k :: ks, n => if k = n then k :: ks else if n < k then n :: k :: ks else k :: insertNat ks n

/-! ## Memory, byte by byte -/

/-- What an address that no entry lists reads as (DESIGN CHOICE, log 3). -/
def Memory.unlisted : Byte := 0
/-- One byte. -/
def Memory.byte (m : Memory) (a : Nat) : Byte := SMap.getD m a Memory.unlisted
/-- The memory with one byte stored. -/
def Memory.store (m : Memory) (a : Nat) (b : Byte) : Memory := SMap.set m a b Memory.unlisted
/-- `n` bytes from an address. -/
def Memory.bytes (m : Memory) (a : Nat) : Nat → List Byte
  | 0 => []
  | n + 1 => Memory.byte m a :: Memory.bytes m (a + 1) n
/-- The memory with bytes stored from an address up. -/
def Memory.stores (m : Memory) (a : Nat) : List Byte → Memory
  | [] => m
  | b :: bs => Memory.stores (Memory.store m a b) (a + 1) bs
/-- The canonical form: addresses strictly rising, no entry equal to what an unlisted address reads as. -/
def Memory.wf (m : Memory) : Bool := SMap.rising m && m.all (fun c => c.2 != Memory.unlisted)

/-! ## Numbers -/

/-- Bit i of a lane mask. -/
def hasLane (m : Lanes) (i : Nat) : Bool := m.getLsbD i
/-- The mask of one lane. -/
def oneLane (i : Nat) : Lanes := BitVec.ofNat 64 (2 ^ i)
/-- Bits 0 to n − 1. -/
def lowLanes (n : Nat) : Lanes := BitVec.ofNat 64 (2 ^ n - 1)
/-- The four lanes of a slice (06 R106). -/
def sliceLanes (j : Nat) : Lanes := BitVec.ofNat 64 (15 * 2 ^ (4 * j))
/-- The lanes of a mask, lowest first, below `n`. -/
def lanesBelow (n : Nat) (m : Lanes) : List Nat := (List.range n).filter (hasLane m)
/-- The lowest lane of a mask, 64 when it is empty. -/
def lowestLane (m : Lanes) : Nat := ((List.range 64).find? (hasLane m)).getD 64
/-- Two words as a 64-bit value. -/
def pair (lo hi : Word) : DWord := hi ++ lo
/-- The low word. -/
def loWord (x : DWord) : Word := x.setWidth 32
/-- The high word. -/
def hiWord (x : DWord) : Word := (x >>> 32).setWidth 32
/-- A division that rounds up. -/
def ceilDiv (a b : Nat) : Nat := (a + b - 1) / b
/-- The number of a fault code (23 R347). -/
def Code.num : Code → Nat
  | .illegalInstruction => 1 | .illegalOperand => 2 | .latchInvalid => 3 | .registerRange => 4 | .misaligned => 5
  | .address => 6 | .derivedWrite => 7 | .cyclicDerivation => 8 | .accWindow => 9 | .accIntegrity => 10
  | .rejoinCycle => 11 | .foldInvalid => 12 | .recordInvalid => 13 | .poison => 14 | .watchdog => 15 | .bind => 16
  | .userTrap => 17 | .fabric => 18

/-! ## Group state -/

/-- Vector register n of a lane. -/
def Group.vreg (g : Group) (n lane : Nat) : Word := SMap.getD g.v (64 * n + lane) 0
/-- A key's register is written: the poison it carried, its flipped bits, and what an earlier load was to write there are
gone (01 R36: a whole granule is overwritten; 06 R110: the later write stays). -/
def Group.renew (g : Group) (k : Nat) : Group :=
  { g with
    bad := g.bad.filter (· ≠ k), flips := g.flips.filter (fun f => f.1 != k), due := g.due.filter (fun d => d.1 != k)
    later := g.later.filter (fun d => d.1 != k) }
/-- Vector register n of a lane written. -/
def Group.setV (g : Group) (n lane : Nat) (x : Word) : Group :=
  { g.renew (64 * n + lane) with v := SMap.set g.v (64 * n + lane) x 0 }
/-- A register with some of its bytes replaced: `n` bytes from byte k. -/
def putBytes (a : Word) (k n v : Nat) : Word :=
  let m := 2 ^ (8 * n)
  let o := 2 ^ (8 * k)
  BitVec.ofNat 32 (a.toNat - a.toNat / o % m * o + v % m * o)
/-- Vector register n of a lane holds new bytes; poison it carries stays (01 R36). -/
def Group.landV (g : Group) (n lane : Nat) (x : Word) : Group :=
  { g with v := SMap.set g.v (64 * n + lane) x 0, flips := g.flips.filter (fun f => f.1 != 64 * n + lane) }
/-- What outstanding loads bring for some bytes of a register is dropped when it comes (06 R110). -/
def Group.outrun (g : Group) (key b k : Nat) : Group :=
  { g with later := g.later ++ (g.due.filter (fun d => d.1 == key)).flatMap (fun d =>
      (List.range k).map (fun i => (key, d.2, b + i))) }
/-- A word writes `k` bytes from byte b of vector register n of a lane. -/
def Group.setVpart (g : Group) (n lane b k v : Nat) : Group :=
  (g.outrun (64 * n + lane) b k).landV n lane (putBytes (g.vreg n lane) b k v)
/-- The poison and the flipped bits of a key's register are gone: a word writes the whole of it, byte by byte (01 R36). -/
def Group.wipe (g : Group) (k : Nat) : Group :=
  { g with bad := g.bad.filter (· ≠ k), flips := g.flips.filter (fun f => f.1 != k) }
/-- Uniform register n. -/
def Group.sreg (g : Group) (n : Nat) : Word := SMap.getD g.s n 0
/-- Uniform register n written. -/
def Group.setS (g : Group) (n : Nat) (x : Word) : Group :=
  { g.renew (65536 + n) with s := SMap.set g.s n x 0 }
/-- A uniform pair. -/
def Group.spair (g : Group) (n : Nat) : DWord := pair (g.sreg n) (g.sreg (n + 1))
/-- A uniform pair written. -/
def Group.setSpair (g : Group) (n : Nat) (x : DWord) : Group := (g.setS n (loWord x)).setS (n + 1) (hiWord x)
/-- A vector pair of a lane. -/
def Group.vpair (g : Group) (n lane : Nat) : DWord := pair (g.vreg n lane) (g.vreg (n + 1) lane)
/-- A vector pair of a lane written. -/
def Group.setVpair (g : Group) (n lane : Nat) (x : DWord) : Group :=
  (g.setV n lane (loWord x)).setV (n + 1) lane (hiWord x)
/-- Lane predicate n, all lanes. -/
def Group.preds (g : Group) (n : Nat) : Lanes := SMap.getD g.p n 0
/-- Lane predicate n of the lanes of a mask written. -/
def Group.setPreds (g : Group) (n : Nat) (m x : Lanes) : Group :=
  { g with p := SMap.set g.p n ((g.preds n &&& ~~~ m) ||| (x &&& m)) 0 }
/-- Uniform predicate n. -/
def Group.qreg (g : Group) (n : Nat) : Bool := g.q.getLsbD n
/-- Uniform predicate n written. -/
def Group.setQ (g : Group) (n : Nat) (b : Bool) : Group :=
  { g with q := if b then g.q ||| BitVec.ofNat 16 (2 ^ n) else g.q &&& ~~~ (BitVec.ofNat 16 (2 ^ n)) }
/-- Tag word n. -/
def Group.tag (g : Group) (n : Nat) : Tag := SMap.getD g.k n Tag.zero
/-- Tag word n written. -/
def Group.setTag (g : Group) (n : Nat) (t : Tag) : Group := { g with k := SMap.set g.k n t Tag.zero }
/-- The 32 bits of a tag word (04 R77). -/
def Tag.word (t : Tag) : Word := BitVec.ofNat 32 (t.stat * 256 + t.count)
/-- Fold register n. -/
def Group.fold (g : Group) (n : Nat) : DWord := SMap.getD g.f n 0
/-- Fold register n written: the poison it carried is gone. -/
def Group.setFold (g : Group) (n : Nat) (x : DWord) : Group := { g.wipe (65776 + n) with f := SMap.set g.f n x 0 }
/-- The gang key of a slice (06 R107). -/
def Group.key (g : Group) (j : Nat) : Nat := SMap.getD g.keys j 0
/-- The gang key of a slice written. -/
def Group.setKey (g : Group) (j k : Nat) : Group := { g with keys := SMap.set g.keys j k 0 }

/-- Lanes of a group, from its launch record (22 R332). -/
def EntryRec.width (b : EntryRec) : Nat := 8 * 2 ^ b.gw
/-- Lanes of a team (22 R333). -/
def EntryRec.lanes (b : EntryRec) : Nat := b.tdx * b.tdy * b.tdz
/-- Groups of a team. -/
def EntryRec.groups (b : EntryRec) : Nat := b.lanes / b.width
/-- Scratchpad granules on each core (03 R65). -/
def EntryRec.spadg (b : EntryRec) : Nat := if b.twin then ceilDiv b.spad 32768 else ceilDiv b.spad 16384
/-- Bytes of one half of the scratchpad (03 R69). -/
def EntryRec.spadBytes (b : EntryRec) : Nat := b.spadg * 16384
/-- Accumulator rows on each core (06 R115). -/
def EntryRec.accRows (b : EntryRec) : Nat := 64 * b.acc
/-- Declared vector registers. -/
def EntryRec.zero : EntryRec := ⟨0, 0, false, false, 0, 0, 0, 0, 0, 0, 0, 0, 0, 0, 0, 0, 0, 0, 0, 0, 0, 0, 0, 0, 0⟩

/-- The handle of a team (04 R86). -/
def Team.handle (t : Team) : Word := BitVec.ofNat 32 (t.home * 2 ^ 21 + t.slot * 2 ^ 16 + t.gen)
/-- Side of the twin pair on which a group sits: even groups on side 0 (06 R106). -/
def Group.side (g : Group) (b : EntryRec) : Nat := if b.twin then g.idx % 2 else 0
/-- A side of a team. -/
def Team.side (t : Team) (n : Nat) : Side := if n = 0 then t.side0 else t.side1
/-- A side of a team written. -/
def Team.setSide (t : Team) (n : Nat) (x : Side) : Team := if n = 0 then { t with side0 := x } else { t with side1 := x }
/-- Barrier n. -/
def Team.bar (t : Team) (n : Nat) : Barrier := SMap.getD t.bars n Barrier.zero
/-- Barrier n written. -/
def Team.setBar (t : Team) (n : Nat) (b : Barrier) : Team := { t with bars := SMap.set t.bars n b Barrier.zero }

/-! ## Tables of the state -/

/-- The module runs: its firmware is verified and it has power (24 R372, R375). -/
def State.up (s : State) : Bool := s.mode == .running
/-- A core. -/
def State.core (s : State) (n : Nat) : Core := SMap.getD s.cores n Core.zero
/-- A core written. -/
def State.setCore (s : State) (n : Nat) (c : Core) : State := { s with cores := SMap.set s.cores n c Core.zero }
/-- A function. -/
def State.fn (s : State) (n : Nat) : Fn := SMap.getD s.fns n Fn.zero
/-- A function written. -/
def State.setFn (s : State) (n : Nat) (f : Fn) : State := { s with fns := SMap.set s.fns n f Fn.zero }
/-- Queue q of function n. -/
def State.queue (s : State) (n q : Nat) : Queue := SMap.getD s.queues (64 * n + q) Queue.zero
/-- Queue q of function n written. -/
def State.setQueue (s : State) (n q : Nat) (x : Queue) : State :=
  { s with queues := SMap.set s.queues (64 * n + q) x Queue.zero }
/-- A context descriptor. -/
def State.context (s : State) (n : Nat) : Ctx := SMap.getD s.contexts n Ctx.zero
/-- A group written. -/
def State.setGroup (s : State) (n : Nat) (g : Group) : State := { s with groups := SMap.put s.groups n g }
/-- A path written. -/
def State.setPath (s : State) (n : Nat) (p : Path) : State := { s with paths := SMap.put s.paths n p }
/-- A team written. -/
def State.setTeam (s : State) (n : Nat) (t : Team) : State := { s with teams := SMap.put s.teams n t }
/-- An entry written. -/
def State.setEntry (s : State) (n : Nat) (e : Entry) : State := { s with entries := SMap.put s.entries n e }
/-- A group changed. -/
def State.modGroup (s : State) (n : Nat) (f : Group → Group) : State := { s with groups := SMap.mod s.groups n f }
/-- A path changed. -/
def State.modPath (s : State) (n : Nat) (f : Path → Path) : State := { s with paths := SMap.mod s.paths n f }
/-- A team changed. -/
def State.modTeam (s : State) (n : Nat) (f : Team → Team) : State := { s with teams := SMap.mod s.teams n f }
/-- An entry changed. -/
def State.modEntry (s : State) (n : Nat) (f : Entry → Entry) : State := { s with entries := SMap.mod s.entries n f }
/-- An operation changed. -/
def State.modOp (s : State) (n : Nat) (f : Op → Op) : State := { s with ops := SMap.mod s.ops n f }
/-- A request added under the next number. -/
def State.addReq (s : State) (r : Req) : State :=
  { s with reqs := SMap.put s.reqs s.nextId { r with born := s.cycle }, nextId := s.nextId + 1 }
/-- An operation added under the next number. -/
def State.addOp (s : State) (o : Op) : State := { s with ops := SMap.put s.ops s.nextId o, nextId := s.nextId + 1 }
/-- The paths of a group, lowest number first. -/
def State.pathsOf (s : State) (g : Nat) : SMap Path := SMap.where_ s.paths (fun _ p => p.grp == g)
/-- The groups of a team. -/
def State.groupsOf (s : State) (t : Nat) : SMap Group := SMap.where_ s.groups (fun _ g => g.team == t)

/-! ## What a word sees -/

/-- The state with the path that executes a word: the path, its group, its team and its launch. -/
structure View where
  s : State
  pid : Nat
  p : Path
  g : Group
  t : Team
  e : Entry
  deriving DecidableEq, Repr

/-- The view of the path that `cur` names. -/
def State.view (s : State) : Option View :=
  match s.cur with
  | none => none
  | some pid =>
    match SMap.find? s.paths pid with
    | none => none
    | some p =>
      match SMap.find? s.groups p.grp with
      | none => none
      | some g =>
        match SMap.find? s.teams g.team with
        | none => none
        | some t =>
          match SMap.find? s.entries t.entry with
          | none => none
          | some e => some ⟨s, pid, p, g, t, e⟩

/-- The state of a view: its path and its group are written back. -/
def View.commit (x : View) : State := (x.s.setGroup x.p.grp x.g).setPath x.pid x.p

/-- A word's meaning on the selected path. -/
def onPath (s : State) (f : View → State) : Host.Outcome State Fault Refusal :=
  match s.view with
  | none => .fault .noPath
  | some x => .next (f x)

/-- Lanes of the group. -/
def View.w (x : View) : Nat := x.e.body.width
/-- Declared vector registers. -/
def View.regs (x : View) : Nat := x.e.body.regs
/-- The group's number. -/
def View.gid (x : View) : Nat := x.p.grp
/-- The team's number. -/
def View.tid (x : View) : Nat := x.g.team
/-- The launch's number. -/
def View.eid (x : View) : Nat := x.t.entry
/-- The side of the twin pair. -/
def View.side (x : View) : Nat := x.g.side x.e.body
/-- Lanes whose EXEC bit is set and that have not exited (06 R111). -/
def View.execLanes (x : View) : Lanes := x.p.exec &&& x.p.mask &&& ~~~ x.g.exited

/-- Lane predicate n written in the lanes of a mask: a write of every lane of the group takes away the poison it carried (01
R36). -/
def View.setPreds (x : View) (n : Nat) (m v : Lanes) : Group :=
  let g := x.g.setPreds n m v
  if lowLanes x.w &&& ~~~ m = 0 then g.wipe (65664 + n) else g

/-- The uniform part of a guard: a word whose uniform guard does not hold has no effect (08 R141). -/
def View.guardOn (x : View) : Guard → Bool
  | .uni n neg => x.g.qreg n.val != neg
  | _ => true
/-- The active lanes of a word (06 R111, 08 R141). -/
def View.active (x : View) : Guard → Lanes
  | .always => x.execLanes
  | .lane n neg => x.execLanes &&& (if neg then ~~~ x.g.preds n.val else x.g.preds n.val)
  | .uni n neg => if x.g.qreg n.val != neg then x.execLanes else 0

/-! ## Ending a word -/

/-- The address of the word after a word at `pc` (08 R147: past the live-mask word of a safe point). -/
def nextPc (pc : DWord) (q : Bool) : DWord := pc + (if q then 16 else 8)

/-- The path after a word that goes on in order: PC, latch, place in the chain, safe point. The call-table entry that brought
it to its PC stands for the word there alone (10 R191; DESIGN CHOICE, log 60). -/
def Path.retire (p : Path) (q : Bool) (l : Latch) : Path :=
  { p with
    pc := nextPc p.pc q
    chain := p.chain.tail
    pos := if p.chain.tail.isEmpty then 0 else p.pos + 1
    latches := if p.chain.tail.isEmpty then [] else p.latches ++ [l]
    branch := if p.chain.tail.isEmpty then none else p.branch
    entry := 0
    safe := if q then some p.live else none
    refused := []
    tables := []
    locking := 0 }

/-- The view after a word that goes on in order. -/
def View.retire (x : View) (q : Bool) (l : Latch) : View := { x with p := x.p.retire q l }

/-- The path after a transfer of control; the word was the last of its chain (10 R178). -/
def Path.jump (p : Path) (q : Bool) (target : DWord) : Path :=
  { p with pc := target, chain := [], pos := 0, latches := [], branch := some p.pc, entry := 0,
           safe := if q then some p.live else none, refused := [], tables := [], locking := 0 }

/-! ## Taking an exception -/

/-- A fault of the path's launch, as the fault record will name it (23 R348, R353). -/
def View.faultEv (x : View) (c : Code) (precise : Bool) (addr : DWord) (lanes : Lanes) (detail : Nat) : FaultEv :=
  { code := c, precise := precise, addr := addr, pc := x.p.pc, lanes := lanes, detail := BitVec.ofNat 32 detail,
    teamh := x.t.handle, x := x.t.x, y := x.t.y, z := x.t.z, core := x.g.core, grpid := x.g.idx, word := (x.s.cycle, x.pid) }

/-- A fault is recorded rather than another of its cycle: the lower CORENO, then the lower code (23 R350). -/
def FaultEv.first (f g : FaultEv) : Bool := decide (f.core < g.core) || (f.core == g.core && decide (f.code.num < g.code.num))
/-- Two poisoned accesses of lanes of one word: they are one fault, which names every lane that met it (23 R353). -/
def FaultEv.sameWord (f g : FaultEv) : Bool :=
  f.code == .poison && g.code == .poison && !f.precise && !g.precise && f.lanes != 0 && g.lanes != 0 && f.word == g.word &&
    f.pc == g.pc
/-- The fault of both: ADDR is the lowest lane's. -/
def FaultEv.join (f g : FaultEv) : FaultEv :=
  { (if lowestLane g.lanes < lowestLane f.lanes then g else f) with lanes := f.lanes ||| g.lanes }
/-- A fault reaches the launch's fault unit; once one is recorded, later ones are counted until the record is written; one of
the same cycle takes its place where it comes first (23 R350). -/
def Entry.takeFault (e : Entry) (cycle : Nat) (f : FaultEv) : Entry :=
  match e.fault with
  | none =>
    if e.faults.any (fun g => g.sameWord f) then
      { e with faults := e.faults.map (fun g => if g.sameWord f then g.join f else g) }
    else { e with faults := e.faults ++ [f] }
  | some g =>
    if g.sameWord f then { e with fault := some (g.join f) }
    else { e with
      nfault := min 255 (e.nfault + 1), fault := some (if e.faultAt = cycle ∧ f.first g then f else g) }

/-- A precise fault: the word has no effect in any lane, no later word of the path issues, and the fault reaches the
launch's fault unit (23 R348, R350). The state is the one before the word. -/
def View.raise (x : View) (c : Code) (addr : DWord) (lanes : Lanes) (detail : Nat) : State :=
  (x.s.modPath x.pid (fun p => { p with wait := .stopped, chain := [], latches := [], pos := 0, tables := [], locking := 0 })).modEntry x.eid
    (fun e => e.takeFault x.s.cycle (x.faultEv c true addr lanes detail))

/-- A handler code enters the launch's user trap handler (10 R191): the code, the word's address and the argument are
saved, the call-table entry of the path's class under BIND, and the whole path goes on at the handler's entry. BINDLO and BINDHI of a
user trap read 0, as 06 R115 says (10 R191's listing keeps the entry for either kind; DESIGN CHOICE, log 59). -/
def Path.enterHandler (p : Path) (bindKind : Bool) (arg : Word) (pc : DWord) (q : Bool) (handler : DWord) : Path :=
  { p with
    trapCode := if bindKind then 0x10 else 0x11
    trapPc := pc
    trapArg := arg
    bindAddr := if bindKind then p.entry else 0
    entry := 0
    inHandler := true
    trapQ := q
    pc := handler
    wait := .none
    chain := []
    latches := []
    pos := 0
    branch := some pc
    safe := if q then some p.live else none
    refused := []
    tables := []
    locking := 0 }

/-- The return from the handler (10 R192): the path goes on at `pc`, the mark is cleared, and the saved values read 0
again. -/
def Path.leaveHandler (p : Path) (q : Bool) (pc : DWord) : Path :=
  { (p.jump q pc) with
    trapCode := 0, trapPc := 0, trapArg := 0, bindAddr := 0, inHandler := false, trapQ := false }

/-- Another path of the group is in the handler (10 R191). -/
def View.handlerBusy (x : View) : Bool :=
  x.s.paths.any (fun e => e.2.grp == x.gid && e.1 != x.pid && e.2.inHandler)

/-- Taking an exception: a handler code enters the handler, waits for it or for the end of a save of its unit (23 R357), or
becomes a fatal fault with the same code (10 R191, 23 R347); every other code is a precise fault of the launch. -/
def View.takeTrap (x : View) (bindKind : Bool) (arg : Word) (q : Bool) : State :=
  let c : Code := if bindKind then .bind else .userTrap
  if x.e.body.trappc = 0 ∨ x.p.inHandler then x.raise c 0 0 arg.toNat
  else if x.handlerBusy ∨ x.t.save.isSome then
    { x with p := { x.p with wait := .handler bindKind arg x.p.pc, trapQ := q, pos := 0, latches := [] } }.commit
  else { x with p := x.p.enterHandler bindKind arg x.p.pc q x.e.body.trappc }.commit

end Sys2Proof.Machine
end

