-- ==== Sys2Proof/Machine/Flags.lean ====
section
/-! DEFINITION. Number formats, rounding, NaN selection and the sticky flags (07 R118 to R132): every flag computation.
A value is exact: a sign, a whole number and a power of two. -/
namespace Sys2Proof.Machine
open Sys2Proof

/-! ## FMT and FSTAT (06 R112, R113) -/

/-- FMT as fields. -/
structure FEnv where
  rm : Nat
  ftz : Bool
  satn : Bool
  f8k : Bool
  nanc : Bool
  deriving DecidableEq, Repr

/-- The fields of FMT. -/
def FEnv.of (x : BitVec 6) : FEnv :=
  ⟨(x.extractLsb' 0 2).toNat, x.getLsbD 2, x.getLsbD 3, x.getLsbD 4, x.getLsbD 5⟩
/-- Round to nearest even, subnormals kept, canonical NaNs: matrix work, reductions in memory (R133, 18 R303). -/
def FEnv.plain : FEnv := ⟨0, false, false, false, true⟩

/-- Round to nearest even, subnormals kept, a NaN's sign and fraction kept: an operation that ignores FMT and of which the spec
says no canonical NaN (18 R299; log 52). -/
def FEnv.noFmt : FEnv := ⟨0, false, false, false, false⟩

/-- Sticky flags. -/
abbrev FFlags := BitVec 7
/-- No flag. -/
def FFlags.none : FFlags := 0
/-- Invalid operation. -/
def FFlags.nv : FFlags := 1
/-- Division by zero. -/
def FFlags.dz : FFlags := 2
/-- Overflow. -/
def FFlags.of : FFlags := 4
/-- Underflow. -/
def FFlags.uf : FFlags := 8
/-- Inexact. -/
def FFlags.nx : FFlags := 16
/-- A conversion saturated. -/
def FFlags.satf : FFlags := 32
/-- A regang met paths whose FMT differed. -/
def FFlags.fmtx : FFlags := 64

/-! ## Formats (R118 to R120) -/

/-- A binary format: exponent bits, fraction bits, and whether it is E4M3 (no infinity, one NaN pattern a sign). -/
structure FFmt where
  eb : Nat
  fb : Nat
  e4m3 : Bool
  deriving DecidableEq, Repr

/-- FP64. -/
def FFmt.f64 : FFmt := ⟨11, 52, false⟩
/-- FP32. -/
def FFmt.f32 : FFmt := ⟨8, 23, false⟩
/-- FP16. -/
def FFmt.f16 : FFmt := ⟨5, 10, false⟩
/-- BF16. -/
def FFmt.bf16 : FFmt := ⟨8, 7, false⟩
/-- FP8 E4M3. -/
def FFmt.fE4m3 : FFmt := ⟨4, 3, true⟩
/-- FP8 E5M2. -/
def FFmt.fE5m2 : FFmt := ⟨5, 2, false⟩

/-- The bias. -/
def FFmt.bias (f : FFmt) : Nat := 2 ^ (f.eb - 1) - 1
/-- The weight of the smallest subnormal, as a power of two. -/
def FFmt.qmin (f : FFmt) : Int := 1 - (f.bias : Int) - f.fb
/-- The exponent of the smallest normal value. -/
def FFmt.emin (f : FFmt) : Int := 1 - (f.bias : Int)
/-- The sign bit's weight. -/
def FFmt.signBit (f : FFmt) : Nat := 2 ^ (f.eb + f.fb)
/-- The pattern of +∞, or for E4M3 of the NaN that stands above every finite value. -/
def FFmt.infBits (f : FFmt) : Nat := if f.e4m3 then 0x7F else (2 ^ f.eb - 1) * 2 ^ f.fb
/-- The largest finite pattern. -/
def FFmt.maxBits (f : FFmt) : Nat := f.infBits - 1
/-- The canonical NaN. -/
def FFmt.nanBits (f : FFmt) : Nat := if f.e4m3 then 0x7F else f.infBits + 2 ^ (f.fb - 1)
/-- A sign put on a pattern. -/
def FFmt.sign (f : FFmt) (s : Bool) (b : Nat) : Nat := if s then f.signBit + b else b

/-- A value: a NaN with its sign, its fraction aligned to 52 bits and its quiet bit; an infinity; or
(−1)^s × m × 2^e. -/
inductive FVal where
  | nan (s : Bool) (frac : Nat) (quiet : Bool)
  | inf (s : Bool)
  | num (s : Bool) (m : Nat) (e : Int)
  deriving DecidableEq, Repr

/-- The value of a pattern. -/
def FFmt.val (f : FFmt) (b : Nat) : FVal :=
  let s := b / f.signBit % 2 == 1
  let x := b / 2 ^ f.fb % 2 ^ f.eb
  let m := b % 2 ^ f.fb
  if f.e4m3 then
    if x = 15 ∧ m = 7 then .nan s (7 * 2 ^ 49) true
    else if x = 0 then .num s m f.qmin else .num s (8 + m) (f.qmin + (x - 1 : Nat))
  else if x = 2 ^ f.eb - 1 then
    if m = 0 then .inf s else .nan s (m * 2 ^ (52 - f.fb)) (m / 2 ^ (f.fb - 1) % 2 == 1)
  else if x = 0 then .num s m f.qmin else .num s (2 ^ f.fb + m) (f.qmin + (x - 1 : Nat))

/-- The value of a pattern as an operand: a subnormal reads as zero under FTZ (R127). -/
def FFmt.operand (f : FFmt) (v : FEnv) (b : Nat) : FVal :=
  match f.val b with
  | .num s m e => if v.ftz && decide (m < 2 ^ f.fb) then .num s 0 e else .num s m e
  | x => x

/-- A NaN as a result (R129). -/
def FFmt.nanResult (f : FFmt) (v : FEnv) (s : Bool) (frac : Nat) : Nat :=
  if v.nanc then f.nanBits
  else if f.e4m3 then f.sign s 0x7F
  else f.sign s (f.infBits + (frac / 2 ^ (52 - f.fb) ||| 2 ^ (f.fb - 1)))

/-- A result: the pattern and the flags. -/
abbrev FRes := Nat × FFlags

/-- The whole number nearest to m × 2^−k under a rounding mode, and whether it is exact (R125). -/
def roundShift (rm : Nat) (s : Bool) (m : Nat) (k : Int) : Nat × Bool :=
  if k ≤ 0 then (m * 2 ^ k.natAbs, true)
  else
    let d := 2 ^ k.natAbs
    let n := m / d
    let r := m % d
    let up :=
      if rm = 0 then decide (d < 2 * r) || (decide (d = 2 * r) && n % 2 == 1)
      else if rm = 1 then false
      else if rm = 2 then decide (r ≠ 0) && !s
      else decide (r ≠ 0) && s
    (if up then n + 1 else n, decide (r = 0))

/-- The result of an overflow (R126). -/
def FFmt.overflow (f : FFmt) (v : FEnv) (sat s : Bool) : FRes :=
  let toInf := v.rm == 0 || (v.rm == 2 && !s) || (v.rm == 3 && s)
  if !toInf then (f.sign s f.maxBits, .of ||| .nx)
  else if sat then (f.sign s f.maxBits, .of ||| .nx ||| .satf)
  else if f.e4m3 then (if v.nanc then 0x7F else f.sign s 0x7F, .of ||| .nx)
  else (f.sign s f.infBits, .of ||| .nx)

/-- An exact value rounded once (R125 to R127). `sat`: a narrowing conversion under SATN. -/
def FFmt.round (f : FFmt) (v : FEnv) (sat : Bool) (s : Bool) (m : Nat) (e : Int) : FRes :=
  if m = 0 then (f.sign s 0, .none)
  else
    let lead : Int := (Nat.log2 m : Int) + e
    let q := max (lead - f.fb) f.qmin
    let (n, exact) := roundShift v.rm s m (q - e)
    let b := (q - f.qmin).natAbs * 2 ^ f.fb + n
    if f.maxBits < b then f.overflow v sat s
    else
      let (nu, _) := roundShift v.rm s m (lead - f.fb - e)
      let tiny := decide (lead < f.emin) && !(decide (lead + 1 = f.emin) && decide (2 ^ (f.fb + 1) ≤ nu))
      if v.ftz && decide (0 < b) && decide (b < 2 ^ f.fb) then (f.sign s 0, .uf ||| .nx)
      else (f.sign s b, if exact then .none else if tiny then .uf ||| .nx else .nx)

/-- The first NaN among operands, in order, as the result; a signalling NaN anywhere sets NV (R129). -/
def FFmt.nanOf (f : FFmt) (v : FEnv) (xs : List FVal) : Option FRes :=
  let sig := xs.any (fun x => match x with | .nan _ _ q => !q | _ => false)
  let fl : FFlags := if sig then .nv else .none
  match xs.find? (fun x => match x with | .nan .. => true | _ => false) with
  | some (.nan s frac _) => some (f.nanResult v s frac, fl)
  | _ => none

/-- An invalid operation: NV and the canonical NaN (R129). -/
def FFmt.invalid (f : FFmt) : FRes := (f.nanBits, .nv)

/-- Two exact numbers added: a sum that is exactly zero has no sign of its own. -/
def addExact (s : Bool) (m : Nat) (e : Int) (t : Bool) (n : Nat) (d : Int) : Bool × Nat × Int :=
  let q := min e d
  let a := m * 2 ^ (e - q).natAbs
  let b := n * 2 ^ (d - q).natAbs
  if s = t then (s, a + b, q)
  else if b < a then (s, a - b, q) else (t, b - a, q)

/-- The sign of a sum that is exactly zero (R125). -/
def zeroSign (v : FEnv) (s t : Bool) : Bool := if s = t then s else v.rm == 3
/-- Two values added exactly; the sign of a zero sum follows the rounding mode; a NaN has no payload. -/
def exactAdd (v : FEnv) (x y : FVal) : FVal :=
  match x, y with
  | .nan .., _ => .nan false 0 true
  | _, .nan .. => .nan false 0 true
  | .inf s, .inf t => if s = t then .inf s else .nan false 0 true
  | .inf s, _ => .inf s
  | _, .inf t => .inf t
  | .num s m e, .num t n d =>
    let (r, k, q) := addExact s m e t n d
    .num (if k = 0 then zeroSign v s t else r) k q
/-- The same under rounding to nearest. -/
def exactSum (x y : FVal) : FVal := exactAdd .plain x y

/-- A sum of two values without NaNs, rounded once. -/
def FFmt.sum (f : FFmt) (v : FEnv) (x y : FVal) : FRes :=
  match x, y with
  | .inf s, .inf t => if s = t then (f.sign s f.infBits, .none) else f.invalid
  | .inf s, _ => (f.sign s f.infBits, .none)
  | _, .inf t => (f.sign t f.infBits, .none)
  | .num s m e, .num t n d =>
    let (r, k, q) := addExact s m e t n d
    if k = 0 then (f.sign (zeroSign v s t) 0, .none) else f.round v false r k q
  | _, _ => f.invalid

/-- A product of two values without NaNs: none where it is zero times infinity. -/
def FVal.times : FVal → FVal → Option FVal
  | .inf s, .inf t => some (.inf (s != t))
  | .inf s, .num t n _ => if n = 0 then none else some (.inf (s != t))
  | .num s m _, .inf t => if m = 0 then none else some (.inf (s != t))
  | .num s m e, .num t n d => some (.num (s != t) (m * n) (e + d))
  | _, _ => none

/-- A value as a result of the format. -/
def FFmt.ofVal (f : FFmt) (v : FEnv) (sat : Bool) : FVal → FRes
  | .nan s frac q => (f.nanResult v s frac, if q then .none else .nv)
  | .inf s =>
    if f.e4m3 then
      if sat then (f.sign s f.maxBits, .nv ||| .satf) else (if v.nanc then 0x7F else f.sign s 0x7F, .nv)
    else (f.sign s f.infBits, .none)
  | .num s m e => f.round v sat s m e

/-- The value negated. -/
def FVal.neg : FVal → FVal
  | .nan s fr q => .nan (!s) fr q
  | .inf s => .inf (!s)
  | .num s m e => .num (!s) m e

/-- a + b on patterns. -/
def FFmt.add (f : FFmt) (v : FEnv) (a b : Nat) : FRes :=
  let x := f.operand v a
  let y := f.operand v b
  match f.nanOf v [x, y] with
  | some r => r
  | none => f.sum v x y

/-- A pattern with its sign bit inverted. -/
def FFmt.flip (f : FFmt) (b : Nat) : Nat := if b / f.signBit % 2 = 1 then b - f.signBit else b + f.signBit

/-- a − b on patterns: the NaN is b's own (R129), so the sign is inverted in the sum only. -/
def FFmt.sub (f : FFmt) (v : FEnv) (a b : Nat) : FRes :=
  let x := f.operand v a
  let y := f.operand v b
  match f.nanOf v [x, y] with
  | some r => r
  | none => f.sum v x y.neg

/-- a × b on patterns. -/
def FFmt.mul (f : FFmt) (v : FEnv) (a b : Nat) : FRes :=
  let x := f.operand v a
  let y := f.operand v b
  match f.nanOf v [x, y] with
  | some r => r
  | none => match x.times y with
    | none => f.invalid
    | some z => f.ofVal v false z

/-- a × b + c on values, one rounding, into format `f` (R125, R129). -/
def FFmt.fmaVal (f : FFmt) (v : FEnv) (x y z : FVal) : FRes :=
  match f.nanOf v [x, y] with
  | some r => match z with
    | .nan _ _ q => (r.1, if q then r.2 else r.2 ||| .nv)
    | _ => r
  | none => match x.times y with
    | none => match f.nanOf v [z] with
      | some r => (r.1, r.2 ||| .nv)
      | none => f.invalid
    | some p => match f.nanOf v [z] with
      | some r => r
      | none => f.sum v p z

/-- a × b + c on patterns. -/
def FFmt.fma (f : FFmt) (v : FEnv) (a b c : Nat) : FRes :=
  f.fmaVal v (f.operand v a) (f.operand v b) (f.operand v c)

/-- The order of values without NaNs, −0.0 below +0.0 (R130): x < y. -/
def FVal.below (x y : FVal) : Bool :=
  match x, y with
  | .inf s, .inf t => s && !t
  | .inf s, _ => s
  | _, .inf t => !t
  | .num s m e, .num t n d =>
    let q := min e d
    let a : Int := m * 2 ^ (e - q).natAbs
    let b : Int := n * 2 ^ (d - q).natAbs
    let i := if s then -a else a
    let j := if t then -b else b
    decide (i < j) || (decide (i = 0) && decide (j = 0) && s && !t)
  | _, _ => false

/-- The value is a zero. -/
def FVal.isZero : FVal → Bool
  | .num _ 0 _ => true
  | _ => false
/-- The value is a NaN. -/
def FVal.isNan : FVal → Bool
  | .nan .. => true
  | _ => false

/-- A reduction's value: a NaN is the format's canonical one, whatever NANC says (R136). -/
def FFmt.canonNan (f : FFmt) (a : Nat) : Nat := if (f.val a).isNan then f.nanBits else a

/-- MIN and MAX (R130): NaN under R129 when an operand is NaN; the operand itself otherwise, flushed under FTZ. -/
def FFmt.minMax (f : FFmt) (v : FEnv) (maxi : Bool) (a b : Nat) : FRes :=
  let x := f.operand v a
  let y := f.operand v b
  match f.nanOf v [x, y] with
  | some r => r
  | none =>
    let z := if maxi then (if x.below y then y else x) else (if y.below x then y else x)
    f.ofVal v false z

/-- MINN and MAXN (R130): the operand that is no NaN when exactly one is; NV only for a signalling NaN. -/
def FFmt.minMaxNum (f : FFmt) (v : FEnv) (maxi : Bool) (a b : Nat) : FRes :=
  let x := f.operand v a
  let y := f.operand v b
  let sig : FFlags := match f.nanOf v [x, y] with
    | some r => r.2
    | none => .none
  match x.isNan, y.isNan with
  | true, false => ((f.ofVal v false y).1, sig)
  | false, true => ((f.ofVal v false x).1, sig)
  | _, _ => f.minMax v maxi a b

/-! ## Conversions (R131, 11 R211) -/

/-- Float to float; `sat` where the conversion narrows and SATN is set. -/
def FFmt.convert (src dst : FFmt) (v : FEnv) (narrow : Bool) (a : Nat) : FRes :=
  dst.ofVal v (narrow && v.satn) (src.operand v a)

/-- A value to an integer of `n` bits, signed or not: saturated, NV and SATF when out of range; 0 and NV for a NaN. -/
def FVal.toInt (v : FEnv) (signed : Bool) (n : Nat) (x : FVal) : FRes :=
  let hi : Nat := if signed then 2 ^ (n - 1) - 1 else 2 ^ n - 1
  let lo : Nat := if signed then 2 ^ (n - 1) else 0
  match x with
  | .nan .. => (0, .nv)
  | .inf s => (if s then (if signed then 2 ^ (n - 1) else 0) else hi, .nv ||| .satf)
  | .num s m e =>
    let (k, exact) := roundShift v.rm s m (-e)
    let fl : FFlags := if exact then .none else .nx
    if s then
      if lo < k then (if signed then 2 ^ (n - 1) else 0, .nv ||| .satf)
      else ((2 ^ n - k) % 2 ^ n, fl)
    else if hi < k then (hi, .nv ||| .satf) else (k, fl)
/-- Float to an integer on patterns. -/
def FFmt.toInt (f : FFmt) (v : FEnv) (signed : Bool) (n : Nat) (a : Nat) : FRes := (f.operand v a).toInt v signed n

/-- An integer of `n` bits to float. -/
def FFmt.ofInt (f : FFmt) (v : FEnv) (narrow signed : Bool) (n : Nat) (a : Nat) : FRes :=
  let neg := signed && decide (2 ^ (n - 1) ≤ a)
  f.round v (narrow && v.satn) neg (if neg then 2 ^ n - a else a) 0

/-- An integer of `n` bits to one of `k` bits (R131, 11 R211 rows 20 to 23). -/
def intNarrow (v : FEnv) (signed : Bool) (n k : Nat) (a : Nat) : FRes :=
  if !v.satn then (a % 2 ^ k, .none)
  else if signed then
    if decide (2 ^ (n - 1) ≤ a) then
      if 2 ^ (k - 1) < 2 ^ n - a then (2 ^ (k - 1), .satf) else (a % 2 ^ k, .none)
    else if 2 ^ (k - 1) ≤ a then (2 ^ (k - 1) - 1, .satf) else (a, .none)
  else if 2 ^ k ≤ a then (2 ^ k - 1, .satf) else (a, .none)

/-- Stochastic rounding of an FP32 value (R128): `r` is bits [15:0] of the random operand. The neighbours are those of an
unbounded exponent range; a result below the normal range is flushed under FTZ (R127), and without it goes to the format's
subnormals by one more rounding to nearest even (DESIGN CHOICE, log 53). -/
def FFmt.stochastic (f : FFmt) (v : FEnv) (r : Nat) (x : FVal) : FRes :=
  match x with
  | .num s m e =>
    if m = 0 then (f.sign s 0, .none)
    else
      let q : Int := (Nat.log2 m : Int) + e - f.fb
      let d := 2 ^ (q - e).natAbs
      let n := if q ≤ e then m * d else m / d
      let rem := if q ≤ e then 0 else m % d
      let y := if rem ≠ 0 && decide (65536 ≤ rem * 65536 / d + r) then n + 1 else n
      let tiny := decide ((Nat.log2 y : Int) + q < f.emin)
      if v.ftz && tiny then (f.sign s 0, .uf ||| .nx)
      else
        let z := f.round { v with rm := 0 } v.satn s y q
        (z.1, if rem = 0 then z.2 else if tiny then z.2 ||| .uf ||| .nx else z.2 ||| .nx)
  | x => f.ofVal v v.satn x

/-! ## NQ4 (R122, R123) -/

/-- q(c) × 512 and its sign: the codebook's magnitudes are multiples of 2^−9. -/
def nqMag : Nat → Nat
  | 0 => 21 | 1 => 65 | 2 => 111 | 3 => 159 | 4 => 213 | 5 => 278 | 6 => 362 | _ => 512
/-- q(c) as an exact value: codes 8 to 15 positive in rising magnitude, codes 0 to 7 negative in falling magnitude. -/
def nqVal (c : Nat) : FVal :=
  if c < 8 then .num true (nqMag (7 - c)) (-9) else .num false (nqMag (c - 8)) (-9)
/-- The block scale bs = round_rne(S × s × 2^−8, FP32) (R123). -/
def blockScale (superscale : Nat) (s : Nat) : Nat :=
  match FFmt.f32.val superscale with
  | .nan .. => FFmt.f32.nanBits
  | .inf t => if s = 0 then FFmt.f32.nanBits else FFmt.f32.sign t FFmt.f32.infBits
  | .num t m e => (FFmt.f32.round .plain false t (m * s) (e - 8)).1
/-- The nearest codebook code of a magnitude |a| under a block scale, ties to the smaller magnitude; the sign from
the sign bit (02 R41, R124). `k` counts down from 7. -/
def nqNearest (m : Nat) (e : Int) (bm : Nat) (be : Int) : Nat → Nat
  | 0 => 0
  | k + 1 =>
    -- code k + 1 is nearer than code k when |a| > bs × (q(k) + q(k+1)) / 2
    let q := min e (be - 10)
    let a := m * 2 ^ (e - q).natAbs
    let b := bm * (nqMag k + nqMag (k + 1)) * 2 ^ (be - 10 - q).natAbs
    if b < a then k + 1 else nqNearest m e bm be k

end Sys2Proof.Machine
end

