-- ==== Sys2Proof/Machine/Operands.lean ====
section
/-! DEFINITION. Every operand form (08 R142, R143, R146; 10 R170, R171; 06 R115): what a source supplies. -/
namespace Sys2Proof.Machine
open Sys2Proof

/-! ## Constants (R142, R143) -/

/-- Codes 0x1E0 to 0x1FF in FP64. -/
def fltF64 : List Nat :=
  [0x0000000000000000, 0x8000000000000000, 0x3FF0000000000000, 0xBFF0000000000000,
   0x4000000000000000, 0xC000000000000000, 0x3FE0000000000000, 0xBFE0000000000000,
   0x4010000000000000, 0x3FD0000000000000, 0x4020000000000000, 0x3FC0000000000000,
   0x4008000000000000, 0x4024000000000000, 0x3FB999999999999A, 0x3FF8000000000000,
   0x400921FB54442D18, 0x3FF921FB54442D18, 0x401921FB54442D18, 0x3FD45F306DC9C883,
   0x4005BF0A8B145769, 0x3FE62E42FEFA39EF, 0x3FF71547652B82FE, 0x400A934F0979A371,
   0x3FF6A09E667F3BCD, 0x3FE6A09E667F3BCD, 0x7FF0000000000000, 0xFFF0000000000000,
   0x7FF8000000000000, 0x7FEFFFFFFFFFFFFF, 0x0010000000000000, 0x3CB0000000000000]
/-- Codes 0x1E0 to 0x1FF in FP32. -/
def fltF32 : List Nat :=
  [0x00000000, 0x80000000, 0x3F800000, 0xBF800000, 0x40000000, 0xC0000000, 0x3F000000, 0xBF000000,
   0x40800000, 0x3E800000, 0x41000000, 0x3E000000, 0x40400000, 0x41200000, 0x3DCCCCCD, 0x3FC00000,
   0x40490FDB, 0x3FC90FDB, 0x40C90FDB, 0x3EA2F983, 0x402DF854, 0x3F317218, 0x3FB8AA3B, 0x40549A78,
   0x3FB504F3, 0x3F3504F3, 0x7F800000, 0xFF800000, 0x7FC00000, 0x7F7FFFFF, 0x00800000, 0x34000000]
/-- Codes 0x1E0 to 0x1FF in FP16. -/
def fltF16 : List Nat :=
  [0x0000, 0x8000, 0x3C00, 0xBC00, 0x4000, 0xC000, 0x3800, 0xB800,
   0x4400, 0x3400, 0x4800, 0x3000, 0x4200, 0x4900, 0x2E66, 0x3E00,
   0x4248, 0x3E48, 0x4648, 0x3518, 0x4170, 0x398C, 0x3DC5, 0x42A5,
   0x3DA8, 0x39A8, 0x7C00, 0xFC00, 0x7E00, 0x7BFF, 0x0400, 0x1400]
/-- Codes 0x1E0 to 0x1FF in BF16. -/
def fltBf16 : List Nat :=
  [0x0000, 0x8000, 0x3F80, 0xBF80, 0x4000, 0xC000, 0x3F00, 0xBF00,
   0x4080, 0x3E80, 0x4100, 0x3E00, 0x4040, 0x4120, 0x3DCD, 0x3FC0,
   0x4049, 0x3FC9, 0x40C9, 0x3EA3, 0x402E, 0x3F31, 0x3FB9, 0x4055,
   0x3FB5, 0x3F35, 0x7F80, 0xFF80, 0x7FC0, 0x7F7F, 0x0080, 0x3C00]
/-- Codes 0x1E0 to 0x1FF in FP8 E4M3. -/
def fltE4m3 : List Nat :=
  [0x00, 0x80, 0x38, 0xB8, 0x40, 0xC0, 0x30, 0xB0,
   0x48, 0x28, 0x50, 0x20, 0x44, 0x52, 0x1D, 0x3C,
   0x45, 0x3D, 0x4D, 0x2A, 0x43, 0x33, 0x3C, 0x45,
   0x3B, 0x33, 0x7F, 0xFF, 0x7F, 0x7E, 0x08, 0x20]
/-- Codes 0x1E0 to 0x1FF in FP8 E5M2. -/
def fltE5m2 : List Nat :=
  [0x00, 0x80, 0x3C, 0xBC, 0x40, 0xC0, 0x38, 0xB8,
   0x44, 0x34, 0x48, 0x30, 0x42, 0x49, 0x2E, 0x3E,
   0x42, 0x3E, 0x46, 0x35, 0x41, 0x3A, 0x3E, 0x43,
   0x3E, 0x3A, 0x7C, 0xFC, 0x7E, 0x7B, 0x04, 0x34]
/-- The floating constants rounded to a format by RNE; E4M3 takes the NaN for ±∞ (R119). -/
def fltTable (f : FFmt) : List Nat :=
  if f = .f64 then fltF64
  else if f = .f16 then fltF16
  else if f = .bf16 then fltBf16
  else if f = .fE4m3 then fltE4m3
  else if f = .fE5m2 then fltE5m2
  else fltF32
/-- A floating constant in a position of a format. -/
def fltConst (f : FFmt) (n : Fin 32) : Nat := (fltTable f).getD n.val 0
/-- Code 0x1C0 + n is n − 32. -/
def negConst (n : Fin 32) (bits : Nat) : Nat := 2 ^ bits - (32 - n.val)

/-! ## Special registers (06 R115) -/

/-- The arms of the group that hold lanes of a slice. -/
def View.armsOf (x : View) (j : Nat) : SMap Path :=
  (SMap.put (x.s.pathsOf x.gid) x.pid x.p).filter (fun e => (e.2.mask &&& sliceLanes j) != 0)

/-- PATHID: 0 for the arm that holds the slice's lowest active lane, 1 for the other, 0 when undivided. With no lane of the
slice active in any arm, which R115 leaves open, the arm that holds lane 4j reads 0 and the other 1 (DESIGN CHOICE, log 50). -/
def View.pathid (x : View) (j : Nat) : Nat :=
  match SMap.find? x.g.tops j with
  | none => 0
  | some _ =>
    let low := lowestLane ((x.armsOf j).foldl (fun m e => m ||| e.2.exec) 0 &&& sliceLanes j &&& ~~~ x.g.exited)
    if hasLane x.p.exec low then 0 else if low = 64 ∧ hasLane x.p.mask (4 * j) then 0 else 1

/-- Stack entries of a frame: its pushed directions, or the one that has run. -/
def Frame.depth (f : Frame) : Nat := max 1 f.pend.length
/-- DEPTH: the stack entries of a slice. -/
def View.depth (x : View) (j : Nat) : Nat :=
  (x.armsOf j).foldl (fun n e => n + (e.2.frames.map Frame.depth).sum) 0

/-- A lane special register in lane i. -/
def View.laneSpecial (x : View) (i : Nat) : LaneSpecial → Word
  | .laneid => BitVec.ofNat 32 i
  | .sliceid => BitVec.ofNat 32 (i / 4)
  | .teamlane => BitVec.ofNat 32 (x.g.idx * x.w + i)
  | .gangkey => BitVec.ofNat 32 (x.g.key (i / 4))
  | .pathid => BitVec.ofNat 32 (x.pathid (i / 4))
  | .depth => BitVec.ofNat 32 (x.depth (i / 4))

/-- A special register that reads the same in every lane. CLKHI is the group's most recent sample (R116). -/
def View.uniSpecial (x : View) : UniSpecial → Word
  | .grpid => BitVec.ofNat 32 x.g.idx
  | .grpw => BitVec.ofNat 32 x.w
  | .ngrp => BitVec.ofNat 32 x.e.body.groups
  | .teamidX => BitVec.ofNat 32 x.t.x
  | .teamidY => BitVec.ofNat 32 x.t.y
  | .teamidZ => BitVec.ofNat 32 x.t.z
  | .griddimX => BitVec.ofNat 32 x.e.body.gx
  | .griddimY => BitVec.ofNat 32 x.e.body.gy
  | .griddimZ => BitVec.ofNat 32 x.e.body.gz
  | .teamdimX => BitVec.ofNat 32 x.e.body.tdx
  | .teamdimY => BitVec.ofNat 32 x.e.body.tdy
  | .teamdimZ => BitVec.ofNat 32 x.e.body.tdz
  | .teamh => x.t.handle
  | .pairside => BitVec.ofNat 32 x.side
  | .coreno => BitVec.ofNat 32 x.g.core
  | .dieno => BitVec.ofNat 32 (x.g.core / 64)
  | .slotno => BitVec.ofNat 32 x.g.slot
  | .execlo => loWord x.p.exec
  | .exechi => hiWord x.p.exec
  | .regcnt => BitVec.ofNat 32 x.regs
  | .spadsz => BitVec.ofNat 32 x.e.body.spadBytes
  | .accrows => BitVec.ofNat 32 x.e.body.accRows
  | .arglo => loWord x.e.body.argp
  | .arghi => hiWord x.e.body.argp
  | .launchno => BitVec.ofNat 32 x.e.seq
  | .prio => BitVec.ofNat 32 x.e.body.prio
  | .vfid => BitVec.ofNat 32 x.e.fn
  | .clklo => BitVec.ofNat 32 x.s.cycle
  | .clkhi => hiWord x.g.clk
  | .therm => (Config.therm x.g.core x.s.cycle).setWidth 32
  | .droopcnt => BitVec.ofNat 32 (min (2 ^ 32 - 1) (if x.g.core = x.t.core then x.t.droop0 else x.t.droop1))
  | .trapcode => x.p.trapCode
  | .trappclo => loWord x.p.trapPc
  | .trappchi => hiWord x.p.trapPc
  | .traparg => x.p.trapArg
  | .peerid => BitVec.ofNat 32 x.s.peerid
  | .domsize => BitVec.ofNat 32 x.s.domsize
  | .bindlo => loWord x.p.bindAddr
  | .bindhi => hiWord x.p.bindAddr
  | .wdog => BitVec.ofNat 32 (if x.e.body.wdog = 0 then 0 else max 1 x.e.wdLeft)
  | .stepping => Config.stepping
  | .resumes => BitVec.ofNat 32 x.t.resumes

/-! ## Sources -/

/-- A latch as a uniform source (R146). -/
def View.latchUni (x : View) (n : Nat) : Word :=
  match x.p.latches[n]? with
  | some (.uni a) => a
  | _ => 0
/-- A latch in a lane: 0 where the word was inactive. -/
def View.latchLane (x : View) (n i : Nat) : Word :=
  match x.p.latches[n]? with
  | some (.uni a) => a
  | some (.lanes xs) => SMap.getD xs i 0
  | _ => 0

/-- A uniform source of 32 bits in a position of a format; an integer position takes FP32's images. -/
def View.uniAs (x : View) (f : FFmt) : USrc → Word
  | .s n => x.g.sreg n.val
  | .t n => x.latchUni n.val
  | .k n => (x.g.tag n.val).word
  | .x r => x.uniSpecial r
  | .nat n => BitVec.ofNat 32 n.val
  | .neg n => BitVec.ofNat 32 (negConst n 32)
  | .flt n => BitVec.ofNat 32 (fltConst f n)
/-- A uniform source of 32 bits. -/
def View.uni (x : View) (a : USrc) : Word := x.uniAs .f32 a
/-- A lane source of 32 bits in a position of a format. -/
def View.laneAs (x : View) (f : FFmt) (a : Src) (i : Nat) : Word :=
  match a with
  | .v n => x.g.vreg n.val i
  | .l r => x.laneSpecial i r
  | .u (.t n) => x.latchLane n.val i
  | .u b => x.uniAs f b
/-- A lane source of 32 bits. -/
def View.lane (x : View) (a : Src) (i : Nat) : Word := x.laneAs .f32 a i

/-- A constant of a 64-bit position that holds no FP64 value (R142). -/
def USrc64.constInt : USrc64 → DWord
  | .s _ => 0
  | .nat n => BitVec.ofNat 64 n.val
  | .neg n => BitVec.ofNat 64 (negConst n 64)
  | .flt n => BitVec.ofNat 64 (fltConst .f32 n)
/-- A 64-bit uniform source. -/
def View.uni64 (x : View) (a : USrc64) : DWord :=
  match a with
  | .s n => x.g.spair (2 * n.val)
  | c => USrc64.constInt c
/-- A 64-bit lane source. -/
def View.lane64 (x : View) (a : Src64) (i : Nat) : DWord :=
  match a with
  | .v n => x.g.vpair (2 * n.val) i
  | .u b => x.uni64 b
/-- A 64-bit lane source that holds an FP64 value (R142). -/
def View.laneF64 (x : View) (a : Src64) (i : Nat) : DWord :=
  match a with
  | .u (.flt n) => BitVec.ofNat 64 (fltConst .f64 n)
  | b => x.lane64 b i
/-- A lane source of an entry whose position is 32 or 64 bits wide by its modifier, read as an integer pair. -/
def View.lanePair (x : View) (a : Src) (i : Nat) : DWord :=
  match a with
  | .v n => x.g.vpair n.val i
  | .l _ => 0
  | .u (.s n) => x.g.spair n.val
  | .u (.nat n) => BitVec.ofNat 64 n.val
  | .u (.neg n) => BitVec.ofNat 64 (negConst n 64)
  | .u (.flt n) => BitVec.ofNat 64 (fltConst .f32 n)
  | .u _ => 0
/-- The same, read as FP64. -/
def View.lanePairF64 (x : View) (a : Src) (i : Nat) : DWord :=
  match a with
  | .u (.flt n) => BitVec.ofNat 64 (fltConst .f64 n)
  | b => x.lanePair b i
/-- A uniform source whose position is a pair by the modifier. -/
def View.uniPair (x : View) (a : USrc) : DWord :=
  match a with
  | .s n => x.g.spair n.val
  | .nat n => BitVec.ofNat 64 n.val
  | .neg n => BitVec.ofNat 64 (negConst n 64)
  | .flt n => BitVec.ofNat 64 (fltConst .f32 n)
  | _ => 0
/-- The base of a lane access (14 R256). -/
def View.base (x : View) (a : Base) (i : Nat) : DWord :=
  match a with
  | .v n => x.g.vpair (2 * n.val) i
  | .s n => x.g.spair (2 * n.val)
/-- A lane's entry address under BR.CALLV (10 R187). -/
def View.callAddr (x : View) (a : CallSrc) (i : Nat) : DWord :=
  match a with
  | .v n => x.g.vpair (2 * n.val) i
  | .s n => x.g.spair (2 * n.val)
  | .nat n => BitVec.ofNat 64 n.val
  | .neg n => BitVec.ofNat 64 (negConst n 64)
/-- A DV operand (02 R54). -/
def View.int (x : View) (a : IntSrc) : Word :=
  match a with
  | .s n => x.g.sreg n.val
  | .nat n => BitVec.ofNat 32 n.val
  | .neg n => BitVec.ofNat 32 (negConst n 32)
/-- The address operand of DV.REG: a constant is sign-extended to 64 bits (02 R54, R55; 08 R142). -/
def View.intPair (x : View) (a : IntPair) : DWord :=
  match a with
  | .s n => x.g.spair (2 * n.val)
  | .nat n => BitVec.ofNat 64 n.val
  | .neg n => BitVec.ofNat 64 (negConst n 64)
/-- A predicate source, all lanes (10 R170). -/
def View.predLanes (x : View) (a : PSrc) : Lanes :=
  match a with
  | .p n => x.g.preds n.val
  | .q n => if x.g.qreg n.val then BitVec.allOnes 64 else 0
  | .no => 0
  | .yes => BitVec.allOnes 64
/-- A uniform predicate source. -/
def View.upred (x : View) (a : QSrc) : Bool :=
  match a with
  | .q n => x.g.qreg n.val
  | .no => false
  | .yes => true

/-! ## The counter's sample (06 R116) -/

/-- A uniform source is CLKLO. -/
def USrc.isClk : USrc → Bool
  | .x .clklo => true
  | _ => false
/-- A lane source is CLKLO. -/
def Src.isClk : Src → Bool
  | .u a => USrc.isClk a
  | _ => false
/-- A word that reads CLKLO samples the whole counter for its group; where it names CLKHI too, both are of that one sample (DESIGN
CHOICE, log 28). -/
def View.sample (x : View) (reads : Bool) : View :=
  if reads then { x with g := { x.g with clk := BitVec.ofNat 64 x.s.cycle } } else x

/-! ## Results -/

/-- The lanes of a mask, in rising order, changed one after another. -/
def Group.onLanes (g : Group) (w : Nat) (m : Lanes) (f : Group → Nat → Group) : Group := (lanesBelow w m).foldl f g

/-- A 32-bit result for each active lane, to the register named and to the latch (08 R146). -/
def View.putLanes (x : View) (d : Dest (Fin 256)) (m : Lanes) (q : Bool) (f : Nat → Word) : View :=
  let ls := lanesBelow x.w m
  let g := match d with
    | .reg n => ls.foldl (fun g i => g.setV n.val i (f i)) x.g
    | .latch => x.g
  let l := if x.p.chain.tail.isEmpty then Latch.none else .lanes (ls.map (fun i => (i, f i)))
  { x with g := g, p := x.p.retire q l }
/-- A 32-bit uniform result, to the register named and to the latch. -/
def View.putUni (x : View) (d : Dest (Fin 64)) (q : Bool) (a : Word) : View :=
  let g := match d with
    | .reg n => x.g.setS n.val a
    | .latch => x.g
  { x with g := g, p := x.p.retire q (.uni a) }
/-- A word without effect: a uniform guard does not hold, or no lane is active. Its latch holds 0. -/
def View.skip (x : View) (q : Bool) (kind : LatchKind) : View :=
  x.retire q (match kind with | .none => .none | .uni => .uni 0 | .lane => .lanes [])
/-- Sticky flags set in the path (R132). -/
def View.setFlags (x : View) (fl : FFlags) : View := { x with p := { x.p with fstat := x.p.fstat ||| fl } }

end Sys2Proof.Machine
end

