-- ==== Sys2Proof/Machine/Memory.lean ====
section
/-! DEFINITION. The physical address map, protected storage and poison, derived tiles as memory sees them, page tables
and TLBs, and the load buffer (01 R9 to R14, R22 to R37; 02 R43 to R48; 03 R71). -/
namespace Sys2Proof.Machine
open Sys2Proof

/-! ## The device physical address map (R11, R12) -/

/-- The three kinds of device memory. -/
inductive Tier where
  | near | window | far
  deriving DecidableEq, Repr

/-- First address of the host-coherent window. -/
def windowBase : Nat := 0x100000000000
/-- First address of far memory. -/
def farBase : Nat := 0x200000000000
/-- A physical address: its tier, die and die offset; none outside the ranges of R11. -/
def placeOf (pa : Nat) : Option (Tier × Nat × Nat) :=
  if pa < 0x600000000 then some (.near, pa / 0x180000000, pa % 0x180000000)
  else if windowBase ≤ pa ∧ pa < windowBase + 0x800000 then
    some (.window, (pa - windowBase) / 0x200000, (pa - windowBase) % 0x200000)
  else if farBase ≤ pa ∧ pa < farBase + 0x18000000000 then
    some (.far, (pa - farBase) / 0x6000000000, (pa - farBase) % 0x6000000000)
  else none
/-- The owning slice, 32 × die + slice (R12). -/
def sliceOf (pa : Nat) : Nat :=
  match placeOf pa with
  | some (_, d, o) => 32 * d + o / 256 % 32
  | none => 0
/-- A physical address in the coherent window. -/
def inWindow (pa : Nat) : Bool := decide (windowBase ≤ pa) && decide (pa < windowBase + 0x800000)

/-! ## Protected units and poison (R9, R10, R36) -/

/-- Bytes of a poison granule: 64 in far memory, 4 elsewhere (R36); that the coherent window, which R36 does not name, has
4-byte granules and protected words is the model's choice (DESIGN CHOICE, log 43). -/
def granuleSize (pa : Nat) : Nat := if farBase ≤ pa then 64 else 4
/-- The granule that holds an address. -/
def granuleOf (pa : Nat) : Nat := pa - pa % granuleSize pa
/-- The flipped bits of a unit. -/
def State.flips (s : State) (u : ErrUnit) : List Nat :=
  match s.errs.find? (fun e => e.1 == u) with
  | some e => e.2
  | none => []
/-- Distinct numbers of a list. -/
def distinct : List Nat → List Nat
  | [] => []
  | x :: xs => if xs.contains x then distinct xs else x :: distinct xs
/-- A far block's code corrects one 8-bit symbol and detects two; a 32-bit word's corrects one bit and detects two. -/
def ErrUnit.weight (u : ErrUnit) (bits : List Nat) : Nat :=
  match u with
  | .dev pa => if farBase ≤ pa then (distinct (bits.map (· / 8))).length else bits.length
  | _ => bits.length
/-- The unit holds an error that its code detects and does not correct. -/
def State.uncorrectable (s : State) (u : ErrUnit) : Bool := decide (2 ≤ ErrUnit.weight u (s.flips u))
/-- The unit's errors are gone. -/
def State.clearErr (s : State) (u : ErrUnit) : State := { s with errs := s.errs.filter (fun e => e.1 != u) }
/-- A byte of device memory is poisoned. -/
def State.badByte (s : State) (pa : Nat) : Bool :=
  s.bad.contains (granuleOf pa) || s.uncorrectable (.dev (granuleOf pa))
/-- Bytes of device memory, with their poison. -/
def State.devRead (s : State) (pa n : Nat) : List Byte × List Bool :=
  (s.mem.bytes pa n, (List.range n).map (fun i => s.badByte (pa + i)))
/-- The granules that a range touches. -/
def granules (pa n : Nat) : List Nat := distinct ((List.range n).map (fun i => granuleOf (pa + i)))
/-- What a write does to one granule: a bad byte poisons it, a whole overwrite clears it, a part of it leaves poison
and puts a corrected value back (R34, R36). -/
def State.touchGranule (s : State) (pa n : Nat) (bad : List Bool) (g : Nat) : State :=
  let z := granuleSize g
  let hit := (List.range n).any (fun i => bad.getD i false && decide (granuleOf (pa + i) = g))
  if hit then { s with bad := insertNat s.bad g }.clearErr (.dev g)
  else if pa ≤ g ∧ g + z ≤ pa + n then { s with bad := s.bad.filter (· ≠ g) }.clearErr (.dev g)
  else if s.uncorrectable (.dev g) then s
  else s.clearErr (.dev g)
/-- Bytes written to device memory. -/
def State.devWrite (s : State) (pa : Nat) (data : List Byte) (bad : List Bool) : State :=
  let s := (granules pa data.length).foldl (fun s g => s.touchGranule pa data.length bad g) s
  { s with mem := s.mem.stores pa data }
/-- No byte is bad. -/
def clean (n : Nat) : List Bool := List.replicate n false
/-- A number as bytes, low byte first. -/
def leBytes (n x : Nat) : List Byte := (List.range n).map (fun i => BitVec.ofNat 8 (x / 2 ^ (8 * i)))
/-- Bytes as a number, low byte first. -/
def leNat : List Byte → Nat
  | [] => 0
  | b :: bs => b.toNat + 256 * leNat bs

/-! ## Derivation records and their tiles (02 R38 to R48) -/

/-- Bits [lo + n − 1 : lo] of a record. -/
def recField (img lo n : Nat) : Nat := img / 2 ^ lo % 2 ^ n
/-- Bytes of an element of a format code, 0 for NQ4 and reserved codes (R39). -/
def fmtBytes (c : Nat) : Nat := [4, 2, 2, 1, 1, 4, 2, 1].getD c 0
/-- RULE. -/
def Deriv.rule (d : Deriv) : Nat := recField d.img 384 4
/-- ROWS. -/
def Deriv.rows (d : Deriv) : Nat := recField d.img 256 32
/-- COLS. -/
def Deriv.cols (d : Deriv) : Nat := recField d.img 288 32
/-- Bytes of a base element. -/
def Deriv.bsize (d : Deriv) : Nat := fmtBytes (recField d.img 392 4)
/-- Bytes of a derived element. -/
def Deriv.dsize (d : Deriv) : Nat := fmtBytes (recField d.img 396 4)
/-- BPITCH. -/
def Deriv.bpitch (d : Deriv) : Nat := recField d.img 320 32
/-- DPITCH. -/
def Deriv.dpitch (d : Deriv) : Nat := recField d.img 352 32
/-- BASEA. -/
def Deriv.baseA (d : Deriv) : Nat := recField d.img 0 64
/-- BASEB. -/
def Deriv.baseB (d : Deriv) : Nat := recField d.img 64 64
/-- DADDR. -/
def Deriv.daddr (d : Deriv) : Nat := recField d.img 128 64
/-- SADDR. -/
def Deriv.saddr (d : Deriv) : Nat := recField d.img 192 64
/-- RSUM and CSUM give a vector. -/
def Deriv.vector (d : Deriv) : Bool := d.rule == 2 || d.rule == 3
/-- Rows of the derived tensor. -/
def Deriv.drows (d : Deriv) : Nat := if d.rule = 0 ∨ d.rule = 4 then d.cols else d.rows
/-- Columns of the derived tensor. -/
def Deriv.dcols (d : Deriv) : Nat := if d.rule = 0 ∨ d.rule = 4 then d.rows else d.cols
/-- Elements of a derived vector. -/
def Deriv.vlen (d : Deriv) : Nat := if d.rule = 2 then d.rows else d.cols
/-- Columns of the tile grid (R44). -/
def Deriv.gridCols (d : Deriv) : Nat :=
  if d.vector then 1 else if d.rule = 5 then d.cols / 64 else ceilDiv d.dcols 32
/-- Rows of the tile grid. -/
def Deriv.gridRows (d : Deriv) : Nat := if d.vector then ceilDiv d.vlen 32 else ceilDiv d.drows 32
/-- Number of derived tiles. -/
def Deriv.tiles (d : Deriv) : Nat := d.gridRows * d.gridCols

/-- The physical address of a virtual one through captured pages (R43). -/
def paOf (ps : List PageMap) (va : Nat) : Option Nat :=
  (ps.find? (fun p => decide (p.va ≤ va) && decide (va < p.va + 2 ^ p.log))).map (fun p => p.pa + (va - p.va))
/-- The virtual addresses that captured pages give a physical one. -/
def vasOf (ps : List PageMap) (pa : Nat) : List Nat :=
  (ps.filter (fun p => decide (p.pa ≤ pa) && decide (pa < p.pa + 2 ^ p.log))).map (fun p => p.va + (pa - p.pa))
/-- A physical address lies in a captured page. -/
def inPages (ps : List PageMap) (pa : Nat) : Bool :=
  ps.any (fun p => decide (p.pa ≤ pa) && decide (pa < p.pa + 2 ^ p.log))

/-- The base tile that a byte of a base belongs to. -/
def Deriv.baseTile (d : Deriv) (base va : Nat) : Option (Nat × Nat) :=
  if va < base then none
  else
    let i := (va - base) / d.bpitch
    let j := (va - base) % d.bpitch / d.bsize
    if i < d.rows ∧ j < d.cols then some (i / 32, j / 32) else none
/-- The derived tile that depends on a base tile (R45). -/
def Deriv.dependent (d : Deriv) (t : Nat × Nat) : Nat :=
  if d.rule = 0 ∨ d.rule = 4 then t.2 * d.gridCols + t.1
  else if d.rule = 2 then t.1
  else if d.rule = 3 then t.2
  else if d.rule = 5 then t.1 * d.gridCols + t.2 / 2
  else t.1 * d.gridCols + t.2
/-- The derived tile that a byte of the derived tensor belongs to. -/
def Deriv.tileOfD (d : Deriv) (va : Nat) : Option Nat :=
  if va < d.daddr then none
  else
    let o := va - d.daddr
    if d.vector then (if o < d.vlen * d.dsize then some (o / d.dsize / 32) else none)
    else
      let r := o / d.dpitch
      let k := if d.rule = 5 then 2 * (o % d.dpitch) else o % d.dpitch / d.dsize
      if r < d.drows ∧ k < d.dcols then
        some (r / 32 * d.gridCols + k / (if d.rule = 5 then 64 else 32))
      else none
/-- The derived tile that a scale code belongs to. -/
def Deriv.tileOfS (d : Deriv) (va : Nat) : Option Nat :=
  if va < d.saddr ∨ d.rule ≠ 5 then none
  else
    let o := va - d.saddr
    let nb := d.cols / 64
    if o < d.rows * nb then some (o / nb / 32 * d.gridCols + o % nb) else none
/-- The bytes of a derived tile: virtual address and length of each run, with the pages that hold it (R44). -/
def Deriv.runs (d : Deriv) (t : Nat) : List (Nat × Nat) :=
  let c := t / d.gridCols
  let e := t % d.gridCols
  if d.vector then [(d.daddr + 32 * c * d.dsize, (min (32 * c + 32) d.vlen - 32 * c) * d.dsize)]
  else
    (List.range (min (32 * c + 32) d.drows - 32 * c)).map (fun r =>
      if d.rule = 5 then (d.daddr + (32 * c + r) * d.dpitch + 32 * e, 32)
      else (d.daddr + (32 * c + r) * d.dpitch + 32 * e * d.dsize, (min (32 * e + 32) d.dcols - 32 * e) * d.dsize))
/-- The scale codes of a derived tile. -/
def Deriv.scaleRuns (d : Deriv) (t : Nat) : List (Nat × Nat) :=
  if d.rule = 5 then
    let c := t / d.gridCols
    (List.range (min (32 * c + 32) d.rows - 32 * c)).map (fun r =>
      (d.saddr + (32 * c + r) * (d.cols / 64) + t % d.gridCols, 1))
  else []
/-- The physical runs of a derived tile and its scale codes. -/
def Deriv.physRuns (d : Deriv) (t : Nat) : List (Nat × Nat) :=
  (d.runs t).filterMap (fun r => (paOf d.pagesD r.1).map (fun a => (a, r.2))) ++
    (d.scaleRuns t).filterMap (fun r => (paOf d.pagesS r.1).map (fun a => (a, r.2)))

/-- A record and one of its tiles added once. -/
def addTile (l : List (Deriv × Nat)) (x : Deriv × Nat) : List (Deriv × Nat) :=
  if l.any (fun y => y.1.handle == x.1.handle && y.2 == x.2) then l else l ++ [x]
/-- The derived tiles that depend on base bytes in a physical range (R47). -/
def State.dependents (s : State) (pa n : Nat) : List (Deriv × Nat) :=
  s.derivs.foldl (fun l d => (List.range n).foldl (fun l k =>
    let ts := (vasOf d.pagesA (pa + k)).filterMap (d.baseTile d.baseA) ++
      (if d.baseB = 0 then [] else (vasOf d.pagesB (pa + k)).filterMap (d.baseTile d.baseB))
    ts.foldl (fun l t => addTile l (d, d.dependent t)) l) l) []
/-- The derived tiles that hold bytes of a physical range (R49). -/
def State.tilesAt (s : State) (pa n : Nat) : List (Deriv × Nat) :=
  s.derivs.foldl (fun l d => (List.range n).foldl (fun l k =>
    let ts := (vasOf d.pagesD (pa + k)).filterMap d.tileOfD ++ (vasOf d.pagesS (pa + k)).filterMap d.tileOfS
    ts.foldl (fun l t => addTile l (d, t)) l) l) []
/-- A physical address lies in a page that maps derived or scale-code bytes (R48). -/
def State.derivedFrame (s : State) (pa : Nat) : Bool :=
  s.derivs.any (fun d => inPages d.pagesD pa || inPages d.pagesS pa)

/-- The state of a tile, none when it is STALE. -/
def State.tileState (s : State) (h t : Nat) : Option TileState :=
  (s.tiles.find? (fun x => x.handle == h && x.tile == t)).map (·.state)
/-- The state of a tile set. -/
def State.setTile (s : State) (h t : Nat) (x : Option TileState) : State :=
  let r := s.tiles.filter (fun x => !(x.handle == h && x.tile == t))
  { s with tiles := match x with | some st => r ++ [⟨h, t, st⟩] | none => r }
/-- A recompute changed. -/
def State.modRecompute (s : State) (h t : Nat) (f : Recompute → Recompute) : State :=
  { s with recomputes := s.recomputes.map (fun r => if r.handle == h && r.tile == t then f r else r) }
/-- Reads that wait for a tile. -/
def State.heldReads (s : State) (h t : Nat) : List Nat :=
  (s.reqs.filter (fun e => e.2.value.isNone && match e.2.tgt, e.2.op with
    | .dev pa, .read n => (s.tilesAt pa n).any (fun x => x.1.handle == h && x.2 == t)
    | _, _ => false)).map (·.1)
/-- One tile is marked stale (R47, R51). -/
def State.markTile (s : State) (h t : Nat) : State :=
  match s.tileState h t with
  | none => s
  | some .valid => s.setTile h t none
  | some .computing =>
    let ids := s.heldReads h t
    (s.setTile h t (some .computingStale)).modRecompute h t (fun r => { r with moved := true, served := ids })
  | some .computingStale => s.modRecompute h t (fun r => { r with moved := true })
  | some .exclusive => s.modRecompute h t (fun r => { r with moved := true })
/-- A write to a range marks the tiles that depend on it, and every tile further down the chains (R47). -/
def State.markWrite : Nat → State → Nat → Nat → State
  | 0, s, _, _ => s
  | k + 1, s, pa, n =>
    (s.dependents pa n).foldl (fun s x =>
      (x.1.physRuns x.2).foldl (fun s r => State.markWrite k s r.1 r.2) (s.markTile x.1.handle x.2)) s
/-- A write takes effect at its owning slice: the tiles are marked first (R47). -/
def State.sliceStore (s : State) (pa : Nat) (data : List Byte) (bad : List Bool) : State :=
  (State.markWrite 5 s pa data.length).devWrite pa data bad
/-- A write by anything but a recompute leaves derived frames alone (R48): the state, and whether it was refused. -/
def State.guardedStore (s : State) (pa : Nat) (data : List Byte) (bad : List Bool) : State × Bool :=
  if s.derivedFrame pa then (s, true) else (s.sliceStore pa data bad, false)

/-! ## Page tables (R22 to R26, 24 R363) -/

/-- First address of a team's own scratchpad window (R23). -/
def spadOwn : Nat := 0x1FFFFFFFF800000
/-- First address of the twin partner's half (R23). -/
def spadPartner : Nat := 0x1FFFFFFFFC00000
/-- The function's share of the coherent window: the physical function has all of it (24 R362). -/
def inShare (fn pa : Nat) : Bool :=
  if fn = 0 then inWindow pa
  else decide (windowBase + 0x80000 * (fn - 1) ≤ pa) && decide (pa < windowBase + 0x80000 * fn)

/-- What a walk finds: the leaf, its page's virtual base, the address of its entry; or the DETAIL of ADDRESS. -/
inductive WalkResult where
  | found (leaf : Leaf) (base pte : Nat)
  | refused (detail : Nat)
  deriving DecidableEq, Repr

/-- Bits of an entry. -/
def pteBits (e lo n : Nat) : Nat := e / 2 ^ lo % 2 ^ n
/-- A bit of an entry. -/
def pteBit (e i : Nat) : Bool := e / 2 ^ i % 2 == 1
/-- Checks that every entry meets: V, reserved bits, TGT 3 (R25). -/
def pteBroken (e : Nat) : Bool := !pteBit e 0 || pteBits e 1 3 != 0 || pteBits e 48 2 != 0 || pteBits e 62 2 == 3
/-- A leaf of 2^log bytes for a virtual address (R24, R25, R26, R363). A page whose frame begins in one range of R11 and runs
past its end is refused whole, with DETAIL 1 (DESIGN CHOICE, log 61). -/
def pteLeaf (fn e va log pte : Nat) : WalkResult :=
  let tgt := pteBits e 62 2
  let peer := pteBits e 50 12
  let c64 := log == 12 && pteBit e 7
  let log := if c64 then 16 else log
  let raw := pteBits e 12 36 * 4096
  let frame := if c64 then raw / 65536 * 65536 else raw
  let der := pteBit e 11
  let dep := pteBit e 10
  let cw := pteBit e 9
  let win := tgt != 2 && inWindow frame
  let outside := tgt == 0 && match placeOf frame, placeOf (frame + 2 ^ log - 1) with
    | some (a, _), some (b, _) => a != b
    | _, _ => true
  if (c64 ∧ pteBits e 12 4 ≠ va / 4096 % 16) ∨ (¬ c64 ∧ raw % 2 ^ log ≠ 0) ∨ (peer ≠ 0 ∧ tgt ≠ 1) ∨ cw ≠ win ∨
      ((der ∨ dep) ∧ tgt ≠ 0) ∨ outside then .refused 1
  else if cw ∧ ¬ (inShare fn frame ∧ inShare fn (frame + 2 ^ log - 1)) then .refused 2
  else .found ⟨tgt, peer, frame, log, der, dep, cw, pteBit e 5, pteBit e 4, pte⟩ (va / 2 ^ log * 2 ^ log) pte
/-- The walk from a level's table down (R25): level l is indexed by bits [12 + 9l + 8 : 12 + 9l]. An entry that carries poison
is used as it stands (DESIGN CHOICE, log 62). -/
def walkFrom (m : Memory) (fn va : Nat) : Nat → Nat → WalkResult
  | 0, table =>
    let pte := table + 8 * (va / 4096 % 512)
    let e := leNat (m.bytes pte 8)
    if (placeOf pte).isNone || pteBroken e then .refused 1 else pteLeaf fn e va 12 pte
  | l + 1, table =>
    let pte := table + 8 * (va / 2 ^ (12 + 9 * (l + 1)) % 512)
    let e := leNat (m.bytes pte 8)
    if (placeOf pte).isNone || pteBroken e || pteBit e 7 then .refused 1
    else if pteBit e 8 then
      if 3 ≤ l + 1 then .refused 1 else pteLeaf fn e va (12 + 9 * (l + 1)) pte
    else if pteBits e 62 2 ≠ 0 ∨ pteBits e 50 12 ≠ 0 then .refused 1
    else walkFrom m fn va l (pteBits e 12 36 * 4096)
/-- The addresses of the entries that such a walk reads, in order. -/
def walkPath (m : Memory) (va : Nat) : Nat → Nat → List Nat
  | 0, table => [table + 8 * (va / 4096 % 512)]
  | l + 1, table =>
    let pte := table + 8 * (va / 2 ^ (12 + 9 * (l + 1)) % 512)
    let e := leNat (m.bytes pte 8)
    if (placeOf pte).isNone || pteBroken e || pteBit e 7 || pteBit e 8 || pteBits e 62 2 != 0 || pteBits e 50 12 != 0 then [pte]
    else pte :: walkPath m va l (pteBits e 12 36 * 4096)
/-- A walk of a context's tables; a context that is not valid has none (24 R366). -/
def State.walkTables (s : State) (ctx va : Nat) : WalkResult :=
  let c := s.context ctx
  if c.v then walkFrom s.mem c.fn va 4 (c.root * 4096) else .refused 1

/-! ## TLBs (R27, R28) -/

/-- The TLB of a die. -/
def dieTlb (core : Nat) : Nat := 256 + core / 64
/-- Entries that a TLB holds at most. -/
def tlbSize (unit : Nat) : Nat := if unit < 256 then 512 else 16384
/-- A translation held by a TLB. -/
def State.tlbFind (s : State) (unit ctx va : Nat) : Option Leaf :=
  (s.tlb.find? (fun e => e.unit == unit && e.ctx == ctx && e.base == va / 2 ^ e.leaf.log * 2 ^ e.leaf.log)).map (·.leaf)
/-- A free choice among n: the model draws the next number (log 2). -/
def State.draw (s : State) (n : Nat) : State × Nat :=
  ({ s with drawn := s.drawn + 1 }, Config.pick s.drawn % n)
/-- Room for one more entry: a full TLB drops one, which one is open (R25). -/
def State.tlbRoom (s : State) (unit : Nat) : State :=
  let mine := s.tlb.filter (fun e => e.unit == unit)
  if mine.length < tlbSize unit then s
  else
    let (s, k) := s.draw mine.length
    match mine[k]? with
    | some v => { s with tlb := s.tlb.filter (· ≠ v) }
    | none => s
/-- A translation put into a TLB. -/
def State.tlbFill (s : State) (unit ctx base : Nat) (leaf : Leaf) : State :=
  let s := { s with tlb := s.tlb.filter (fun e => !(e.unit == unit && e.ctx == ctx && e.base == base)) }
  let s := s.tlbRoom unit
  { s with tlb := s.tlb ++ [⟨unit, ctx, base, leaf⟩] }
/-- A translation put into a core's TLB and its die's. -/
def State.tlbFillBoth (s : State) (core ctx base : Nat) (leaf : Leaf) : State :=
  (s.tlbFill (dieTlb core) ctx base leaf).tlbFill core ctx base leaf
/-- Translations of a range of a context removed everywhere; ctx none covers every context. -/
def State.tlbDrop (s : State) (ctx lo hi : Nat) : State :=
  { s with tlb := s.tlb.filter (fun e => !(e.ctx == ctx && decide (e.base < hi) && decide (lo < e.base + 2 ^ e.leaf.log))) }

/-- Translations taken from page-table entries removed everywhere, whatever the context (R25). -/
def State.tlbDropPtes (s : State) (ptes : List Nat) : State := { s with tlb := s.tlb.filter (fun e => !ptes.contains e.leaf.pte) }

/-! ## What an access meets at issue (R22, R23, R25, R29) -/

/-- The kinds of access that a permission covers. -/
inductive AccessKind where
  | read | write | fetch
  deriving DecidableEq, Repr

/-- The answer of a translation. -/
inductive Translation where
  | hit (t : Target) (leaf : Option Leaf)
  | fault (detail : Nat)
  /-- Not in the TLBs: the access waits for a walk (0), or an ATS request (1). -/
  | miss (kind : Nat)
  deriving DecidableEq, Repr

/-- The target of an address in a page: a peer that is the package itself is device memory (24 R370). -/
def State.targetOf (s : State) (leaf : Leaf) (va : Nat) : Target :=
  let pa := leaf.frame + va % 2 ^ leaf.log
  if leaf.tgt = 2 then .host pa
  else if leaf.tgt = 1 ∧ leaf.peer ≠ s.peerid then .peer leaf.peer pa
  else .dev pa
/-- Permission (R25). -/
def permitted (leaf : Leaf) : AccessKind → Bool
  | .read => true
  | .write => leaf.w
  | .fetch => leaf.x
/-- A leaf in use: permission, then the peer's ranges. -/
def State.useLeaf (s : State) (leaf : Leaf) (va : Nat) (k : AccessKind) : Translation :=
  if !permitted leaf k then .fault 2
  else if leaf.tgt = 1 ∧ (placeOf (leaf.frame + va % 2 ^ leaf.log)).isNone then .fault 5
  else .hit (s.targetOf leaf va) (some leaf)
/-- The lower half of a context in shared-virtual mode (R29). -/
def State.isShared (s : State) (ctx va : Nat) : Bool := (s.context ctx).svm && decide (va < 2 ^ 56)
/-- A translation through the TLB of a core and of its die; an access of a team resolves its scratchpad windows. -/
def State.translate (s : State) (core ctx : Nat) (spad : Option (Nat × Nat × EntryRec)) (va : Nat) (k : AccessKind) :
    Translation :=
  if 2 ^ 57 ≤ va then .fault 0
  else if spadOwn ≤ va then
    match spad with
    | none => .fault 0
    | some (team, side, b) =>
      if k = .fetch then .fault 0
      else if va < spadPartner then
        (if va - spadOwn < b.spadBytes then .hit (.spad team side (va - spadOwn)) none else .fault 0)
      else if b.twin ∧ va - spadPartner < b.spadBytes then .hit (.spad team (1 - side) (va - spadPartner)) none
      else .fault 0
  else
    match s.tlbFind core ctx va with
    | some leaf => s.useLeaf leaf va k
    | none => match s.tlbFind (dieTlb core) ctx va with
      | some leaf => s.useLeaf leaf va k
      | none => .miss (if s.isShared ctx va then 1 else 0)
/-- A translation that the die's TLB gave is kept in the core's. -/
def State.tlbPromote (s : State) (core ctx va : Nat) : State :=
  if spadOwn ≤ va then s
  else match s.tlbFind core ctx va with
  | some _ => s
  | none => match s.tlbFind (dieTlb core) ctx va with
    | some leaf => s.tlbFill core ctx (va / 2 ^ leaf.log * 2 ^ leaf.log) leaf
    | none => s
/-- A miss joins the queue of its die; a full queue leaves the access at its core's TLB (R27). -/
def State.queueWalk (s : State) (core ctx va arm kind : Nat) : State :=
  let n := (s.walks.filter (fun e => e.2.core / 64 == core / 64)).length
  if 4096 ≤ n then s
  else { s with walks := SMap.put s.walks s.nextId ⟨core, ctx, va / 4096, arm, kind⟩, nextId := s.nextId + 1 }

/-! ## The load buffer (03 R71) -/

/-- A line held. -/
def Core.line (c : Core) (pa : Nat) : Option Line := c.loads.find? (fun l => l.line == pa / 128)
/-- Loads in flight from a core that must not fill any more. -/
def State.stopFills (s : State) (core : Nat) (p : Nat → Bool) : State :=
  { s with reqs := s.reqs.map (fun e => match e.2.tgt with
      | .dev pa => if e.2.src == core && e.2.value.isNone && p (pa / 128) then (e.1, { e.2 with noFill := true }) else e
      | _ => e) }
/-- The whole buffer of a core invalidated. -/
def State.dropLoads (s : State) (core : Nat) : State :=
  (s.setCore core { s.core core with loads := [] }).stopFills core (fun _ => true)
/-- The lines of a range invalidated. -/
def State.dropLines (s : State) (core pa n : Nat) : State :=
  let lo := pa / 128
  let hi := (pa + n - 1) / 128
  let c := s.core core
  (s.setCore core { c with loads := c.loads.filter (fun l => !(decide (lo ≤ l.line) && decide (l.line ≤ hi))) }).stopFills
    core (fun l => decide (lo ≤ l) && decide (l ≤ hi))
/-- A line filled with bytes read; a full buffer drops one that no load in progress uses, which one is open. -/
def State.fillLine (s : State) (core line : Nat) (bytes : List Byte × List Bool) : State :=
  let c := s.core core
  let keep := c.loads.filter (fun l => l.line != line)
  if keep.length < 1024 then s.setCore core { c with loads := keep ++ [⟨line, bytes.1, bytes.2, false⟩] }
  else
    let (s, k) := s.draw keep.length
    s.setCore core { c with loads := keep.eraseIdx k ++ [⟨line, bytes.1, bytes.2, false⟩] }

end Sys2Proof.Machine
end

