-- ==== Sys2Proof/Machine/Access.lean ====
section
/-! DEFINITION. Requests: the checks of a word at issue (14 R257), requests in flight and their steps at their owners
(01 R13 to R21), monitors (04 R85), recomputes that reads start (02 R49, R50). -/
namespace Sys2Proof.Machine
open Sys2Proof

/-! ## Work in flight -/

/-- A request, operation or delivery has taken effect. -/
def State.done (s : State) (id : Nat) : Bool :=
  (match SMap.find? s.reqs id with | some r => r.value.isSome | none => true) &&
    (SMap.find? s.ops id).isNone && (SMap.find? s.deliveries id).isNone
/-- Everything listed has taken effect. -/
def State.allDone (s : State) (ids : List Nat) : Bool := ids.all s.done
/-- Requests in flight that meet a condition. -/
def State.flying (s : State) (p : Req → Bool) : List Nat :=
  (s.reqs.filter (fun e => e.2.value.isNone && p e.2)).map (·.1)
/-- A request that an access of a path's lanes made: earlier in the path's program order (13 R242, R248). -/
def Req.ofPath (r : Req) (grp : Nat) (mask : Lanes) : Bool := r.grp == grp && (r.lanes &&& mask) != 0
/-- A request of paths L and G. -/
def Req.isLG (r : Req) : Bool := r.path == .l || r.path == .g
/-- A request that writes. -/
def Req.writes (r : Req) : Bool :=
  match r.op with
  | .read _ => false
  | .xrd c => c
  | _ => true
/-- A request that reads what stands at its target. -/
def Req.reads (r : Req) : Bool :=
  match r.op with
  | .write _ _ => false
  | _ => true
/-- What a release of a path covers (13 R246): its earlier accesses on L and G. A batch whose completion it has observed
has taken effect already. -/
def View.released (x : View) : List Nat := x.s.flying (fun r => r.isLG && r.ofPath x.gid x.p.mask)

/-! ## Scratchpad (03 R69) -/

/-- A side of a team. -/
def State.sideOf (s : State) (team side : Nat) : Side :=
  match SMap.find? s.teams team with
  | some t => t.side side
  | none => Side.zero
/-- Bytes of a scratchpad half, with their poison. -/
def State.spadRead (s : State) (team side off n : Nat) : List Byte × List Bool :=
  let d := s.sideOf team side
  (d.spad.bytes off n, (List.range n).map (fun i =>
    d.spadBad.contains ((off + i) / 4) || s.uncorrectable (.spad team side ((off + i) / 4))))
/-- One word of a scratchpad half after a write: its poison (R36). -/
def State.touchWord (s : State) (team side off n : Nat) (bad : List Bool) (k : Nat) : State :=
  let hit := (List.range n).any (fun i => bad.getD i false && decide ((off + i) / 4 = k))
  let whole := decide (off ≤ 4 * k) && decide (4 * k + 4 ≤ off + n)
  let u := ErrUnit.spad team side k
  let s' := s.modTeam team (fun t =>
    let d := t.side side
    t.setSide side { d with spadBad := if hit then insertNat d.spadBad k else if whole then d.spadBad.filter (· ≠ k) else d.spadBad })
  if hit || whole || !s.uncorrectable u then s'.clearErr u else s'
/-- Bytes written to a scratchpad half. -/
def State.spadWrite (s : State) (team side off : Nat) (data : List Byte) (bad : List Bool) : State :=
  let ws := distinct ((List.range data.length).map (fun i => (off + i) / 4))
  let s := ws.foldl (fun s k => s.touchWord team side off data.length bad k) s
  s.modTeam team (fun t => let d := t.side side; t.setSide side { d with spad := d.spad.stores off data })

/-! ## Monitors (04 R85) -/

/-- A write to a range of a target touches an armed line. -/
def touchesLine (line : Target) (t : Target) (n : Nat) : Bool :=
  match line, t with
  | .dev a, .dev b => decide (b < a + 128) && decide (a < b + n)
  | .spad u i a, .spad v j b => u == v && i == j && decide (b < a + 128) && decide (a < b + n)
  | _, _ => false
/-- The path that waits longest at MWAIT of a group. -/
def State.sleeper (s : State) (grp : Nat) : Option (Nat × Path) :=
  (s.pathsOf grp).find? (fun e => match e.2.wait with | .monitor _ _ => true | _ => false)
/-- The code of an MWAIT written to s[D], unless a later word has written that register (06 R110). -/
def Group.putCode (g : Group) (d pid : Nat) (code : Word) : Group :=
  if g.due.contains (65536 + d, pid) then g.setS d code else g
/-- MWAIT ends: its code goes to s[D]. -/
def State.endWait (s : State) (grp pid : Nat) (p : Path) (code : Word) : State :=
  match p.wait with
  | .monitor d _ => (s.modGroup grp (fun g => g.putCode d pid code)).setPath pid { p with wait := .none }
  | _ => s
/-- An arm has stopped, between chains (05 R103): after a safe point or in a wait, or under the bound at the end of a chain, or at
CL.SHTL, whose wait goes on after the save (11 R224). -/
def Path.stoppedFor (p : Path) (r : SaveReq) : Bool :=
  p.pos == 0 && (p.safe.isSome || (r.bound && match p.wait with
    | .derive _ _ => false
    | .register _ => false
    | _ => true))
/-- A path's MWAIT may end by a write or its timeout: its team is on its core, and the path has not stopped there for a save,
after which the word returns code 2 (04 R85; 14 R269, R277). -/
def State.mayWake (s : State) (p : Path) : Bool :=
  match SMap.find? s.groups p.grp with
  | none => true
  | some g => match SMap.find? s.teams g.team with
    | none => true
    | some t => t.place == .resident && match t.save with
      | none => true
      | some r => !p.stoppedFor r
/-- A write has taken effect: the monitors armed on it wake; a waiting MWAIT returns 0 and consumes the wake. -/
def State.wake (s : State) (t : Target) (n : Nat) : State :=
  s.groups.foldl (fun s e =>
    match e.2.monitor.line with
    | none => s
    | some l =>
      if touchesLine l t n then
        match s.sleeper e.1 with
        | some (pid, p) => if s.mayWake p then s.endWait e.1 pid p 0 else s
        | none => s.modGroup e.1 (fun g => { g with monitor := { g.monitor with wake := true } })
      else s) s

/-! ## Bytes at any owner -/

/-- Bytes at a target of this module or its host, with their poison. -/
def State.readAt (s : State) (t : Target) (n : Nat) : List Byte × List Bool :=
  match t with
  | .dev pa => s.devRead pa n
  | .spad team side off => s.spadRead team side off n
  | .host ha => (s.host.bytes ha n, clean n)
  | .peer _ _ => ([], [])
/-- Bytes written at a target of this module or its host, which wakes the monitors on them. Host memory keeps no poison: R36
gives it no granule, so poison written to a host page is dropped there (DESIGN CHOICE, log 44). -/
def State.writeAt (s : State) (t : Target) (data : List Byte) (bad : List Bool) : State :=
  let s := match t with
    | .dev pa => s.sliceStore pa data bad
    | .spad team side off => s.spadWrite team side off data bad
    | .host ha => { s with host := s.host.stores ha data }
    | .peer _ _ => s
  s.wake t data.length

/-- A word of a page-table entry written by the device in one step, which wakes the monitors on it (R24, R25; 02 R46; 04
R85). -/
def State.writePte (s : State) (pte e : Nat) : State := s.writeAt (.dev pte) (leBytes 8 e) (clean 8)

/-! ## Recomputes that a read starts (02 R49, R50) -/

/-- A tile's recompute starts for a function. -/
def State.startRecompute (s : State) (h t fn : Nat) : State :=
  let s := s.setTile h t (some .computing)
  { s with recomputes := s.recomputes ++ [⟨h, t, false, 0, fn, []⟩] }
/-- The tiles of a range that are not VALID. -/
def State.notValid (s : State) (pa n : Nat) : List (Deriv × Nat) :=
  (s.tilesAt pa n).filter (fun x => s.tileState x.1.handle x.2 != some .valid)
/-- Recomputes started for the STALE tiles of a range. -/
def State.startStale (s : State) (pa n fn : Nat) : State :=
  (s.notValid pa n).foldl (fun s x =>
    if (s.tileState x.1.handle x.2).isNone then s.startRecompute x.1.handle x.2 fn else s) s
/-- A range holds base bytes of a tile whose recompute holds writes (R50). -/
def State.writesHeld (s : State) (pa n : Nat) : Bool :=
  (s.dependents pa n).any (fun x => s.tileState x.1.handle x.2 == some .exclusive)

/-! ## Page-table entries that the device reads and writes (01 R24, R25; 02 R46, R48 to R50) -/

/-- The source number of the walker of page tables. -/
def walkPort : Nat := 1025
/-- The walker's atomic write of a bit of an entry, on its way. -/
def walkerReq (pte bit : Nat) (on : Bool) : Req :=
  { src := walkPort, arm := 0, served := 0, path := .h, fn := 0, entry := 0, team := 0, grp := 0, lanes := 0, named := 0, pc := 0,
    va := 0, ctx := 0
    op := .atomic (if on then .or else .and) true
      (if on then BitVec.ofNat 64 (2 ^ bit) else ~~~ (BitVec.ofNat 64 (2 ^ bit))) 0 0
    tgt := .dev pte, after := [], ret := .none, acquire := false, noFill := true, value := none, doneAt := 0, mesh := false,
    half := none, part := [], born := 0 }
/-- A write of the walker to an entry is on its way. -/
def State.walkerBusy (s : State) (pte : Nat) : Bool := s.reqs.any (fun r => r.2.src == walkPort && r.2.tgt == .dev pte)
/-- A bit of an entry set or cleared by an atomic write: an entry in a derived frame is left alone (02 R48), and so is one that
carries poison (01 R36); while an exclusive recompute holds writes there, the write waits as a request (02 R50). The walk goes
on with what it read (DESIGN CHOICE, log 63). -/
def State.setPteBit (s : State) (pte bit : Nat) (on : Bool) : State :=
  let (bs, bad) := s.devRead pte 8
  let e := leNat bs
  if s.derivedFrame pte ∨ bad.any (fun b => b) then s
  else if s.walkerBusy pte then s.addReq (walkerReq pte bit on)
  else if pteBit e bit = on then s
  else if s.writesHeld pte 8 then s.addReq (walkerReq pte bit on)
  else s.writePte pte (if on then e + 2 ^ bit else e - 2 ^ bit)
/-- The walker sets A with an atomic write to the leaf (R24, R25). -/
def State.setAccessed (s : State) (pte : Nat) : State := s.setPteBit pte 6 true
/-- The first entry that a walk reads in a derived tile which is not VALID: the walk is held there (02 R49). -/
def State.walkWaits (s : State) (ctx va : Nat) : Option Nat :=
  let c := s.context ctx
  if c.v then (walkPath s.mem va 4 (c.root * 4096)).find? (fun pte => !(s.notValid pte 8).isEmpty) else none
/-- A walk that is held starts the recomputes of the STALE tiles of its entry. -/
def State.startWalk (s : State) (pte ctx : Nat) : State := s.startStale pte 8 (s.context ctx).fn

/-! ## Atomics (01 R16 to R20, 14 R264) -/

/-- Signed order of two values of 4 or 8 bytes. -/
def atLess (wide signed : Bool) (a b : DWord) : Bool :=
  if wide then (if signed then a.slt b else a.ult b)
  else if signed then (loWord a).slt (loWord b) else (loWord a).ult (loWord b)
/-- What an atomic writes: none where it writes nothing. `x` is the data, `y` the compare value. -/
def atomicNew (op : AtOp) (wide : Bool) (old x y : DWord) (fmt : BitVec 6) : Option DWord :=
  let cut (a : DWord) : DWord := if wide then a else (loWord a).setWidth 64
  match op with
  | .add => some (cut (old + x))
  | .sub => some (cut (old - x))
  | .min => some (cut (if atLess wide true x old then x else old))
  | .max => some (cut (if atLess wide true old x then x else old))
  | .minu => some (cut (if atLess wide false x old then x else old))
  | .maxu => some (cut (if atLess wide false old x then x else old))
  | .and => some (cut (old &&& x))
  | .or => some (cut (old ||| x))
  | .xor => some (cut (old ^^^ x))
  | .xchg => some (cut x)
  | .cas => if cut old = cut y then some (cut x) else none
  | .fadd => some (BitVec.ofNat 64 (FFmt.f32.add (FEnv.of fmt) (loWord old).toNat (loWord x).toNat).1)

/-- A contribution's format. -/
def xFormat : XFmt → FFmt
  | .f32 => .f32
  | .f16 => .f16
  | .bf => .bf16
/-- The cell after a contribution (R19). -/
def cellAdd (cell : Nat) (f : FFmt) (x : Nat) : Nat :=
  let set (i : Nat) : Nat := if cell / 2 ^ i % 2 = 1 then cell else cell + 2 ^ i
  match f.val x with
  | .nan .. => set 511
  | .inf s => set (if s then 509 else 510)
  | .num s m e =>
    let v := m * 2 ^ (e + 149).natAbs
    let low := cell % 2 ^ 509
    cell - low + (if s then low + 2 ^ 509 - v % 2 ^ 509 else low + v) % 2 ^ 509
/-- A cell read to FP32 (R20): rounded to nearest even, never flushed. -/
def cellRead (cell : Nat) : Nat :=
  let nan := cell / 2 ^ 511 % 2 = 1
  let pinf := cell / 2 ^ 510 % 2 = 1
  let ninf := cell / 2 ^ 509 % 2 = 1
  let v := cell % 2 ^ 509
  if nan ∨ (pinf ∧ ninf) then 0x7FC00000
  else if pinf then 0x7F800000
  else if ninf then 0xFF800000
  else if v < 2 ^ 508 then (FFmt.f32.round .plain false false v (-149)).1
  else (FFmt.f32.round .plain false true (2 ^ 509 - v) (-149)).1

/-- What an atomic does at bytes read: the bytes to write, if any, and the answer. -/
def ReqOp.atomicStep (op : ReqOp) (old : List Byte) : Option (List Byte) × List Byte :=
  match op with
  | .atomic o wide x y fmt =>
    let n := if wide then 8 else 4
    ((atomicNew o wide (BitVec.ofNat 64 (leNat old)) x y fmt).map (fun v => leBytes n v.toNat), old)
  | .xadd f x => (some (leBytes 64 (cellAdd (leNat old) (xFormat f) (x.toNat % 2 ^ (if f = .f32 then 32 else 16)))), [])
  | .xrd c => (if c then some (leBytes 64 0) else none, leBytes 4 (cellRead (leNat old)))
  | _ => (none, [])
/-- Bytes that an atomic reads. -/
def ReqOp.width : ReqOp → Nat
  | .read n => n
  | .write d _ => d.length
  | .atomic _ wide _ _ _ => if wide then 8 else 4
  | .xadd _ _ => 64
  | .xrd _ => 64
  | .red ty d _ => if ty = .xc then 16 * d.length else d.length
  | .spad _ d _ => d.length
  | .arrive _ _ => 0

/-! ## Reductions (18 R303) -/

/-- Bytes of an element of a reduction, and of what it is added into. -/
def redSize : RedType → Nat × Nat
  | .f32 => (4, 4)
  | .bf16 => (2, 2)
  | .f16 => (2, 2)
  | .i32 => (4, 4)
  | .xc => (4, 64)
/-- One element added once, rounded to nearest even; integers wrap; a cell takes an exact contribution. -/
def redElem (ty : RedType) (old x : List Byte) : List Byte :=
  let a := leNat old
  let b := leNat x
  match ty with
  | .f32 => leBytes 4 (FFmt.f32.add .plain a b).1
  | .bf16 => leBytes 2 (FFmt.bf16.add .plain a b).1
  | .f16 => leBytes 2 (FFmt.f16.add .plain a b).1
  | .i32 => leBytes 4 ((a + b) % 2 ^ 32)
  | .xc => leBytes 64 (cellAdd a .f32 b)
/-- The bytes after a reduction and their poison: an element that meets poison keeps its bytes and is poisoned
(DEDUCED, log 20). -/
def redAll (ty : RedType) (old : List Byte) (obad : List Bool) (data : List Byte) (bad : List Bool) :
    List Byte × List Bool :=
  let (k, w) := redSize ty
  let parts := (List.range (data.length / k)).map (fun e =>
    let o := (old.drop (e * w)).take w
    let b := ((obad.drop (e * w)).take w).any (fun x => x) || ((bad.drop (e * k)).take k).any (fun x => x)
    (if b then o else redElem ty o ((data.drop (e * k)).take k), b))
  (parts.flatMap (·.1), parts.flatMap (fun p => List.replicate w p.2))

/-! ## Faults found after issue (23 R349) -/

/-- An imprecise fault of a request's launch: the record names the word that started it. -/
def State.lateFault (s : State) (entry team grp : Nat) (lanes : Lanes) (pc : DWord) (c : Code) (addr : DWord)
    (detail : Nat) (word : Nat × Nat := (0, 0)) : State :=
  let (h, x, y, z) := match SMap.find? s.teams team with
    | some t => (t.handle, t.x, t.y, t.z)
    | none => (0, 0, 0, 0)
  let (core, idx) := match SMap.find? s.groups grp with
    | some g => (g.core, g.idx)
    | none => (0, 0)
  s.modEntry entry (fun e => e.takeFault s.cycle
    { code := c, precise := false, addr := addr, pc := pc, lanes := lanes, detail := BitVec.ofNat 32 detail,
      teamh := h, x := x, y := y, z := z, core := core, grpid := idx, word := word })
/-- DETAIL of POISON by where the data came from (23 R354). -/
def poisonDetail : Target → Nat
  | .dev pa => if farBase ≤ pa then 0 else 1
  | .spad _ _ _ => 1
  | _ => 2
/-- ADDR of a fault that a request meets: the address of the whole table, where it reads a part of one (23 R353). -/
def Req.faultVa (r : Req) : DWord :=
  match r.ret with
  | .table _ _ off => r.va - BitVec.ofNat 64 off
  | _ => r.va
/-- A request's fault: an operation that waits for it has failed, and no release that covers it is made (13 R246, R255). -/
def State.reqFault (s : State) (id : Nat) (r : Req) (c : Code) (detail : Nat) : State :=
  let s := match r.ret with
    | .op o _ => s.modOp o (fun x => { x with failed := true })
    | _ => s
  let s := { s with ops := s.ops.map (fun (e : Nat × Op) =>
    if e.2.covers.contains id || e.2.release.contains id then (e.1, { e.2 with barred := true }) else e) }
  s.lateFault r.entry r.team r.grp r.named r.pc c r.faultVa detail (r.born, r.arm)

/-! ## The order of requests (R14) -/

/-- The owner that performs a request, as a number. -/
def ownerOf : Target → Nat
  | .dev pa => sliceOf pa
  | .host _ => 1000
  | .peer p _ => 2000 + p
  | .spad team side _ => 10000 + 2 * team + side
/-- The first source number of the sluice engines: the requests of core c carry this number plus c. -/
def engineBase : Nat := 16384
/-- A request that a sluice engine serves. -/
def Req.atEngine (r : Req) : Bool := decide (engineBase ≤ r.src)
/-- The source of a request in the sense of R14: the requests of eight cores leave through one sluice engine (04 R73). -/
def Req.source (r : Req) : Nat := if r.atEngine then engineBase + (r.src - engineBase) / 8 * 8 else r.src
/-- A request left its source before another of that source: as it was issued, or as its engine served it (04 R73). -/
def Req.ahead (id : Nat) (r : Req) (e : Nat × Req) : Bool :=
  if r.atEngine then e.2.served != 0 && (r.served == 0 || decide (e.2.served < r.served)) else decide (e.1 < id)
/-- An earlier request of the same source and path to the same owner has not taken effect. -/
def State.behind (s : State) (id : Nat) (r : Req) : Bool :=
  s.reqs.any (fun e => r.ahead id e && e.2.source == r.source && e.2.path == r.path && e.2.value.isNone &&
    ownerOf e.2.tgt == ownerOf r.tgt)
/-- A request may take effect now. -/
def State.mayPerform (s : State) (id : Nat) (r : Req) : Bool :=
  r.value.isNone && (!r.atEngine || r.served != 0) && s.allDone r.after && !s.behind id r
/-- A packet leaves through a port of its route whose link is up; which one is open, and changes timing only (24 R370). The
answer is none, or the DETAIL of FABRIC: the peer has no route, or every link of the route is down and the packet is
discarded at one of its ports. -/
def State.sendPacket (s : State) (k : Packet) : State × Option Nat :=
  let route := SMap.getD s.routes k.dst 0
  let ports := (List.range 128).filter (fun i => route.getLsbD i)
  let up := ports.filter (fun i => !s.linksDown.contains i)
  if ports.isEmpty then (s, some 0x7F)
  else if up.isEmpty then
    let (s, i) := s.draw ports.length
    (s, some (ports.getD i 0))
  else
    let (s, i) := s.draw up.length
    ({ s with fabricOut := s.fabricOut ++ [(up.getD i 0, k)] }, none)
/-- The answer to a peer's operation. -/
def State.reply (s : State) (p n fn : Nat) (data : List Byte) (bad : List Bool) : State :=
  (s.sendPacket ⟨s.peerid, p, fn, n, .reply data, bad⟩).1
/-- A request's answer put beside it; a peer's is sent to the peer. -/
def State.answer (s : State) (id : Nat) (r : Req) (data : List Byte) (bad : List Bool) : State :=
  match r.ret with
  | .peer p n => { s with reqs := SMap.del s.reqs id }.reply p n r.fn data bad
  | _ => { s with reqs := SMap.put s.reqs id { r with value := some (data, bad), doneAt := s.nextId }, nextId := s.nextId + 1 }
/-- An operation's status: the first that is not OK stays (04 R78). -/
def Op.report (o : Op) (st : Nat) : Op := if o.status = 0 then { o with status := st } else o
/-- Something an operation waited for is done, with a status. -/
def State.opDone (s : State) (o id st : Nat) : State :=
  s.modOp o (fun x => { x.report st with waiting := x.waiting.filter (· ≠ id) })
/-- The lines of the issuing core's load buffer that an operation wrote go (04 R83). -/
def State.dropWritten (s : State) (o : Nat) (t : Target) (n : Nat) : State :=
  match SMap.find? s.ops o, t with
  | some x, .dev pa => s.dropLines x.core pa n
  | _, _ => s
/-- Every byte of a range lies in one of the ranges listed. -/
def coveredBy (ranges : List (Nat × Nat)) (pa n : Nat) : Bool :=
  (List.range n).all (fun i => ranges.any (fun r => decide (r.1 ≤ pa + i) && decide (pa + i < r.1 + r.2)))
/-- A granule that an operation has overwritten whole, in several pieces, and into which it brought no poison, carries
poison no more (01 R36). -/
def State.cleanGranule (s : State) (o : Op) (g : Nat) : State :=
  if (s.bad.contains g || s.uncorrectable (.dev g)) && !o.soiled.contains g && coveredBy o.wrote g (granuleSize g) then
    { s with bad := s.bad.filter (· ≠ g) }.clearErr (.dev g)
  else s
/-- An operation has written a range of device memory: what it covers of each granule is kept, and a granule covered whole
is clean. -/
def State.noteWrote (s : State) (o pa : Nat) (bad : List Bool) : State :=
  let n := bad.length
  let gs := granules pa n
  let s := s.modOp o (fun x => { x with
    wrote := x.wrote ++ [(pa, n)]
    soiled := x.soiled ++ gs.filter (fun g =>
      (List.range n).any (fun i => bad.getD i false && decide (granuleOf (pa + i) = g))) })
  match SMap.find? s.ops o with
  | some x => gs.foldl (fun s g => s.cleanGranule x g) s
  | none => s
/-- A request is finished, with a status: an operation that waits for it knows, a peer is told. -/
def State.finishReq (s : State) (id : Nat) (r : Req) (st : Nat) : State :=
  let s := { s with reqs := SMap.del s.reqs id }
  match r.ret with
  | .op o _ => ((if r.writes then s.dropWritten o r.tgt r.op.width else s)).opDone o id st
  | .peer p n => s.reply p n r.fn [BitVec.ofNat 8 st] [false]
  | _ => s

/-- The packet that carries a request to a peer (18 R302): its operation, and the poison of its payload. -/
def Req.body (r : Req) (pa : Nat) : PktBody × List Bool :=
  match r.op with
  | .read n => (.get pa n, [])
  | .write d b => (.put pa d, b)
  | .atomic o w x y f => (.atomic o w pa x y f, [])
  | .xadd f x => (.xadd f pa x, [])
  | .xrd c => (.xrd c pa, [])
  | .red t d b => (.red t pa d, b)
  | .spad h d b => (.spad h pa d, b)
  | .arrive h b => (.arrive h b, [])
/-- A request to a peer that may take effect leaves as a packet that carries its number, once; where the peer has no
route, or the link is down, the packet is discarded and the launch faults (24 R370). -/
def State.trySend (s : State) (id : Nat) : State :=
  match SMap.find? s.reqs id with
  | none => s
  | some r => match r.tgt with
    | .peer p pa =>
      if r.doneAt ≠ 0 ∨ !s.mayPerform id r then s
      else
        let (b, bad) := r.body pa
        let (s, lost) := { s with reqs := SMap.put s.reqs id { r with doneAt := 1 } }.sendPacket ⟨s.peerid, p, r.fn, id, b, bad⟩
        match lost with
        | none => s
        | some d => { s with reqs := SMap.put s.reqs id { r with doneAt := 2 } }.reqFault id r .fabric d
    | _ => s

/-! ## Sluice engines (04 R73, R74) -/

/-- The operation of a lane copy that a request is a part of. -/
def State.laneOp (s : State) (r : Req) : Option Nat :=
  match r.ret with
  | .op o _ => match SMap.find? s.ops o with
    | some x => (match x.kind with
      | .lane .. => some o
      | _ => none)
    | none => none
  | _ => none
/-- The requests of one line request: those of lanes that were merged, in one direction (04 R74); of any other request, itself. -/
def State.mates (s : State) (id : Nat) (r : Req) : SMap Req :=
  match s.laneOp r, r.tgt with
  | some o, .dev pa => s.reqs.filter (fun e => e.2.value.isNone && s.laneOp e.2 == some o && e.2.writes == r.writes &&
      match e.2.tgt with
      | .dev a => a / 128 == pa / 128
      | _ => false)
  | _, _ => [(id, r)]
/-- The request that an engine serves next: its cores take turns, and each has its oldest request served (R73). -/
def State.nextServed (s : State) (engine : Nat) : Option (Nat × Req) :=
  let mine := s.reqs.filter (fun e => e.2.atEngine && e.2.value.isNone && e.2.served == 0 && (e.2.src - engineBase) / 8 == engine)
  let last := SMap.getD s.turns engine 7
  ((List.range 8).map (fun k => (last + 1 + k) % 8)).findSome? (fun c =>
    mine.find? (fun e => (e.2.src - engineBase) % 8 == c))
/-- A request leaves its engine, with those that share its line request. -/
def State.serve (s : State) (id : Nat) (r : Req) : State :=
  let ms := (s.mates id r).map (·.1)
  let t := { s with
    reqs := s.reqs.map (fun (e : Nat × Req) =>
      if ms.contains e.1 && e.2.served == 0 then (e.1, { e.2 with served := s.nextId }) else e)
    turns := SMap.put s.turns ((r.src - engineBase) / 8) ((r.src - engineBase) % 8)
    nextId := s.nextId + 1 }
  ms.foldl (fun t i => t.trySend i) t
/-- An engine serves a request. -/
def State.engineServe (s : State) (engine : Nat) : State :=
  match s.nextServed engine with
  | some (id, r) => s.serve id r
  | none => s

/-! ## The steps at the owners -/

/-- A load may fill its line: it does so at all, it was not told otherwise, and no derived tile of the line is out of date
(03 R71; log 40). A load that acquires at team scope or wider fills nothing (DESIGN CHOICE, log 48). -/
def State.mayFill (s : State) (r : Req) (pa : Nat) : Bool :=
  !r.noFill && !r.acquire && !r.mesh && (s.notValid (pa / 128 * 128) 128).isEmpty
/-- A load's own bytes, read at its owner: they come from the half that the fill has read already where they lie in it. -/
def State.loadBytes (s : State) (r : Req) (pa n : Nat) : List Byte × List Bool :=
  match r.half with
  | some h => if pa % 128 < 64 then ((h.1.drop (pa % 128)).take n, (h.2.drop (pa % 128)).take n) else s.devRead pa n
  | none => s.devRead pa n
/-- An acquire at team scope or wider invalidates the core's load buffer in the step in which it takes effect. -/
def State.acquireDone (s : State) (r : Req) : State := if r.acquire && decide (r.src < 256) then s.dropLoads r.src else s
/-- A core's access on paths L and G that has taken effect leaves no line of its core's load buffer that was filled before it
(03 R71; 13 R245, R248; DEDUCED, log 24). -/
def State.dropOwn (s : State) (r : Req) (pa n : Nat) : State :=
  if r.isLG && decide (r.src < 256) then s.dropLines r.src pa n else s
/-- A load on path L that fills nothing leaves no older line behind (13 R245). -/
def State.passOver (s : State) (r : Req) (pa n : Nat) : State := if r.path = .l then s.dropOwn r pa n else s
/-- Bytes that a lost mesh flit of a request has poisoned (01 R35). -/
def Req.spoiled (r : Req) (bad : List Bool) : List Bool := if r.mesh then bad.map (fun _ => true) else bad
/-- A load's bytes read, its line filled where its first half has been read already, and the answer made. A load that fills
nothing leaves no older line behind (13 R245). -/
def State.finishRead (s : State) (id : Nat) (r : Req) (pa n : Nat) : State :=
  let (bs, bad) := s.loadBytes r pa n
  match r.half with
  | some a =>
    if s.mayFill r pa then
      let b := s.devRead (pa / 128 * 128 + 64) 64
      ((s.fillLine r.src (pa / 128) (a.1 ++ b.1, a.2 ++ b.2)).acquireDone r).answer id r bs bad
    else ((s.passOver r pa n).acquireDone r).answer id { r with half := none } bs (r.spoiled bad)
  | none => ((s.passOver r pa n).acquireDone r).answer id r bs (r.spoiled bad)
/-- The reads that are performed in one step with a read: those of its line request in one 64-byte half of the line, the lower
half first (01 R13; 04 R74). -/
def State.stepReads (s : State) (id : Nat) (r : Req) : SMap Req :=
  let ms := s.mates id r
  let low := ms.filter (fun e => match e.2.tgt with
    | .dev a => decide (a % 128 < 64)
    | _ => true)
  if low.isEmpty then ms else low
/-- The merged reads of lane copies performed in one step; held while a derived tile of theirs is not VALID. -/
def State.readMates (s : State) (ms : SMap Req) (fn : Nat) : State :=
  let held := ms.filter (fun e => match e.2.tgt with
    | .dev a => !(s.notValid a e.2.op.width).isEmpty
    | _ => false)
  if held.isEmpty then ms.foldl (fun s e => match e.2.tgt with
    | .dev a => s.finishRead e.1 e.2 a e.2.op.width
    | _ => s) s
  else held.foldl (fun s e => match e.2.tgt with
    | .dev a => s.startStale a e.2.op.width fn
    | _ => s) s
/-- A read at its owner: the bytes are read in one step; a read of a derived tile that is not VALID is held, and starts
the recompute of a STALE one (02 R49). A lane load that fills its line reads it in two steps, one for each half, in address
order (R13; 03 R71). -/
def State.sliceRead (s : State) (id : Nat) : State :=
  match SMap.find? s.reqs id with
  | none => s
  | some r =>
    match r.op, r.tgt with
    | .read n, .dev pa =>
      if !s.mayPerform id r then s
      else if (s.laneOp r).isSome then s.readMates (s.stepReads id r) r.fn
      else if !(r.half.isSome && decide (pa % 128 < 64)) && !(s.notValid pa n).isEmpty then s.startStale pa n r.fn
      else if r.half.isNone && s.mayFill r pa then
        { s with reqs := SMap.put s.reqs id { r with half := some (s.devRead (pa / 128 * 128) 64) } }
      else s.finishRead id r pa n
    | .read n, .spad _ _ _ =>
      if s.mayPerform id r then
        let (bs, bad) := s.readAt r.tgt n
        (s.acquireDone r).answer id r bs (r.spoiled bad)
      else s
    | .read n, .host _ =>
      if s.mayPerform id r then
        let (bs, bad) := s.readAt r.tgt n
        (s.acquireDone r).answer id r bs (r.spoiled bad)
      else s
    | .read _, .peer _ _ => s.trySend id
    | _, _ => s
/-- SLICE_READ. -/
def execSliceRead (id : Nat) (s : State) : Host.Outcome State Fault Refusal := .next (s.sliceRead id)
/-- The source number of the host's accesses. -/
def hostPort : Nat := 1024
/-- Work of an operation, here or at a peer: its writes leave derived frames alone (02 R48). -/
def Req.ofEngine (r : Req) : Bool :=
  match r.ret with
  | .op .. => true
  | .peer .. => true
  | _ => false
/-- Host writes dropped and aperture accesses refused are counted, saturating (24 R365). -/
def State.countErr (s : State) (fn : Nat) : State :=
  let f := s.fn fn
  s.setFn fn { f with errcnt := if f.errcnt = BitVec.allOnes 64 then f.errcnt else f.errcnt + 1 }
/-- A request's write of an operation to device memory is noted beside the operation. -/
def State.noteWrite (s : State) (r : Req) (bad : List Bool) : State :=
  match r.ret, r.tgt with
  | .op o _, .dev pa => s.noteWrote o pa bad
  | _, _ => s
/-- A request's bytes are written, or refused with status DERIVED-WRITE; a host write is dropped and counted. -/
def State.performWrite (s : State) (id : Nat) (r : Req) (data : List Byte) (bad : List Bool) : State :=
  let refused := match r.tgt with
    | .dev pa => (r.ofEngine || r.src == hostPort) && s.derivedFrame pa
    | _ => false
  if refused then ((if r.src = hostPort then s.countErr r.fn else s).finishReq id r 2)
  else
    let s := match r.tgt with
      | .dev pa => s.dropOwn r pa data.length
      | _ => s
    ((s.writeAt r.tgt data bad).noteWrite r bad).finishReq id r 0
/-- An operation whose bytes land in any order: a copy by a sluice engine from memory to memory (04 R75, R76), the bytes that
an FB word moves (18 R302, R307; 19 R315). -/
def OpKind.copies : OpKind → Bool
  | .lane .. => true
  | .bulk .. => true
  | .put .. => true
  | .get _ => true
  | .ata _ => true
  | .cmb .. => true
  | _ => false
/-- Bytes of a copy, which may land apart and in any order (04 R76, R90; 17 R288; log 41). A stamp lands whole. -/
def Req.piecewise (s : State) (r : Req) : Bool :=
  match r.ret with
  | .op o k => match SMap.find? s.ops o with
    | some x => x.kind.copies && !(x.pieces[k]?).any (·.last)
    | none => false
  | _ => false
/-- Two ranges of one owner share a 64-byte block. -/
def Target.sharesBlock (t : Target) (n : Nat) (u : Target) (m : Nat) : Bool :=
  let share (a b : Nat) : Bool := decide (a / 64 ≤ (b + m - 1) / 64) && decide (b / 64 ≤ (a + n - 1) / 64)
  match t, u with
  | .dev a, .dev b => share a b
  | .spad x i a, .spad y j b => x == y && i == j && share a b
  | _, _ => false
/-- A copy or a delivery has landed in part in a block of a range: an atomic there comes before it or after it, whole (01 R16). -/
def State.halfLanded (s : State) (t : Target) (n : Nat) : Bool :=
  s.reqs.any (fun e => e.2.value.isNone && !e.2.part.isEmpty && e.2.tgt.sharesBlock e.2.op.width t n) ||
    s.deliveries.any (fun e => !e.2.part.isEmpty && match e.2.data, t with
      | some (off, bytes, _), .spad x i _ => i == 0 && (match SMap.find? s.teams x with
          | some u => u.handle == e.2.handle
          | none => false) && Target.sharesBlock (.spad x 0 off) bytes.length t n
      | _, _ => false)
/-- The offsets below `n` that have not landed, of those drawn; all of them where none is drawn. -/
def someOf (n : Nat) (landed : List Nat) (k : Nat) : List Nat :=
  let rest := (List.range n).filter (fun i => !landed.contains i)
  let some_ := rest.filter (fun i => k.testBit i)
  if some_.isEmpty then rest else some_
/-- One byte of a write that lands in parts. -/
def State.landByte (s : State) (t : Target) (data : List Byte) (bad : List Bool) (i : Nat) : State :=
  match t with
  | .dev pa => s.writeAt (.dev (pa + i)) [data.getD i 0] [bad.getD i false]
  | .spad team side off => s.writeAt (.spad team side (off + i)) [data.getD i 0] [bad.getD i false]
  | _ => s
/-- What a write that has landed in parts does to the poison of the granules or words it covers (01 R36). -/
def State.touchAll (s : State) (t : Target) (bad : List Bool) : State :=
  let n := bad.length
  match t with
  | .dev pa => (granules pa n).foldl (fun s g => s.touchGranule pa n bad g) s
  | .spad team side off =>
    (distinct ((List.range n).map (fun i => (off + i) / 4))).foldl (fun s k => s.touchWord team side off n bad k) s
  | _ => s
/-- A copy's write at its owner: some of its bytes land, which ones is open; with the last of them the write is done. A
write to derived frames is refused whole. -/
def State.performPart (s : State) (id : Nat) (r : Req) (data : List Byte) (bad : List Bool) : State :=
  let refused := match r.tgt with
    | .dev pa => s.derivedFrame pa
    | _ => false
  let now := someOf data.length r.part (Config.pick s.drawn)
  if refused then s.finishReq id r 2
  else
    let t := now.foldl (fun (s : State) i => s.landByte r.tgt data bad i) { s with drawn := s.drawn + 1 }
    if now.length + r.part.length < data.length then
      { t with reqs := SMap.put t.reqs id { r with part := r.part ++ now } }
    else ((t.touchAll r.tgt bad).noteWrite r bad).finishReq id r 0
/-- A write at its owner: in one step, held while an exclusive recompute holds writes (02 R50); a copy's may land in
several. -/
def State.sliceWrite (s : State) (id : Nat) : State :=
  match SMap.find? s.reqs id with
  | none => s
  | some r =>
    match r.op, r.tgt with
    | .write data bad, .dev pa =>
      if s.mayPerform id r && !s.writesHeld pa data.length then
        (if r.piecewise s then s.performPart id r data bad else s.performWrite id r data bad)
      else s
    | .write data bad, .spad _ _ _ =>
      if s.mayPerform id r then
        (if r.piecewise s then s.performPart id r data bad else s.performWrite id r data bad)
      else s
    | .write _ _, .peer _ _ => s.trySend id
    | .red _ _ _, .peer _ _ => s.trySend id
    | .spad _ _ _, .peer _ _ => s.trySend id
    | .arrive _ _, .peer _ _ => s.trySend id
    | _, _ => s
/-- SLICE_WRITE. -/
def execSliceWrite (id : Nat) (s : State) : Host.Outcome State Fault Refusal := .next (s.sliceWrite id)
/-- HOST_WRITE_COMPLETION: a write to a host page completes on the link (01 R32). -/
def execHostWriteCompletion (id : Nat) (s : State) : Host.Outcome State Fault Refusal :=
  .next (match SMap.find? s.reqs id with
  | none => s
  | some r =>
    match r.op, r.tgt with
    | .write data bad, .host _ => if s.mayPerform id r then s.performWrite id r data bad else s
    | _, _ => s)
/-- A line of a core's load buffer carries poison that a mesh flit brought (01 R35, 03 R71). -/
def State.spoilLine (s : State) (core line : Nat) : State :=
  s.setCore core { s.core core with loads := (s.core core).loads.map (fun l =>
    if l.line = line then { l with bad := l.bad.map (fun _ => true), mesh := true } else l) }
/-- A mesh flit that eight tries did not carry whole arrives with poison on all its bytes (01 R35, R36). Flit 0 of a request is
its address, flit k + 1 its data, 32 bytes each; an answer is one flit, and so is the line that it fills. Poisoned data of an
atomic make it an atomic that meets poison; what a poisoned address makes of an access is open: all of its data count as
poisoned (DESIGN CHOICE, log 64). A flit that a further try carried changes nothing. -/
def State.loseFlit (s : State) (id k : Nat) : State :=
  match SMap.find? s.reqs id with
  | none => s
  | some r =>
    let put (r : Req) : State := { s with reqs := SMap.put s.reqs id r }
    let spoil (bad : List Bool) : List Bool := bad.zipIdx.map (fun b => b.1 || k == 0 || decide (b.2 / 32 + 1 = k))
    match r.value with
    | some (d, _) =>
      let t := put { r with value := some (d, List.replicate d.length true), mesh := true }
      match r.half, r.tgt with
      | some _, .dev pa => t.spoilLine r.src (pa / 128)
      | _, _ => t
    | none => match r.op with
      | .write d bad => if r.part = [] then put { r with op := .write d (spoil bad) } else s
      | .red ty d bad => put { r with op := .red ty d (spoil bad) }
      | .spad h d bad => put { r with op := .spad h d (spoil bad) }
      | .arrive _ _ => s
      | _ => put { r with mesh := true }
/-- A request that reads, modifies and writes. -/
def ReqOp.modifies : ReqOp → Bool
  | .atomic .. => true
  | .xadd .. => true
  | .xrd _ => true
  | .red .. => true
  | _ => false
/-- A form that gives a value back. -/
def ReqOp.returns : ReqOp → Bool
  | .atomic .. => true
  | .xrd _ => true
  | _ => false
/-- The target `k` bytes on. -/
def Target.plus (t : Target) (k : Nat) : Target :=
  match t with
  | .dev a => .dev (a + k)
  | .host a => .host (a + k)
  | .peer p a => .peer p (a + k)
  | .spad x i a => .spad x i (a + k)
/-- The bytes that a reduction leaves: of an exact-sum form, each cell that carries no poison on its own; a cell that carries
poison is not written (01 R21). -/
def State.redWrite (s : State) (t : Target) (ty : RedType) (old : List Byte) (obad : List Bool) (data : List Byte)
    (bad : List Bool) : State :=
  let (new, nb) := redAll ty old obad data bad
  if ty = .xc then (List.range (data.length / 4)).foldl (fun s e =>
    if ((obad.drop (64 * e)).take 64).any (fun b => b) then s
    else s.writeAt (t.plus (64 * e)) ((new.drop (64 * e)).take 64) ((nb.drop (64 * e)).take 64)) s
  else s.writeAt t new nb
/-- An atomic's step: poison leaves the location unchanged and faults (R36, R21); an operation's leaves derived frames
alone, and so does the walker's. The launch of a peer's request learns of the poison by the answer's. -/
def State.performAtomic (s : State) (id : Nat) (r : Req) : State :=
  let n := r.op.width
  let s := s.acquireDone r
  let s := match r.tgt with
    | .dev pa => s.dropOwn r pa n
    | _ => s
  let refused := match r.tgt with
    | .dev pa => (r.ofEngine || r.src == walkPort) && s.derivedFrame pa
    | _ => false
  let (old, bad) := s.readAt r.tgt n
  let poisoned (s : State) : State := match r.ret with
    | .peer p m => { s with reqs := SMap.del s.reqs id }.reply p m r.fn (old.take 8) (List.replicate 8 true)
    | _ => (s.reqFault id r .poison (if r.mesh then 2 else poisonDetail r.tgt)).finishReq id r 0
  match r.op with
  | .red ty data db =>
    if refused then s.finishReq id r 2
    else
      let s := s.redWrite r.tgt ty old bad data db
      if ty = .xc ∧ bad.any (fun b => b) then poisoned s else s.finishReq id r 0
  | op =>
    if r.mesh || bad.any (fun b => b) then poisoned s
    else
      let (new, res) := op.atomicStep old
      let s := match new with
        | some d => if refused then s else s.writeAt r.tgt d (clean d.length)
        | none => s
      match r.ret with
      | .none => s.finishReq id r 0
      | .op _ _ => s.finishReq id r (if refused then 2 else 0)
      | _ => if op.returns then s.answer id r res (clean res.length) else s.finishReq id r (if refused then 2 else 0)
/-- An atomic is held at its owner: while an exclusive recompute holds writes (02 R50), and while a copy has landed in part in
its block (01 R16). -/
def State.atomicHeld (s : State) (r : Req) : Bool :=
  s.halfLanded r.tgt r.op.width || match r.tgt with
    | .dev pa => s.writesHeld pa r.op.width
    | .spad _ _ _ => false
    | _ => true
/-- SLICE_ATOMIC: read, modify and write in one step (01 R16), unless it is held. -/
def execSliceAtomic (id : Nat) (s : State) : Host.Outcome State Fault Refusal :=
  .next (match SMap.find? s.reqs id with
  | none => s
  | some r =>
    let held := s.atomicHeld r
    if !r.op.modifies then s
    else if s.mayPerform id r && !held then s.performAtomic id r
    else s.trySend id)

/-! ## Issue checks (14 R257) -/

/-- The scratchpad that a path reaches. -/
def View.spad (x : View) : Option (Nat × Nat × EntryRec) := some (x.tid, x.side, x.e.body)
/-- A translation for a word of the path. -/
def View.translate (x : View) (va : DWord) (k : AccessKind) : Translation :=
  x.s.translate x.g.core x.e.ctx x.spad va.toNat k
/-- A failed answer of a walk or of a page request that the path has received for a page. -/
def View.refusedAt (x : View) (va : DWord) : Option Nat :=
  (x.p.refused.find? (fun r => r.1 == va.toNat / 4096)).map (·.2)
/-- The DETAIL of ADDRESS that an access meets in its translation; `deny` names targets that it may not use. -/
def View.denied (x : View) (k : AccessKind) (deny : Target → Bool) (va : DWord) : Option Nat :=
  match x.refusedAt va with
  | some d => some d
  | none => match x.translate va k with
    | .fault d => some d
    | .hit t _ => if deny t then some 2 else none
    | .miss _ => none
/-- An address outside the space, or in a scratchpad window beyond the allocation (R22, R23). -/
def View.outside (x : View) (va : DWord) : Bool :=
  if 2 ^ 57 ≤ va.toNat ∨ spadOwn ≤ va.toNat then x.translate va .read == .fault 0 else false
/-- A page whose bytes only a recompute writes (02 R48). -/
def View.derivedAt (x : View) (va : DWord) : Bool :=
  match x.translate va .read with
  | .hit (.dev pa) leaf => (match leaf with | some l => l.der | none => false) || x.s.derivedFrame pa
  | .hit (.peer _ _) leaf => match leaf with | some l => l.der | none => false
  | _ => false
/-- A word whose translation is not in the TLBs waits for a walk; the word has not issued (R27). -/
def View.awaitWalk (x : View) (va : DWord) (kind : Nat) : State :=
  x.s.queueWalk x.g.core x.e.ctx va.toNat x.pid kind

/-- What the checks of a word say. -/
inductive Checked where
  /-- Each access with its target: the word issues. -/
  | ok (x : View) (accs : List (Nat × DWord × Target × Option Leaf))
  /-- A precise fault, or a wait for a walk. -/
  | stop (s : State)

/-- Lanes of accesses that meet a condition. -/
def lanesWith (as : List (Nat × DWord)) (p : DWord → Bool) : List (Nat × DWord) := as.filter (fun a => p a.2)
/-- The lanes of accesses as a mask. -/
def lanesMask (as : List (Nat × DWord)) : Lanes := as.foldl (fun m a => m ||| oneLane a.1) 0
/-- A precise fault of the lanes that meet it: ADDR is the lowest lane's address, or the table's; a word that acts once
names no lane (23 R353, 25 R378). -/
def View.raiseAt (x : View) (c : Code) (once : Bool) (hits : List (Nat × DWord)) (detail : Nat)
    (whole : Option DWord := none) : State :=
  x.raise c (whole.getD (match hits with | a :: _ => a.2 | [] => 0)) (if once then 0 else lanesMask hits) detail

/-- The checks of R257, in order, over the accesses of every active lane. `store`: the check of derived pages is made
too. -/
def View.check (x : View) (size : Nat) (k : AccessKind) (once store : Bool) (deny : Target → Bool)
    (as : List (Nat × DWord)) (whole : Option DWord := none) : Checked :=
  let mis := lanesWith as (fun a => a.toNat % size != 0)
  let out := lanesWith as x.outside
  let den := lanesWith as (fun a => (x.denied k deny a).isSome)
  let der := if store then lanesWith as x.derivedAt else []
  if !mis.isEmpty then .stop (x.raiseAt .misaligned once mis 0 whole)
  else if !out.isEmpty then .stop (x.raiseAt .address once out 0 whole)
  else
    match as.find? (fun a => (x.refusedAt a.2).isNone && match x.translate a.2 k with | .miss _ => true | _ => false) with
    | some a => .stop (match x.translate a.2 k with | .miss kind => x.awaitWalk a.2 kind | _ => x.s)
    | none =>
      if !den.isEmpty then
        .stop (x.raiseAt .address once den (((den.head?).bind (fun a => x.denied k deny a.2)).getD 0) whole)
      else if !der.isEmpty then .stop (x.raiseAt .derivedWrite once der 0 whole)
      else
        let s := as.foldl (fun s a => s.tlbPromote x.g.core x.e.ctx a.2.toNat) x.s
        .ok { x with s := s } (as.filterMap (fun a => match x.translate a.2 k with
          | .hit t l => some (a.1, a.2, t, l)
          | _ => none))

/-! ## Issuing requests -/

/-- A request of the path's word. -/
def View.req (x : View) (path : APath) (op : ReqOp) (tgt : Target) (va : DWord) (lanes : Lanes) (ret : Ret) : Req :=
  { src := x.g.core, arm := x.pid, served := 0, path := path, fn := x.e.fn, entry := x.eid, team := x.tid, grp := x.gid, lanes := lanes,
    named := lanes, pc := x.p.pc, va := va, ctx := x.e.ctx, op := op, tgt := tgt, after := [], ret := ret,
    acquire := false, noFill := true, value := none, doneAt := 0, mesh := false, half := none, part := [], born := 0 }
/-- A request leaves its source. -/
def State.issue (s : State) (r : Req) : State := (s.addReq r).trySend s.nextId

end Sys2Proof.Machine
end

