-- ==== Sys2Proof/Machine/Uniform.lean ====
section
/-! DEFINITION. The uniform classes SI and SM and the predicate class PR (10 R173 to R177). -/
namespace Sys2Proof.Machine
open Sys2Proof

/-! ## 32-bit integer arithmetic, shared with VI (10 R173, 11 R201) -/

/-- Bits [63:32] of a signed product. -/
def mulHi (a b : Word) : Word := ((a.signExtend 64 * b.signExtend 64) >>> 32).setWidth 32
/-- Bits [63:32] of an unsigned product. -/
def mulHiU (a b : Word) : Word := ((a.setWidth 64 * b.setWidth 64) >>> 32).setWidth 32
/-- 0 if b ≥ 32, else a << b. -/
def shl (a b : Word) : Word := if 32 ≤ b.toNat then 0 else a <<< b.toNat
/-- 0 if b ≥ 32, else a shifted right logically. -/
def shr (a b : Word) : Word := if 32 ≤ b.toNat then 0 else a >>> b.toNat
/-- All bits a[31] if b ≥ 32, else a shifted right arithmetically. -/
def sra (a b : Word) : Word := a.sshiftRight (min b.toNat 31)
/-- Signed minimum. -/
def minS (a b : Word) : Word := if a.slt b then a else b
/-- Signed maximum. -/
def maxS (a b : Word) : Word := if a.slt b then b else a
/-- Unsigned minimum. -/
def minU (a b : Word) : Word := if a.ult b then a else b
/-- Unsigned maximum. -/
def maxU (a b : Word) : Word := if a.ult b then b else a
/-- Leading zero bits; 32 for 0. -/
def clz (a : Word) : Word := if a = 0 then 32 else BitVec.ofNat 32 (31 - Nat.log2 a.toNat)
/-- Set bits. -/
def popc (a : Word) : Word := BitVec.ofNat 32 ((List.range 32).filter a.getLsbD).length

/-- A comparison of two values of a width (10 R174). -/
def compare {n : Nat} (c : Cond) (a b : BitVec n) : Bool :=
  match c with
  | .eq => a == b
  | .ne => a != b
  | .slt => a.slt b
  | .sle => a.sle b
  | .sgt => b.slt a
  | .sge => b.sle a
  | .ult => a.ult b
  | .ule => a.ule b
  | .ugt => b.ult a
  | .uge => b.ule a

/-! ## The shapes of uniform words: each acts once for its path, or not at all when its guard does not hold -/

/-- A word that acts once for its path when its uniform guard holds. -/
def oncePath (s : State) (g : Guard) (q : Bool) (kind : LatchKind) (f : View → View) :
    Host.Outcome State Fault Refusal :=
  onPath s (fun x => (if x.guardOn g then f x else x.skip q kind).commit)
/-- A word of format A with a 32-bit uniform result from three uniform sources. -/
def uniWord {β γ μ : Type} (w : FmtA (Dest (Fin 64)) USrc β γ μ) (reads : List USrc) (f : View → Word) (s : State) :
    Host.Outcome State Fault Refusal :=
  oncePath s w.g w.q .uni (fun x =>
    let y := x.sample (reads.any USrc.isClk)
    y.putUni w.d w.q (f y))
/-- A result of two uniform sources. -/
def uniWord2 {γ μ : Type} (w : FmtA (Dest (Fin 64)) USrc USrc γ μ) (f : Word → Word → Word) (s : State) :
    Host.Outcome State Fault Refusal :=
  uniWord w [w.a, w.b] (fun x => f (x.uni w.a) (x.uni w.b)) s
/-- A 64-bit result to an even pair (R173). -/
def pairWord {γ μ : Type} (w : FmtA (Fin 32) USrc64 USrc64 γ μ) (f : DWord → DWord → DWord) (s : State) :
    Host.Outcome State Fault Refusal :=
  oncePath s w.g w.q .none (fun x =>
    { x with g := x.g.setSpair (2 * w.d.val) (f (x.uni64 w.a) (x.uni64 w.b)), p := x.p.retire w.q .none })
/-- A uniform predicate written. -/
def uniPredWord {α β γ μ : Type} (w : FmtA (Fin 16) α β γ μ) (reads : List USrc) (f : View → Bool) (s : State) :
    Host.Outcome State Fault Refusal :=
  oncePath s w.g w.q .none (fun x =>
    let y := x.sample (reads.any USrc.isClk)
    { y with g := y.g.setQ w.d.val (f y), p := y.p.retire w.q .none })
/-- A lane predicate written in the active lanes (R177); no latch, no flag. -/
def predWord {α β γ μ : Type} (w : FmtA (Fin 96) α β γ μ) (reads : Bool) (f : View → Lanes) (s : State) :
    Host.Outcome State Fault Refusal :=
  onPath s (fun x =>
    let y := x.sample (reads && x.guardOn w.g)
    { y with g := y.setPreds w.d.val (y.active w.g &&& lowLanes y.w) (f y), p := y.p.retire w.q .none }.commit)

/-! ## SI -/

/-- SI.ADD (R173): (a + b)[31:0]. -/
def execSiAdd (w : FmtA (Dest (Fin 64)) USrc USrc Unit Unit) (s : State) : Host.Outcome State Fault Refusal :=
  uniWord2 w (· + ·) s
/-- SI.SUB (R173): (a − b)[31:0]. -/
def execSiSub (w : FmtA (Dest (Fin 64)) USrc USrc Unit Unit) (s : State) : Host.Outcome State Fault Refusal :=
  uniWord2 w (· - ·) s
/-- SI.MUL (R173): (a × b)[31:0]. -/
def execSiMul (w : FmtA (Dest (Fin 64)) USrc USrc Unit Unit) (s : State) : Host.Outcome State Fault Refusal :=
  uniWord2 w (· * ·) s
/-- SI.MULH (R173): bits [63:32] of a × b, unsigned under .U. -/
def execSiMulh (w : FmtA (Dest (Fin 64)) USrc USrc Unit Bool) (s : State) : Host.Outcome State Fault Refusal :=
  uniWord2 w (if w.mod then mulHiU else mulHi) s
/-- SI.MAD (R173). -/
def execSiMad (w : FmtA (Dest (Fin 64)) USrc USrc USrc Unit) (s : State) : Host.Outcome State Fault Refusal :=
  uniWord w [w.a, w.b, w.cc] (fun x => x.uni w.a * x.uni w.b + x.uni w.cc) s
/-- SI.AND (R173). -/
def execSiAnd (w : FmtA (Dest (Fin 64)) USrc USrc Unit Unit) (s : State) : Host.Outcome State Fault Refusal :=
  uniWord2 w (· &&& ·) s
/-- SI.OR (R173). -/
def execSiOr (w : FmtA (Dest (Fin 64)) USrc USrc Unit Unit) (s : State) : Host.Outcome State Fault Refusal :=
  uniWord2 w (· ||| ·) s
/-- SI.XOR (R173). -/
def execSiXor (w : FmtA (Dest (Fin 64)) USrc USrc Unit Unit) (s : State) : Host.Outcome State Fault Refusal :=
  uniWord2 w (· ^^^ ·) s
/-- SI.SHL (R173). -/
def execSiShl (w : FmtA (Dest (Fin 64)) USrc USrc Unit Unit) (s : State) : Host.Outcome State Fault Refusal :=
  uniWord2 w shl s
/-- SI.SHR (R173). -/
def execSiShr (w : FmtA (Dest (Fin 64)) USrc USrc Unit Unit) (s : State) : Host.Outcome State Fault Refusal :=
  uniWord2 w shr s
/-- SI.SRA (R173). -/
def execSiSra (w : FmtA (Dest (Fin 64)) USrc USrc Unit Unit) (s : State) : Host.Outcome State Fault Refusal :=
  uniWord2 w sra s
/-- SI.MIN (R173). -/
def execSiMin (w : FmtA (Dest (Fin 64)) USrc USrc Unit Unit) (s : State) : Host.Outcome State Fault Refusal :=
  uniWord2 w minS s
/-- SI.MAX (R173). -/
def execSiMax (w : FmtA (Dest (Fin 64)) USrc USrc Unit Unit) (s : State) : Host.Outcome State Fault Refusal :=
  uniWord2 w maxS s
/-- SI.MINU (R173). -/
def execSiMinu (w : FmtA (Dest (Fin 64)) USrc USrc Unit Unit) (s : State) : Host.Outcome State Fault Refusal :=
  uniWord2 w minU s
/-- SI.MAXU (R173). -/
def execSiMaxu (w : FmtA (Dest (Fin 64)) USrc USrc Unit Unit) (s : State) : Host.Outcome State Fault Refusal :=
  uniWord2 w maxU s
/-- SI.CLZ (R173). -/
def execSiClz (w : FmtA (Dest (Fin 64)) USrc Unit Unit Unit) (s : State) : Host.Outcome State Fault Refusal :=
  uniWord w [w.a] (fun x => clz (x.uni w.a)) s
/-- SI.POPC (R173). -/
def execSiPopc (w : FmtA (Dest (Fin 64)) USrc Unit Unit Unit) (s : State) : Host.Outcome State Fault Refusal :=
  uniWord w [w.a] (fun x => popc (x.uni w.a)) s
/-- SI.SEL (R173). -/
def execSiSel (w : FmtA (Dest (Fin 64)) USrc USrc QSrc Unit) (s : State) : Host.Outcome State Fault Refusal :=
  uniWord w [w.a, w.b] (fun x => if x.upred w.cc then x.uni w.a else x.uni w.b) s
/-- SI.ADD64 (R173), on pairs. -/
def execSiAdd64 (w : FmtA (Fin 32) USrc64 USrc64 Unit Unit) (s : State) : Host.Outcome State Fault Refusal :=
  pairWord w (· + ·) s
/-- SI.SUB64 (R173), on pairs. -/
def execSiSub64 (w : FmtA (Fin 32) USrc64 USrc64 Unit Unit) (s : State) : Host.Outcome State Fault Refusal :=
  pairWord w (· - ·) s
/-- SI.MUL64 (R173), on pairs. -/
def execSiMul64 (w : FmtA (Fin 32) USrc64 USrc64 Unit Unit) (s : State) : Host.Outcome State Fault Refusal :=
  pairWord w (· * ·) s
/-- SI.CMP (R174). -/
def execSiCmp (w : FmtA (Fin 16) USrc USrc Unit SiCond) (s : State) : Host.Outcome State Fault Refusal :=
  uniPredWord w [w.a, w.b] (fun x =>
    if w.mod.wide then compare w.mod.cond (x.uniPair w.a) (x.uniPair w.b)
    else compare w.mod.cond (x.uni w.a) (x.uni w.b)) s
/-! ## SM (R175, R176) -/

/-- SM.MOV: s[D] = a. -/
def execSmMov (w : FmtA (Dest (Fin 64)) USrc Unit Unit Unit) (s : State) : Host.Outcome State Fault Refusal :=
  uniWord w [w.a] (fun x => x.uni w.a) s
/-- SM.MOVI: IMM23 sign-extended. -/
def execSmMovi (w : FmtI (Dest (Fin 64)) Unit) (s : State) : Host.Outcome State Fault Refusal :=
  oncePath s w.g w.q .uni (fun x => x.putUni w.d w.q (w.imm.signExtend 32))
/-- The pair that SM.MOVH writes (R176). -/
def movh (part : Bool) (imm : BitVec 23) (v : DWord) : DWord :=
  if part then ((imm.setWidth 64) <<< 46) ||| (v &&& 0x00003FFFFFFFFFFF#64)
  else ((imm.setWidth 64) <<< 23) ||| (v &&& 0x00000000007FFFFF#64)
/-- SM.MOVH (R176). -/
def execSmMovh (w : FmtI (Fin 32) Bool) (s : State) : Host.Outcome State Fault Refusal :=
  oncePath s w.g w.q .none (fun x =>
    { x with g := x.g.setSpair (2 * w.d.val) (movh w.a w.imm (x.g.spair (2 * w.d.val))), p := x.p.retire w.q .none })
/-- SM.QAND. -/
def execSmQand (w : FmtA (Fin 16) QSrc QSrc Unit Unit) (s : State) : Host.Outcome State Fault Refusal :=
  uniPredWord w [] (fun x => (x.upred w.a && x.upred w.b)) s
/-- SM.QOR. -/
def execSmQor (w : FmtA (Fin 16) QSrc QSrc Unit Unit) (s : State) : Host.Outcome State Fault Refusal :=
  uniPredWord w [] (fun x => (x.upred w.a || x.upred w.b)) s
/-- SM.QXOR. -/
def execSmQxor (w : FmtA (Fin 16) QSrc QSrc Unit Unit) (s : State) : Host.Outcome State Fault Refusal :=
  uniPredWord w [] (fun x => (x.upred w.a != x.upred w.b)) s
/-- SM.QNOT. -/
def execSmQnot (w : FmtA (Fin 16) QSrc Unit Unit Unit) (s : State) : Host.Outcome State Fault Refusal :=
  uniPredWord w [] (fun x => !x.upred w.a) s
/-- SM.QMOV: q[D] = (a ≠ 0). -/
def execSmQmov (w : FmtA (Fin 16) USrc Unit Unit Unit) (s : State) : Host.Outcome State Fault Refusal :=
  uniPredWord w [w.a] (fun x => x.uni w.a != 0) s
/-! ## PR (R177) -/

/-- PR.AND. -/
def execPrAnd (w : FmtA (Fin 96) PSrc PSrc Unit Unit) (s : State) : Host.Outcome State Fault Refusal :=
  predWord w false (fun x => x.predLanes w.a &&& x.predLanes w.b) s
/-- PR.OR. -/
def execPrOr (w : FmtA (Fin 96) PSrc PSrc Unit Unit) (s : State) : Host.Outcome State Fault Refusal :=
  predWord w false (fun x => x.predLanes w.a ||| x.predLanes w.b) s
/-- PR.XOR. -/
def execPrXor (w : FmtA (Fin 96) PSrc PSrc Unit Unit) (s : State) : Host.Outcome State Fault Refusal :=
  predWord w false (fun x => x.predLanes w.a ^^^ x.predLanes w.b) s
/-- PR.NOT. -/
def execPrNot (w : FmtA (Fin 96) PSrc Unit Unit Unit) (s : State) : Host.Outcome State Fault Refusal :=
  predWord w false (fun x => ~~~ (x.predLanes w.a)) s
/-- PR.MOV. -/
def execPrMov (w : FmtA (Fin 96) PSrc Unit Unit Unit) (s : State) : Host.Outcome State Fault Refusal :=
  predWord w false (fun x => x.predLanes w.a) s
/-- A mask of the lanes below `n` in which a condition holds. -/
def maskOf (n : Nat) (f : Nat → Bool) : Lanes := BitVec.ofNat 64 ((List.range n).foldr (fun i a => (if f i then 1 else 0) * 2 ^ i + a) 0)
/-- PR.SET: bit (b mod 32) of a. -/
def execPrSet (w : FmtA (Fin 96) Src Src Unit Unit) (s : State) : Host.Outcome State Fault Refusal :=
  predWord w (Src.isClk w.a || Src.isClk w.b) (fun x =>
    maskOf x.w (fun i => (x.lane w.a i).getLsbD ((x.lane w.b i).toNat % 32))) s
/-- PR.CNT: the number of active lanes whose a holds, written once for the path; 0 when no lane is active. Under a uniform guard
that does not hold it writes nothing (08 R141; DESIGN CHOICE, log 67). -/
def execPrCnt (w : FmtA (Fin 64) PSrc Unit Unit Unit) (s : State) : Host.Outcome State Fault Refusal :=
  onPath s (fun x =>
    let n := (lanesBelow x.w (x.active w.g &&& x.predLanes w.a)).length
    (if x.guardOn w.g then { x with g := x.g.setS w.d.val (BitVec.ofNat 32 n), p := x.p.retire w.q .none }
     else x.skip w.q .none).commit)

end Sys2Proof.Machine
end

