-- ==== Sys2Proof/Machine/Vector.lean ====
section
/-! DEFINITION. The lane integer classes VI and VJ (11 R198 to R204). -/
namespace Sys2Proof.Machine
open Sys2Proof

/-! ## Lane words: each active lane computes on its own (R198); sources are read before anything is written -/

/-- A 32-bit lane result. -/
def laneWord {α β γ μ : Type} (w : FmtA (Dest (Fin 256)) α β γ μ) (reads : List Src) (f : View → Nat → Word) (s : State) :
    Host.Outcome State Fault Refusal :=
  onPath s (fun x =>
    let y := x.sample (reads.any Src.isClk && x.guardOn w.g)
    (y.putLanes w.d (y.active w.g) w.q (f y)).commit)
/-- A lane result of two sources. -/
def laneWord2 {γ μ : Type} (w : FmtA (Dest (Fin 256)) Src Src γ μ) (f : Word → Word → Word) (s : State) :
    Host.Outcome State Fault Refusal :=
  laneWord w [w.a, w.b] (fun x i => f (x.lane w.a i) (x.lane w.b i)) s
/-- A 64-bit lane result to an even pair; no latch (R199). -/
def lanePairWord {α β γ μ : Type} (w : FmtA (Fin 128) α β γ μ) (reads : List Src) (f : View → Nat → DWord) (s : State) :
    Host.Outcome State Fault Refusal :=
  onPath s (fun x =>
    let y := x.sample (reads.any Src.isClk && x.guardOn w.g)
    let g := (lanesBelow y.w (y.active w.g)).foldl (fun g i => g.setVpair (2 * w.d.val) i (f y i)) y.g
    { y with g := g, p := y.p.retire w.q .none }.commit)
/-- A lane result of format I. -/
def laneImm (w : FmtI (Dest (Fin 256)) Src) (f : Word → Word) (s : State) : Host.Outcome State Fault Refusal :=
  onPath s (fun x =>
    let y := x.sample (Src.isClk w.a && x.guardOn w.g)
    (y.putLanes w.d (y.active w.g) w.q (fun i => f (y.lane w.a i))).commit)

/-! ## Arithmetic of VI -/

/-- a + b or a − b saturated (R201): the exact value, kept within the type's range. -/
def saturate (unsigned : Bool) (x : Int) : Word :=
  let lo : Int := if unsigned then 0 else -2147483648
  let hi : Int := if unsigned then 4294967295 else 2147483647
  BitVec.ofInt 32 (if x < lo then lo else if hi < x then hi else x)
/-- A word as a whole number. -/
def intOf (unsigned : Bool) (a : Word) : Int := if unsigned then (a.toNat : Int) else a.toInt
/-- n = min(len, 32 − pos) of BFE and BFI (R202): pos = b[4:0], len = b[13:8]. -/
def fieldLen (b : Word) : Nat := min (b.extractLsb' 8 6).toNat (32 - (b.extractLsb' 0 5).toNat)
/-- BFE (R202). -/
def bfe (signed : Bool) (a b : Word) : Word :=
  let n := fieldLen b
  let x := (a.toNat / 2 ^ (b.extractLsb' 0 5).toNat) % 2 ^ n
  if n = 0 then 0
  else if signed && decide (2 ^ (n - 1) ≤ x) then BitVec.ofInt 32 ((x : Int) - 2 ^ n) else BitVec.ofNat 32 x
/-- BFI (R202). -/
def bfi (a b c : Word) : Word :=
  let mask : Word := BitVec.ofNat 32 ((2 ^ fieldLen b - 1) * 2 ^ (b.extractLsb' 0 5).toNat)
  (c &&& ~~~ mask) ||| ((a <<< (b.extractLsb' 0 5).toNat) &&& mask)
/-- c + Σ ak × bk over elements of `n` bits (R203). -/
def dot (n count : Nat) (sa sb : Bool) (a b c : Word) : Word :=
  let el (s : Bool) (x : Word) (k : Nat) : Int := if s then (x.extractLsb' (n * k) n).toInt else (x.extractLsb' (n * k) n).toNat
  c + BitVec.ofInt 32 ((List.range count).foldl (fun t k => t + el sa a k * el sb b k) (0 : Int))
/-- Which elements DOT4 and DOT2 take as signed. -/
def dotSigns : DotMode → Bool × Bool
  | .ss => (true, true)
  | .uu => (false, false)
  | .su => (true, false)

/-! ## VI -/

/-- VI.ADD (R201). -/
def execViAdd (w : FmtA (Dest (Fin 256)) Src Src Unit Unit) (s : State) : Host.Outcome State Fault Refusal :=
  laneWord2 w (· + ·) s
/-- VI.SUB (R201). -/
def execViSub (w : FmtA (Dest (Fin 256)) Src Src Unit Unit) (s : State) : Host.Outcome State Fault Refusal :=
  laneWord2 w (· - ·) s
/-- VI.MUL (R201). -/
def execViMul (w : FmtA (Dest (Fin 256)) Src Src Unit Unit) (s : State) : Host.Outcome State Fault Refusal :=
  laneWord2 w (· * ·) s
/-- VI.MULH (R201). -/
def execViMulh (w : FmtA (Dest (Fin 256)) Src Src Unit Unit) (s : State) : Host.Outcome State Fault Refusal :=
  laneWord2 w mulHi s
/-- VI.MULHU (R201). -/
def execViMulhu (w : FmtA (Dest (Fin 256)) Src Src Unit Unit) (s : State) : Host.Outcome State Fault Refusal :=
  laneWord2 w mulHiU s
/-- VI.MAD (R201). -/
def execViMad (w : FmtA (Dest (Fin 256)) Src Src Src Unit) (s : State) : Host.Outcome State Fault Refusal :=
  laneWord w [w.a, w.b, w.cc] (fun x i => x.lane w.a i * x.lane w.b i + x.lane w.cc i) s
/-- VI.MAD64 (R203): (a × b + c)[63:0], a and b signed, or unsigned under .U. -/
def execViMad64 (w : FmtA (Fin 128) Src Src Src64 Bool) (s : State) : Host.Outcome State Fault Refusal :=
  lanePairWord w [w.a, w.b] (fun x i =>
    if w.mod then (x.lane w.a i).setWidth 64 * (x.lane w.b i).setWidth 64 + x.lane64 w.cc i
    else (x.lane w.a i).signExtend 64 * (x.lane w.b i).signExtend 64 + x.lane64 w.cc i) s
/-- VI.AND (R201). -/
def execViAnd (w : FmtA (Dest (Fin 256)) Src Src Unit Unit) (s : State) : Host.Outcome State Fault Refusal :=
  laneWord2 w (· &&& ·) s
/-- VI.OR (R201). -/
def execViOr (w : FmtA (Dest (Fin 256)) Src Src Unit Unit) (s : State) : Host.Outcome State Fault Refusal :=
  laneWord2 w (· ||| ·) s
/-- VI.XOR (R201). -/
def execViXor (w : FmtA (Dest (Fin 256)) Src Src Unit Unit) (s : State) : Host.Outcome State Fault Refusal :=
  laneWord2 w (· ^^^ ·) s
/-- VI.NOT (R201). -/
def execViNot (w : FmtA (Dest (Fin 256)) Src Unit Unit Unit) (s : State) : Host.Outcome State Fault Refusal :=
  laneWord w [w.a] (fun x i => ~~~ (x.lane w.a i)) s
/-- VI.SHL (R201). -/
def execViShl (w : FmtA (Dest (Fin 256)) Src Src Unit Unit) (s : State) : Host.Outcome State Fault Refusal :=
  laneWord2 w shl s
/-- VI.SHR (R201). -/
def execViShr (w : FmtA (Dest (Fin 256)) Src Src Unit Unit) (s : State) : Host.Outcome State Fault Refusal :=
  laneWord2 w shr s
/-- VI.SRA (R201). -/
def execViSra (w : FmtA (Dest (Fin 256)) Src Src Unit Unit) (s : State) : Host.Outcome State Fault Refusal :=
  laneWord2 w sra s
/-- VI.MIN (R201). -/
def execViMin (w : FmtA (Dest (Fin 256)) Src Src Unit Unit) (s : State) : Host.Outcome State Fault Refusal :=
  laneWord2 w minS s
/-- VI.MAX (R201). -/
def execViMax (w : FmtA (Dest (Fin 256)) Src Src Unit Unit) (s : State) : Host.Outcome State Fault Refusal :=
  laneWord2 w maxS s
/-- VI.MINU (R201). -/
def execViMinu (w : FmtA (Dest (Fin 256)) Src Src Unit Unit) (s : State) : Host.Outcome State Fault Refusal :=
  laneWord2 w minU s
/-- VI.MAXU (R201). -/
def execViMaxu (w : FmtA (Dest (Fin 256)) Src Src Unit Unit) (s : State) : Host.Outcome State Fault Refusal :=
  laneWord2 w maxU s
/-- VI.ABS (R201): |a| modulo 2^32. -/
def execViAbs (w : FmtA (Dest (Fin 256)) Src Unit Unit Unit) (s : State) : Host.Outcome State Fault Refusal :=
  laneWord w [w.a] (fun x i => let a := x.lane w.a i; if a.msb then 0 - a else a) s
/-- VI.NEG (R201). -/
def execViNeg (w : FmtA (Dest (Fin 256)) Src Unit Unit Unit) (s : State) : Host.Outcome State Fault Refusal :=
  laneWord w [w.a] (fun x i => 0 - x.lane w.a i) s
/-- VI.ADDS (R201): a + b saturated, unsigned under .U; no flag. -/
def execViAdds (w : FmtA (Dest (Fin 256)) Src Src Unit Bool) (s : State) : Host.Outcome State Fault Refusal :=
  laneWord2 w (fun a b => saturate w.mod (intOf w.mod a + intOf w.mod b)) s
/-- VI.SUBS (R201): a − b saturated. -/
def execViSubs (w : FmtA (Dest (Fin 256)) Src Src Unit Bool) (s : State) : Host.Outcome State Fault Refusal :=
  laneWord2 w (fun a b => saturate w.mod (intOf w.mod a - intOf w.mod b)) s
/-- VI.CLZ (R201). -/
def execViClz (w : FmtA (Dest (Fin 256)) Src Unit Unit Unit) (s : State) : Host.Outcome State Fault Refusal :=
  laneWord w [w.a] (fun x i => clz (x.lane w.a i)) s
/-- VI.POPC (R201). -/
def execViPopc (w : FmtA (Dest (Fin 256)) Src Unit Unit Unit) (s : State) : Host.Outcome State Fault Refusal :=
  laneWord w [w.a] (fun x i => popc (x.lane w.a i)) s
/-- VI.BFE (R202), sign-extended under .S. -/
def execViBfe (w : FmtA (Dest (Fin 256)) Src Src Unit Bool) (s : State) : Host.Outcome State Fault Refusal :=
  laneWord2 w (bfe w.mod) s
/-- VI.BFI (R202). -/
def execViBfi (w : FmtA (Dest (Fin 256)) Src Src Src Unit) (s : State) : Host.Outcome State Fault Refusal :=
  laneWord w [w.a, w.b, w.cc] (fun x i => bfi (x.lane w.a i) (x.lane w.b i) (x.lane w.cc i)) s
/-- VI.SEL (R201): a if predicate field C holds in the lane, else b. -/
def execViSel (w : FmtA (Dest (Fin 256)) Src Src PSrc Unit) (s : State) : Host.Outcome State Fault Refusal :=
  laneWord w [w.a, w.b] (fun x i =>
    if hasLane (x.predLanes w.cc) i then x.lane w.a i else x.lane w.b i) s
/-- VI.DOT4 (R203). -/
def execViDot4 (w : FmtA (Dest (Fin 256)) Src Src Src DotMode) (s : State) : Host.Outcome State Fault Refusal :=
  laneWord w [w.a, w.b, w.cc] (fun x i =>
    dot 8 4 (dotSigns w.mod).1 (dotSigns w.mod).2 (x.lane w.a i) (x.lane w.b i) (x.lane w.cc i)) s
/-- VI.DOT2 (R203). -/
def execViDot2 (w : FmtA (Dest (Fin 256)) Src Src Src DotMode) (s : State) : Host.Outcome State Fault Refusal :=
  laneWord w [w.a, w.b, w.cc] (fun x i =>
    dot 16 2 (dotSigns w.mod).1 (dotSigns w.mod).2 (x.lane w.a i) (x.lane w.b i) (x.lane w.cc i)) s
/-- VI.ADD64 (R201), on pairs. -/
def execViAdd64 (w : FmtA (Fin 128) Src64 Src64 Unit Unit) (s : State) : Host.Outcome State Fault Refusal :=
  lanePairWord w [] (fun x i => x.lane64 w.a i + x.lane64 w.b i) s
/-- VI.SUB64 (R201), on pairs. -/
def execViSub64 (w : FmtA (Fin 128) Src64 Src64 Unit Unit) (s : State) : Host.Outcome State Fault Refusal :=
  lanePairWord w [] (fun x i => x.lane64 w.a i - x.lane64 w.b i) s
/-! ## VJ (R204) -/

/-- VJ.ADDI. -/
def execVjAddi (w : FmtI (Dest (Fin 256)) Src) (s : State) : Host.Outcome State Fault Refusal :=
  laneImm w (fun a => a + w.imm.signExtend 32) s
/-- VJ.ANDI. -/
def execVjAndi (w : FmtI (Dest (Fin 256)) Src) (s : State) : Host.Outcome State Fault Refusal :=
  laneImm w (fun a => a &&& w.imm.signExtend 32) s
/-- VJ.ORI. -/
def execVjOri (w : FmtI (Dest (Fin 256)) Src) (s : State) : Host.Outcome State Fault Refusal :=
  laneImm w (fun a => a ||| w.imm.setWidth 32) s
/-- VJ.XORI. -/
def execVjXori (w : FmtI (Dest (Fin 256)) Src) (s : State) : Host.Outcome State Fault Refusal :=
  laneImm w (fun a => a ^^^ w.imm.setWidth 32) s
/-- VJ.SHLI. -/
def execVjShli (w : FmtI (Dest (Fin 256)) Src) (s : State) : Host.Outcome State Fault Refusal :=
  laneImm w (fun a => a <<< (w.imm.extractLsb' 0 5).toNat) s
/-- VJ.MOVI: IMM23 sign-extended. -/
def execVjMovi (w : FmtI (Dest (Fin 256)) Unit) (s : State) : Host.Outcome State Fault Refusal :=
  onPath s (fun x =>
    (x.putLanes w.d (x.active w.g) w.q (fun _ => w.imm.signExtend 32)).commit)

end Sys2Proof.Machine
end

