-- ==== Sys2Proof/Machine/Cross.lean ====
section
/-! DEFINITION. The cross-lane class CL (11 R218 to R224, R227). -/
namespace Sys2Proof.Machine
open Sys2Proof

/-! ## What a source lane supplies (R218) -/

/-- Lane j of register n as a CL source: 0 for an exited lane and for an index at or beyond W. -/
def View.laneOf (x : View) (n j : Nat) : Word := if j < x.w ∧ ¬ hasLane x.g.exited j then x.g.vreg n j else 0

/-- A CL word with a vector result: nothing is written when no lane is active. -/
def crossWord {α β γ μ : Type} (w : FmtA (Dest (Fin 256)) α β γ μ) (reads : Bool) (f : View → Nat → Word) (s : State) :
    Host.Outcome State Fault Refusal :=
  onPath s (fun x =>
    let y := x.sample (reads && x.guardOn w.g)
    (y.putLanes w.d (y.active w.g) w.q (f y)).commit)
/-- A CL word with one result: to every active lane of a vector register, or once to a uniform register, with the latch
uniform then (R221). With WS = 1 the result goes to every active lane of the latch (DEDUCED, log 18). -/
def crossOne {α β γ μ : Type} (w : FmtA (Dest VSReg) α β γ μ) (reads : Bool) (f : View → Word × FFlags) (s : State) :
    Host.Outcome State Fault Refusal :=
  onPath s (fun x =>
    let y := x.sample (reads && x.guardOn w.g)
    let m := y.active w.g &&& lowLanes y.w
    match w.d with
    | .reg (.s n) =>
      if m = 0 then (y.skip w.q .uni).commit else ((y.putUni (.reg n) w.q (f y).1).setFlags (f y).2).commit
    | .reg (.v n) =>
      if m = 0 then (y.skip w.q .lane).commit
      else ((y.putLanes (.reg n) m w.q (fun _ => (f y).1)).setFlags (f y).2).commit
    | .latch =>
      if m = 0 then (y.skip w.q .lane).commit
      else ((y.putLanes .latch m w.q (fun _ => (f y).1)).setFlags (f y).2).commit)

/-! ## SHFL and SHFX (R220) -/

/-- The lane that a mode names, none below 0. -/
def shflLane (m : ShflMode) (i b : Nat) : Option Nat :=
  match m with
  | .idx => some b
  | .up => if b ≤ i then some (i - b) else none
  | .dn => some (i + b)
  | .xor => some (i ^^^ b)

/-- CL.SHFL (R220). -/
def execClShfl (w : FmtA (Dest (Fin 256)) (Fin 256) Src Unit ShflMode) (s : State) :
    Host.Outcome State Fault Refusal :=
  crossWord w (Src.isClk w.b) (fun x i =>
    match shflLane w.mod i (x.lane w.b i).toNat with
    | some j => x.laneOf w.a.val j
    | none => 0) s
/-- CL.SHFX: the same within segments of 2^g lanes (R220). -/
def execClShfx (w : FmtA (Dest (Fin 256)) (Fin 256) Src Unit ShfxMod) (s : State) :
    Host.Outcome State Fault Refusal :=
  crossWord w (Src.isClk w.b) (fun x i =>
    let seg := 2 ^ w.mod.g.val
    match shflLane w.mod.mode (i % seg) (x.lane w.b i).toNat with
    | some j => if j < seg then x.laneOf w.a.val (i - i % seg + j) else 0
    | none => 0) s

/-! ## RFL, RDL, WRL (R221) -/

/-- CL.RFL: the value in the lowest active lane. -/
def execClRfl (w : FmtA (Dest VSReg) (Fin 256) Unit Unit Unit) (s : State) : Host.Outcome State Fault Refusal :=
  crossOne w false (fun x => (x.laneOf w.a.val (lowestLane (x.active w.g &&& lowLanes x.w)), .none)) s
/-- CL.RDL: the value in lane b. -/
def execClRdl (w : FmtA (Dest VSReg) (Fin 256) USrc Unit Unit) (s : State) : Host.Outcome State Fault Refusal :=
  crossOne w (USrc.isClk w.b) (fun x => (x.laneOf w.a.val (x.uni w.b).toNat, .none)) s
/-- CL.WRL: lane b alone is written, and only when it is active. -/
def execClWrl (w : FmtA (Fin 256) USrc USrc Unit Unit) (s : State) : Host.Outcome State Fault Refusal :=
  onPath s (fun x =>
    let y := x.sample ((USrc.isClk w.a || USrc.isClk w.b) && x.guardOn w.g)
    let b := (y.uni w.b).toNat
    let g := if b < y.w ∧ hasLane (y.active w.g) b then y.g.setV w.d.val b (y.uni w.a) else y.g
    { y with g := g, p := y.p.retire w.q .none }.commit)

/-! ## RED and SCAN (R222, 07 R135, R136) -/

/-- An operation of a reduction on 32-bit values, with flags; a NaN is canonical whatever NANC says (R136). -/
def RedOp.op (v : FEnv) : RedOp → Word → Word → Word × FFlags
  | .add, a, b => (a + b, .none)
  | .fadd, a, b => let r := FFmt.f32.add { v with nanc := true } a.toNat b.toNat; (BitVec.ofNat 32 r.1, r.2)
  | .min, a, b => (minS a b, .none)
  | .max, a, b => (maxS a b, .none)
  | .minu, a, b => (minU a b, .none)
  | .maxu, a, b => (maxU a b, .none)
  | .fmin, a, b => let r := FFmt.f32.minMax { v with nanc := true } false a.toNat b.toNat; (BitVec.ofNat 32 r.1, r.2)
  | .fmax, a, b => let r := FFmt.f32.minMax { v with nanc := true } true a.toNat b.toNat; (BitVec.ofNat 32 r.1, r.2)
  | .and, a, b => (a &&& b, .none)
  | .or, a, b => (a ||| b, .none)
  | .xor, a, b => (a ^^^ b, .none)
/-- The operation is a floating one. -/
def RedOp.isFloat (o : RedOp) : Bool := o == .fadd || o == .fmin || o == .fmax
/-- What a scan writes: a value that no step has touched is an input, and a NaN among the inputs of a lane's prefix gives
the canonical NaN (07 R136). -/
def RedOp.scanned (o : RedOp) (a : Word) : Word :=
  if RedOp.isFloat o then BitVec.ofNat 32 (FFmt.f32.canonNan a.toNat) else a
/-- The identity that an inactive lane contributes (R222). -/
def RedOp.identity : RedOp → Word
  | .add => 0
  | .fadd => 0x80000000
  | .min => 0x7FFFFFFF
  | .max => 0x80000000
  | .minu => 0xFFFFFFFF
  | .maxu => 0
  | .fmin => 0x7F800000
  | .fmax => 0xFF800000
  | .and => 0xFFFFFFFF
  | .or => 0
  | .xor => 0

/-- One level of the lane tree: (lower half) op (upper half) of each block (05 R100). -/
def treeLevel {α : Type} (f : α → α → α) : List α → List α
  | a :: b :: xs => f a b :: treeLevel f xs
  | xs => xs
/-- The lane tree over 2^n values. -/
def laneTree {α : Type} (f : α → α → α) : Nat → List α → List α
  | 0, xs => xs
  | n + 1, xs => laneTree f n (treeLevel f xs)
/-- One step of a scan: each c ≥ d takes (value at c − d) op (value at c), the others keep theirs (05 R100). -/
def scanStep {α : Type} (f : α → α → α) (d : Nat) (xs : List α) : List α := xs.take d ++ List.zipWith f xs (xs.drop d)
/-- The scan of 2^n values: steps t = 0 to n − 1. -/
def scanAll {α : Type} (f : α → α → α) (xs : List α) : Nat → List α
  | 0 => xs
  | n + 1 => scanStep f (2 ^ n) (scanAll f xs n)

/-- A value with the flags of the steps that it comes from. -/
def withFlags {α : Type} (f : α → α → α × FFlags) (a b : α × FFlags) : α × FFlags :=
  let r := f a.1 b.1
  (r.1, a.2 ||| b.2 ||| r.2)

/-- What the lanes contribute: the active lanes' values, the identity elsewhere. -/
def View.contributions (x : View) (n : Nat) (m : Lanes) (ident : Word) : List (Word × FFlags) :=
  (List.range x.w).map (fun i => (if hasLane m i then x.laneOf n i else ident, .none))

/-- CL.RED (R222). -/
def execClRed (w : FmtA (Dest VSReg) (Fin 256) Unit Unit RedOp) (s : State) : Host.Outcome State Fault Refusal :=
  crossOne w false (fun x =>
    (laneTree (withFlags (RedOp.op (FEnv.of x.p.fmt) w.mod)) (Nat.log2 x.w)
      (x.contributions w.a.val (x.active w.g) (RedOp.identity w.mod))).headD (0, .none)) s
/-- CL.SCAN: the inclusive prefix over lane indices, written in active lanes; the flags are those of the steps that the
written values come from (DEDUCED, log 18). -/
def execClScan (w : FmtA (Dest (Fin 256)) (Fin 256) Unit Unit RedOp) (s : State) : Host.Outcome State Fault Refusal :=
  onPath s (fun x =>
    let m := x.active w.g
    let r := scanAll (withFlags (RedOp.op (FEnv.of x.p.fmt) w.mod)) (x.contributions w.a.val m (RedOp.identity w.mod)) (Nat.log2 x.w)
    let fl := (lanesBelow x.w m).foldl (fun a i => a ||| (r.getD i (0, .none)).2) FFlags.none
    ((x.putLanes w.d m w.q (fun i => RedOp.scanned w.mod (r.getD i (0, .none)).1)).setFlags fl).commit)

/-! ## Votes (R223) -/

/-- CL.BALLOT: bit i set when lane i is active and the predicate holds there. -/
def execClBallot (w : FmtA (Fin 32) PSrc Unit Unit Unit) (s : State) : Host.Outcome State Fault Refusal :=
  onPath s (fun x =>
    let m := x.active w.g &&& lowLanes x.w
    let g := if m = 0 then x.g else x.g.setSpair (2 * w.d.val) (m &&& x.predLanes w.a)
    { x with g := g, p := x.p.retire w.q .none }.commit)
/-- A vote to a uniform predicate. -/
def voteWord (w : FmtA (Fin 16) PSrc Unit Unit Unit) (f : Lanes → Lanes → Bool) (s : State) :
    Host.Outcome State Fault Refusal :=
  onPath s (fun x =>
    let m := x.active w.g &&& lowLanes x.w
    let g := if m = 0 then x.g else x.g.setQ w.d.val (f m (x.predLanes w.a))
    { x with g := g, p := x.p.retire w.q .none }.commit)
/-- CL.ANY. -/
def execClAny (w : FmtA (Fin 16) PSrc Unit Unit Unit) (s : State) : Host.Outcome State Fault Refusal :=
  voteWord w (fun m p => (m &&& p) != 0) s
/-- CL.ALL. -/
def execClAll (w : FmtA (Fin 16) PSrc Unit Unit Unit) (s : State) : Host.Outcome State Fault Refusal :=
  voteWord w (fun m p => (m &&& p) == m) s

/-! ## SHTL (R224) -/

/-- Values supplied for the n-th exchange, as lane images. -/
def Group.supplied (g : Group) (n : Nat) (i : Nat) : Word := SMap.getD g.shtl (64 * n + i) 0
/-- The values of the n-th exchange put away for the partner's matching word. -/
def Group.supply (g : Group) (w n : Nat) (f : Nat → Word) : Group :=
  { g with shtl := (List.range w).foldl (fun m i => SMap.put m (64 * n + i) (f i)) g.shtl }
/-- They have been taken. -/
def Group.taken (g : Group) (w n : Nat) : Group :=
  { g with shtl := (List.range w).foldl (fun m i => SMap.del m (64 * n + i)) g.shtl }
/-- The partner's lanes written into the destination of the active lanes, or into the latch alone. -/
def Group.receive (g : Group) (w : Nat) (dest : Option Nat) (m : Lanes) (f : Nat → Word) : Group :=
  match dest with
  | some n => (lanesBelow w m).foldl (fun g i => g.setV n i (f i)) g
  | none => g
/-- The path that waited goes on, its latch filled. -/
def Path.received (p : Path) (w : Nat) (m : Lanes) (latch : Nat) (f : Nat → Word) : Path :=
  { p with
    wait := .none
    latches := p.latches.set latch (.lanes ((lanesBelow w m).map (fun i => (i, f i)))) }

/-- A waiting exchange of a group is completed with the values given. -/
def State.finishShtl (s : State) (grp w n : Nat) (f : Nat → Word) : State :=
  match (s.pathsOf grp).find? (fun e => match e.2.wait with | .shtl k _ _ _ => k == n | _ => false) with
  | some (pid, p) => match p.wait with
    | .shtl _ dest m latch =>
      (s.modGroup grp (fun g => g.receive w dest m f)).setPath pid (p.received w m latch f)
    | _ => s
  | none => s

/-- The group on the other side of the twin pair, while it has not retired. -/
def View.partner (x : View) : Option (Nat × Group) :=
  x.s.groups.find? (fun e => e.2.team == x.tid && e.2.idx == x.g.idx ^^^ 1 && !e.2.retired)

/-- CL.SHTL: the n-th exchange of the group, whatever its guard and EXEC. Outside a twin pair it faults, whatever its guard too:
R224 has no exception, and by R227 its ILLEGAL-INSTRUCTION still applies (08 R141 lets a guard that does not hold raise
nothing; DESIGN CHOICE, log 68). -/
def execClShtl (w : FmtA (Dest (Fin 256)) (Fin 256) Unit Unit Unit) (s : State) : Host.Outcome State Fault Refusal :=
  onPath s (fun x =>
    if !x.e.body.twin then x.raise .illegalInstruction 0 0 0
    else
      let m := x.active w.g &&& lowLanes x.w
      let n := x.g.shtlCount
      let mine := fun i => x.laneOf w.a.val i
      let g1 := { x.g with shtlCount := n + 1 }
      match x.partner with
      | none => ({ x with g := g1 }.putLanes w.d m w.q (fun _ => 0)).commit
      | some (h, ph) =>
        if n < ph.shtlCount then
          let y := { x with g := g1 }.putLanes w.d m w.q (ph.supplied n)
          (y.commit.modGroup h (fun g => g.taken x.w n)).finishShtl h x.w n mine
        else
          let y := { x with g := g1.supply x.w n mine }.retire w.q (.lanes [])
          { y with p := { y.p with wait := .shtl n (match w.d with | .reg d => some d.val | .latch => none) m x.p.latches.length } }.commit)

/-- A group has retired: an exchange that its partner waits for receives 0 (R224). -/
def State.shtlRetired (s : State) (grp w : Nat) : State :=
  match SMap.find? s.groups grp with
  | none => s
  | some g =>
    match s.groups.find? (fun e => e.2.team == g.team && e.2.idx == g.idx ^^^ 1 && !e.2.retired) with
    | none => s
    | some (h, _) =>
      (s.pathsOf h).foldl (fun s e => match e.2.wait with
        | .shtl k _ _ _ => if g.shtlCount ≤ k then s.finishShtl h w k (fun _ => 0) else s
        | _ => s) s

end Sys2Proof.Machine
end

