-- ==== Sys2Proof/Machine/Plane.lean ====
section
/-! DEFINITION. Planes and folding (05 R93 to R102), the plane class PL and the fold class FD (12 R228 to R241). -/
namespace Sys2Proof.Machine
open Sys2Proof

/-! ## The fold word (R93, R94) -/

/-- The fields of a fold word. -/
structure FoldWord where
  s1 : Nat
  s0 : Nat
  edge : Nat
  ew : Nat
  ky : Bool
  kx : Bool
  my : Nat
  mx : Nat
  gy : Nat
  gx : Nat
  deriving DecidableEq, Repr

/-- Bits [hi:lo] of a 64-bit word. -/
def bitsOf (w : DWord) (lo n : Nat) : Nat := w.toNat / 2 ^ lo % 2 ^ n
/-- The fields of a fold word (R93). -/
def FoldWord.of (w : DWord) : FoldWord :=
  ⟨bitsOf w 24 4, bitsOf w 20 4, bitsOf w 18 2, bitsOf w 16 2, w.getLsbD 15, w.getLsbD 14,
   bitsOf w 10 4, bitsOf w 6 4, bitsOf w 3 3, bitsOf w 0 3⟩
/-- Bytes of an element. -/
def FoldWord.ewb (f : FoldWord) : Nat := 2 ^ f.ew
/-- Elements of the plane in one lane. -/
def FoldWord.locals (f : FoldWord) : Nat := 2 ^ (f.mx + f.my + f.s0 + f.s1)
/-- Registers of the plane in each lane (R94). -/
def FoldWord.nreg (f : FoldWord) : Nat := ceilDiv (f.locals * f.ewb) 4
/-- The checks of FD.SET on a word (R94, R239). -/
def foldOk (w : DWord) (width : Nat) : Bool :=
  let f := FoldWord.of w
  decide (w.toNat < 2 ^ 28) && decide (2 ^ (f.gx + f.gy) ≤ width) && decide (f.mx ≤ 10) && decide (f.my ≤ 10) &&
    decide (f.nreg ≤ 256)

/-- The coordinates of an element: x, y, s0, s1. -/
structure Coord where
  x : Nat
  y : Nat
  s0 : Nat
  s1 : Nat
  deriving DecidableEq, Repr

/-- Grid and local coordinate of a position along an axis (R96). -/
def foldAxis (crinkled : Bool) (g m c : Nat) : Nat × Nat := if crinkled then (c / m, c % m) else (c % g, c / g)
/-- The position that a grid and a local coordinate stand for. -/
def unfoldAxis (crinkled : Bool) (g m gc lc : Nat) : Nat := if crinkled then gc * m + lc else lc * g + gc
/-- fold_place (R96): lane in the replica and local element index; the register is e × EWB div 4, the byte
e × EWB mod 4. -/
def FoldWord.place (f : FoldWord) (c : Coord) : Nat × Nat :=
  let (gx, lx) := foldAxis f.kx (2 ^ f.gx) (2 ^ f.mx) c.x
  let (gy, ly) := foldAxis f.ky (2 ^ f.gy) (2 ^ f.my) c.y
  (gy * 2 ^ f.gx + gx, ((c.s1 * 2 ^ f.s0 + c.s0) * 2 ^ f.my + ly) * 2 ^ f.mx + lx)
/-- The element that a lane of the replica holds at a local index. -/
def FoldWord.coord (f : FoldWord) (lane e : Nat) : Coord :=
  { x := unfoldAxis f.kx (2 ^ f.gx) (2 ^ f.mx) (lane % 2 ^ f.gx) (e % 2 ^ f.mx)
    y := unfoldAxis f.ky (2 ^ f.gy) (2 ^ f.my) (lane / 2 ^ f.gx) (e / 2 ^ f.mx % 2 ^ f.my)
    s0 := e / 2 ^ (f.mx + f.my) % 2 ^ f.s0
    s1 := e / 2 ^ (f.mx + f.my + f.s0) }
/-- The extent of an axis. -/
def FoldWord.extent (f : FoldWord) : Axis → Nat
  | .x => 2 ^ (f.gx + f.mx)
  | .y => 2 ^ (f.gy + f.my)
  | .s0 => 2 ^ f.s0
  | .s1 => 2 ^ f.s1
/-- A coordinate along an axis. -/
def Coord.get (c : Coord) : Axis → Nat
  | .x => c.x
  | .y => c.y
  | .s0 => c.s0
  | .s1 => c.s1
/-- A coordinate along an axis set. -/
def Coord.set (c : Coord) (a : Axis) (n : Nat) : Coord :=
  match a with
  | .x => { c with x := n }
  | .y => { c with y := n }
  | .s0 => { c with s0 := n }
  | .s1 => { c with s1 := n }

/-! ## Movement and edges (R99, R100) -/

/-- src_coord (R99): edge 0 ZERO, 1 WRAP, 2 CLAMP, 3 MIRROR. -/
def srcCoord (c d : Nat) (down : Bool) (n edge : Nat) : Option Nat :=
  let j : Int := if down then (c : Int) + d else (c : Int) - d
  if 0 ≤ j ∧ j < n then some j.toNat
  else if edge = 0 then none
  else if edge = 1 then some (j % n).toNat
  else if edge = 2 then some (if j < 0 then 0 else n - 1)
  else if n = 1 then some 0
  else
    let p := 2 * (n - 1)
    let k := (j % p).toNat
    some (if k < n then k else p - k)
/-- The edge in force: the word's override, else the fold word's own (R99). -/
def edgeOf (e : EdgeSel) (f : FoldWord) : Nat :=
  match e with
  | .own => f.edge
  | .zero => 0
  | .wrap => 1
  | .clamp => 2
  | .mirror => 3

/-! ## Elements in registers -/

/-- The element at a local index of a lane, from consecutive registers that `reg` supplies. -/
def elemOf (reg : Nat → Word) (ew e : Nat) : Nat :=
  if ew = 3 then (reg (2 * e)).toNat + 2 ^ 32 * (reg (2 * e + 1)).toNat
  else
    let k := e * 2 ^ ew
    (reg (k / 4)).toNat / 2 ^ (8 * (k % 4)) % 2 ^ (8 * 2 ^ ew)
/-- The element at a local index of a lane written; other bytes stay (R96). -/
def Group.putElem (g : Group) (base lane ew e v : Nat) : Group :=
  if ew = 3 then g.setVpair (base + 2 * e) lane (BitVec.ofNat 64 v)
  else
    let k := e * 2 ^ ew
    let r := base + k / 4
    if ew = 2 then g.setV r lane (BitVec.ofNat 32 v)
    else g.setVpart r lane (k % 4) (2 ^ ew) v
/-- The registers of a lane that a plane covers whole carry no poison once it has been written (01 R36). -/
def Group.wipePlane (g : Group) (f : FoldWord) (base lane : Nat) : Group :=
  (List.range (f.locals * f.ewb / 4)).foldl (fun g r => g.wipe (64 * (base + r) + lane)) g
/-- An element of the plane that a replica holds (R95, R96, R98). -/
def View.elem (x : View) (f : FoldWord) (base rep : Nat) (c : Coord) : Nat :=
  let (l, e) := f.place c
  elemOf (fun r => x.laneOf (base + r) (rep * 2 ^ (f.gx + f.gy) + l)) f.ew e

/-! ## Fold-reduce and scan (R100, R233, R135) -/

/-- The floating format of a type, where it fits the element width (R233). -/
def foldFloat (t : FoldType) (ew : Nat) : Option FFmt :=
  match t with
  | .f => if ew = 1 then some .f16 else if ew = 2 then some .f32 else if ew = 3 then some .f64 else none
  | .bf => if ew = 1 then some .bf16 else none
  | .e4m3 => if ew = 0 then some .fE4m3 else none
  | .e5m2 => if ew = 0 then some .fE5m2 else none
  | _ => none
/-- A type fits the element width. -/
def foldFits (t : FoldType) (ew : Nat) : Bool :=
  match t with
  | .i => true
  | .n => true
  | _ => (foldFloat t ew).isSome
/-- A signed value as a number that keeps its order. -/
def biased (n a : Nat) : Nat := (a + 2 ^ (n - 1)) % 2 ^ n
/-- One operation of a reduction: for a floating type VF.ADD, VF.MAX or VF.MIN in its format. -/
def foldOp (m : FoldMod) (ew : Nat) (v : FEnv) (a b : Nat) : Nat × FFlags :=
  let n := 8 * 2 ^ ew
  match foldFloat m.ty ew with
  | some f =>
    match m.op with
    | .add => f.add v a b
    | .max => f.minMax v true a b
    | .min => f.minMax v false a b
  | none =>
    let lt := if m.ty = .i then decide (biased n a < biased n b) else decide (a < b)
    match m.op with
    | .add => ((a + b) % 2 ^ n, .none)
    | .max => (if lt then b else a, .none)
    | .min => (if lt then a else b, .none)
/-- The inputs of a floating reduction hold a NaN, or a sum's hold both infinities (07 R136). -/
def FFmt.noNumber (f : FFmt) (sum : Bool) (xs : List Nat) : Bool :=
  xs.any (fun a => (f.val a).isNan) ||
    (sum && xs.any (fun a => f.val a == .inf false) && xs.any (fun a => f.val a == .inf true))
/-- What a reduction of some inputs gives: the canonical NaN under R136, and its steps' result `r` otherwise. -/
def foldResult (m : FoldMod) (ew : Nat) (xs : List Nat) (r : Nat) : Nat :=
  match foldFloat m.ty ew with
  | some f => if f.noNumber (m.op == .add) xs then f.nanBits else r
  | none => r
/-- The identity of a reduction (R233, R135). -/
def foldIdentity (m : FoldMod) (ew : Nat) : Nat :=
  let n := 8 * 2 ^ ew
  match foldFloat m.ty ew with
  | some f =>
    let top := if f.e4m3 then f.maxBits else f.infBits
    match m.op with
    | .add => f.signBit
    | .max => f.sign true top
    | .min => top
  | none =>
    match m.op with
    | .add => 0
    | .max => if m.ty = .i then 2 ^ (n - 1) else 0
    | .min => if m.ty = .i then 2 ^ (n - 1) - 1 else 2 ^ n - 1

/-- The reduction of the line through a coordinate, in the order of R100. -/
def foldLine (f : FoldWord) (a : Axis) (op : Nat → Nat → Nat × FFlags) (ident : Nat) (at_ : Nat → Nat) :
    Nat × FFlags :=
  let g := withFlags op
  let lane (cr : Bool) (gl ml : Nat) : Nat × FFlags :=
    (laneTree g gl ((List.range (2 ^ gl)).map (fun gc =>
      (List.range (2 ^ ml)).foldl (fun r lc => g r (at_ (unfoldAxis cr (2 ^ gl) (2 ^ ml) gc lc), .none))
        (ident, .none)))).headD (ident, .none)
  match a with
  | .x => lane f.kx f.gx f.mx
  | .y => lane f.ky f.gy f.my
  | .s0 => (List.range (2 ^ f.s0)).foldl (fun r k => g r (at_ k, .none)) (ident, .none)
  | .s1 => (List.range (2 ^ f.s1)).foldl (fun r k => g r (at_ k, .none)) (ident, .none)

/-! ## The shape of a plane word (R229, R230) -/

/-- The destination written in the active lanes: every element of the plane that an active lane holds takes its new
value, with the flags that the values carry (R230, R233). All reads are of the view before the word. -/
def View.writePlane (x : View) (f : FoldWord) (base : Nat) (m : Lanes) (val : Nat → Coord → Nat × FFlags) : View :=
  let gl := 2 ^ (f.gx + f.gy)
  let out := (lanesBelow x.w m).map (fun l =>
    (l, (List.range f.locals).map (fun e => val (l / gl) (f.coord (l % gl) e))))
  let g := out.foldl (fun g r => ((r.2.zipIdx).foldl (fun g v => g.putElem base r.1 f.ew v.2 v.1.1) g).wipePlane f base r.1) x.g
  let fl := out.foldl (fun a r => r.2.foldl (fun a v => a ||| v.2) a) FFlags.none
  { x with g := g }.setFlags fl
/-- A plane word: the checks of R229 in order, made when a lane is active; then the write. `extra` is the check of the
word's own: its fault. -/
def planeWord {μ : Type} (w : FmtP μ) (src dst : View → DWord) (extra : FoldWord → FoldWord → Option Code)
    (val : View → FoldWord → Nat → Coord → Nat × FFlags) (s : State) : Host.Outcome State Fault Refusal :=
  onPath s (fun x =>
    let m := x.active w.g &&& lowLanes x.w
    if m = 0 then (x.retire w.q .none).commit
    else
      let f := FoldWord.of (src x)
      let d := FoldWord.of (dst x)
      if (f.ew = 3 ∧ w.a.val % 2 = 1) ∨ (d.ew = 3 ∧ w.d.val % 2 = 1) then x.raise .illegalOperand 0 m 0
      else match extra f d with
      | some c => x.raise c 0 m 0
      | none =>
        if x.regs < w.a.val + f.nreg ∨ x.regs < w.d.val + d.nreg then x.raise .registerRange 0 m 0
        else ((x.writePlane d w.d.val m (val x f)).retire w.q .none).commit)
/-- The fold word in FREG, read at issue (R237). -/
def View.freg {μ : Type} (x : View) (w : FmtP μ) : DWord := x.g.fold w.freg.val
/-- A movement: each element takes the source element that a map names, or zero bytes. -/
def moveWord (w : FmtP Unit) (extra : FoldWord → FoldWord → Option Code) (m : FoldWord → Coord → Option Coord)
    (s : State) : Host.Outcome State Fault Refusal :=
  planeWord w (fun x => x.freg w) (fun x => x.freg w) extra (fun x f rep c =>
    match m f c with
    | some d => (x.elem f w.a.val rep d, .none)
    | none => (0, .none)) s
/-- A shift along the word's axis with an edge. -/
def shiftMap (w : FmtP Unit) (edge : FoldWord → Nat) (f : FoldWord) (c : Coord) : Option Coord :=
  (srcCoord (c.get w.axis) w.dist.toNat w.down (f.extent w.axis) (edge f)).map (c.set w.axis)

/-! ## PL (R231 to R235) -/

/-- PL.SHF (R231). -/
def execPlShf (w : FmtP Unit) (s : State) : Host.Outcome State Fault Refusal :=
  moveWord w (fun _ _ => none) (shiftMap w (edgeOf w.edge)) s
/-- PL.ROT: always WRAP. -/
def execPlRot (w : FmtP Unit) (s : State) : Host.Outcome State Fault Refusal :=
  moveWord w (fun _ _ => none) (shiftMap w (fun _ => 1)) s
/-- PL.SPR: every line takes line c0 (R232). -/
def execPlSpr (w : FmtP Unit) (s : State) : Host.Outcome State Fault Refusal :=
  moveWord w (fun f _ => if f.extent w.axis ≤ w.dist.toNat then some .illegalOperand else none)
    (fun _ c => some (c.set w.axis w.dist.toNat)) s
/-- PL.FLD: every element of a line takes its reduction (R233). -/
def execPlFld (w : FmtP FoldMod) (s : State) : Host.Outcome State Fault Refusal :=
  planeWord w (fun x => x.freg w) (fun x => x.freg w)
    (fun f _ => if foldFits w.mod.ty f.ew then none else some .illegalOperand)
    (fun x f rep c =>
      let at_ := fun k => x.elem f w.a.val rep (c.set w.axis k)
      let r := foldLine f w.axis (foldOp w.mod f.ew (FEnv.of x.p.fmt)) (foldIdentity w.mod f.ew) at_
      (foldResult w.mod f.ew ((List.range (f.extent w.axis)).map at_) r.1, r.2)) s
/-- PL.SCN: the inclusive prefix along the axis (R233). -/
def execPlScn (w : FmtP FoldMod) (s : State) : Host.Outcome State Fault Refusal :=
  planeWord w (fun x => x.freg w) (fun x => x.freg w)
    (fun f _ => if foldFits w.mod.ty f.ew then none else some .illegalOperand)
    (fun x f rep c =>
      let n := f.extent w.axis
      let xs := (List.range n).map (fun k => x.elem f w.a.val rep (c.set w.axis k))
      let r := (scanAll (withFlags (foldOp w.mod f.ew (FEnv.of x.p.fmt))) (xs.map (fun a => (a, FFlags.none)))
        (Nat.log2 n)).getD (c.get w.axis) (0, .none)
      (foldResult w.mod f.ew (xs.take (c.get w.axis + 1)) r.1, r.2)) s
/-- PL.TRN (R234). -/
def execPlTrn (w : FmtP Unit) (s : State) : Host.Outcome State Fault Refusal :=
  moveWord w (fun f _ => if f.gx = f.gy ∧ f.mx = f.my ∧ f.kx = f.ky then none else some .foldInvalid)
    (fun _ c => some { c with x := c.y, y := c.x }) s
/-- PL.RFD: every element keeps its coordinates; only KX, KY and EDGE may differ (R235). -/
def execPlRfd (w : FmtP (Fin 8)) (s : State) : Host.Outcome State Fault Refusal :=
  planeWord w (fun x => x.freg w) (fun x => x.g.fold w.mod.val)
    (fun f d => if { f with kx := d.kx, ky := d.ky, edge := d.edge } = d then none else some .foldInvalid)
    (fun x f rep c => (x.elem f w.a.val rep c, .none)) s

/-! ## What a plane word costs (05 R101 to R103, 12 R236) -/

/-- Every element of a plane in one replica: its coordinate, lane and local index. -/
def FoldWord.all (f : FoldWord) : List (Coord × Nat × Nat) :=
  (List.range (2 ^ (f.gx + f.gy))).flatMap (fun l => (List.range f.locals).map (fun e => (f.coord l e, l, e)))
/-- Source registers of an element, first and last. -/
def FoldWord.regsOf (f : FoldWord) (e : Nat) : List Nat :=
  if f.ew = 3 then [2 * e, 2 * e + 1] else [e * f.ewb / 4]
/-- P: the distinct pairs of source register and displacement that an element needs to reach another lane (R101). -/
def passes (f d : FoldWord) (m : Coord → Option Coord) : Nat :=
  let add (acc : List (Nat × Nat × Nat)) (x : Nat × Nat × Nat) := if acc.contains x then acc else x :: acc
  ((d.all).foldl (fun acc c => match m c.1 with
    | none => acc
    | some s =>
      let (l, e) := f.place s
      if l = c.2.1 then acc
      else
        let gx := 2 ^ f.gx
        let gy := 2 ^ f.gy
        let dx := (c.2.1 % gx + gx - l % gx) % gx
        let dy := (c.2.1 / gx + gy - l / gx) % gy
        (f.regsOf e).foldl (fun acc k => add acc (k, dx, dy)) acc) []).length
/-- C of a movement: P + NREG (R236). -/
def moveCost (f d : FoldWord) (m : Coord → Option Coord) : Nat := passes f d m + d.nreg
/-- C of PL.FLD (R102). -/
def foldCost (f : FoldWord) (a : Axis) : Nat :=
  let tree (gl o : Nat) : Nat :=
    if gl = 0 then 2 * f.nreg
    else f.nreg + ceilDiv (2 ^ o * 2 ^ f.s0 * 2 ^ f.s1 * f.ewb) 4 * (3 * gl - 1) + f.nreg
  match a with
  | .x => tree f.gx f.my
  | .y => tree f.gy f.mx
  | _ => 2 * f.nreg
/-- C of PL.SCN: the sum over its steps (R102). -/
def scanCost (f : FoldWord) (a : Axis) : Nat :=
  ((List.range (Nat.log2 (f.extent a))).map (fun t =>
    passes f f (fun c => (srcCoord (c.get a) (2 ^ t) false (f.extent a) 0).map (c.set a)) + f.nreg)).sum
/-- C of PL.TRN (R236). -/
def transposeCost (f : FoldWord) : Nat := if 1 ≤ f.gx then 2 * f.nreg else f.nreg

/-! ## FD (R238 to R241) -/

/-- FD.SET: the checks of R94 with the group's own width; the write takes effect at issue. -/
def execFdSet (w : FmtA (Fin 8) USrc64 Unit Unit Unit) (s : State) : Host.Outcome State Fault Refusal :=
  onPath s (fun x =>
    if x.guardOn w.g then
      if foldOk (x.uni64 w.a) x.w then
        { x with g := x.g.setFold w.d.val (x.uni64 w.a), p := x.p.retire w.q .none }.commit
      else x.raise .foldInvalid 0 0 0
    else (x.retire w.q .none).commit)
/-- FD.GET. -/
def execFdGet (w : FmtA (Fin 32) (Fin 8) Unit Unit Unit) (s : State) : Host.Outcome State Fault Refusal :=
  oncePath s w.g w.q .none (fun x =>
    { x with g := x.g.setSpair (2 * w.d.val) (x.g.fold w.a.val), p := x.p.retire w.q .none })
/-- FD.CHK: NREG of a word that passes, 0 of one that fails. -/
def execFdChk (w : FmtA (Dest (Fin 64)) USrc64 Unit Unit Unit) (s : State) : Host.Outcome State Fault Refusal :=
  oncePath s w.g w.q .uni (fun x =>
    x.putUni w.d w.q (if foldOk (x.uni64 w.a) x.w then BitVec.ofNat 32 (FoldWord.of (x.uni64 w.a)).nreg else 0))

end Sys2Proof.Machine
end

