-- ==== Sys2Proof/Machine/LoadStore.lean ====
section
/-! DEFINITION. Loads, stores, plane accesses and atomics: classes LD, LDU, LDP, ST, STU, STP and AT (14 R256 to R264,
R278). -/
namespace Sys2Proof.Machine
open Sys2Proof

/-! ## Sizes and register images (R256) -/

/-- Bytes of a load's size. -/
def sizeBytes : Size → Nat
  | .z8 => 1
  | .s8 => 1
  | .z16 => 2
  | .s16 => 2
  | .b32 => 4
  | .b64 => 8
  | .b128 => 16
/-- Bytes of a store's size. -/
def stSizeBytes : StSize → Nat
  | .b8 => 1
  | .b16 => 2
  | .b32 => 4
  | .b64 => 8
  | .b128 => 16
/-- The register image of bytes read: registers D, D + 1 and on. -/
def image (z : Size) (bs : List Byte) : List Word :=
  let n := leNat bs
  match z with
  | .z8 => [BitVec.ofNat 32 n]
  | .s8 => [(BitVec.ofNat 8 n).signExtend 32]
  | .z16 => [BitVec.ofNat 32 n]
  | .s16 => [(BitVec.ofNat 16 n).signExtend 32]
  | .b32 => [BitVec.ofNat 32 n]
  | .b64 => (List.range 2).map (fun k => BitVec.ofNat 32 (n / 2 ^ (32 * k)))
  | .b128 => (List.range 4).map (fun k => BitVec.ofNat 32 (n / 2 ^ (32 * k)))
/-- A register written by its key: 64n + lane for vn, 65,536 + n for sn. -/
def Group.setReg (g : Group) (k : Nat) (x : Word) : Group :=
  if 65536 ≤ k then g.setS (k - 65536) x else g.setV (k / 64) (k % 64) x
/-- The registers that an answer writes whole, by key, with their values. -/
def Ret.words (ret : Ret) (bs : List Byte) : List (Nat × Word) :=
  let from_ (k step : Nat) (ws : List Word) : List (Nat × Word) := ws.zipIdx.map (fun w => (k + step * w.2, w.1))
  match ret with
  | .lanes _ parts r z => parts.flatMap (fun p => (lanesBelow 64 p.1).flatMap (fun i =>
      from_ (64 * r + i) 64 (image z ((bs.drop p.2).take (sizeBytes z)))))
  | .uni _ r z => from_ (65536 + r) 1 (image z bs)
  | .atom _ i r wide => from_ (64 * r + i) 64 (image (if wide then .b64 else .b32) bs)
  | .elem _ n parts =>
    if n < 4 then []
    else parts.flatMap (fun p => from_ (64 * p.2.1 + p.1) 64 (image (if n = 8 then .b64 else .b32) ((bs.drop p.2.2.2).take n)))
  | _ => []
/-- The lane, register, byte and offset of the elements that an answer writes into part of a register. -/
def Ret.pieces : Ret → List (Nat × Nat × Nat × Nat)
  | .elem _ n parts => if n < 4 then parts else []
  | _ => []
/-- The registers that an answer writes, by key. -/
def Ret.keys (ret : Ret) : List Nat := distinct ((ret.words []).map (·.1) ++ ret.pieces.map (fun p => 64 * p.2.1 + p.1))
/-- Bytes that a word has read at issue, in the load buffer, written to its registers; a lane that has exited receives nothing
(10 R189). -/
def Group.deliver (g : Group) (ret : Ret) (bs : List Byte) : Group :=
  let takes (g : Group) (k : Nat) : Bool := !(decide (k < 65536) && hasLane g.exited (k % 64))
  let n := match ret with
    | .elem _ n _ => n
    | _ => 0
  ret.pieces.foldl (fun g p => if takes g (64 * p.2.1 + p.1) then
      g.setVpart p.2.1 p.1 p.2.2.1 n (leNat ((bs.drop p.2.2.2).take n)) else g)
    ((ret.words bs).foldl (fun g e => if takes g e.1 then g.setReg e.1 e.2 else g) g)
/-- Bytes from byte b of a vector register arrive for a request that is still to write it: those that a later word has written
stay (06 R110). -/
def Group.arrive (g : Group) (id n lane b : Nat) (bs : List Byte) : Group :=
  let key := 64 * n + lane
  if !g.due.contains (key, id) || hasLane g.exited lane then g
  else
    let fresh := bs.zipIdx.filter (fun c => !g.later.contains (key, id, b + c.2))
    let h := g.landV n lane (fresh.foldl (fun y c => putBytes y (b + c.2) 1 c.1.toNat) (g.vreg n lane))
    if fresh.length = 4 then h.wipe key else h
/-- A request is to write registers of its group: what an earlier one was to write there is dropped when it answers. The
elements of one plane access that share a register come by several requests. -/
def Group.await (g : Group) (id : Nat) (ret : Ret) : Group :=
  let ks := ret.keys
  let n := match ret with
    | .elem _ n _ => n
    | _ => 0
  if ret.pieces.isEmpty then
    { g with
      due := g.due.filter (fun d => !ks.contains d.1) ++ ks.map (fun k => (k, id))
      later := g.later.filter (fun d => !ks.contains d.1) }
  else
    let h := ret.pieces.foldl (fun g p => g.outrun (64 * p.2.1 + p.1) p.2.2.1 n) g
    { h with due := h.due ++ ks.map (fun k => (k, id)) }
/-- The answer of a request reaches the registers that still wait for it; a lane that has exited receives nothing (10 R189). -/
def Group.takeAnswer (g : Group) (id : Nat) (ret : Ret) (bs : List Byte) : Group :=
  let n := match ret with
    | .elem _ n _ => n
    | _ => 0
  let h := (ret.words bs).foldl (fun g e =>
    if 65536 ≤ e.1 then (if g.due.contains (e.1, id) then g.setReg e.1 e.2 else g)
    else g.arrive id (e.1 / 64) (e.1 % 64) 0 (leBytes 4 e.2.toNat)) g
  let h := ret.pieces.foldl (fun g p => g.arrive id p.2.1 p.1 p.2.2.1 ((bs.drop p.2.2.2).take n)) h
  { h with due := h.due.filter (fun d => d.2 != id), later := h.later.filter (fun d => d.2.1 != id) }

/-! ## Addresses (R257, R261, R263) -/

/-- The scaled offset of format M. -/
def offset (off : BitVec 13) (scale : Nat) : DWord := off.signExtend 64 * BitVec.ofNat 64 scale
/-- The effective address of a lane access. -/
def View.ea (x : View) (a : Base) (b : Src) (off : BitVec 13) (size i : Nat) : DWord :=
  x.base a i + (x.lane b i).signExtend 64 + offset off size
/-- The effective address of a uniform access. -/
def View.eaUni (x : View) (a : Fin 32) (b : USrc) (off : BitVec 13) (size : Nat) : DWord :=
  x.g.spair (2 * a.val) + (x.uni b).signExtend 64 + offset off size
/-- The address of an atomic. -/
def View.eaAt (x : View) (a : Base) (off : BitVec 13) (scale i : Nat) : DWord := x.base a i + offset off scale

/-! ## Issuing -/

/-- ORD with a scope of team or wider (R260). -/
def widerThanGroup : Option Scope → Bool
  | none => false
  | some .grp => false
  | some _ => true
/-- A view whose acquire invalidates the core's load buffer before its own access (03 R71, 13 R246). -/
def View.acquireDrop (x : View) (o : Option Scope) : View :=
  if widerThanGroup o then { x with s := x.s.dropLoads x.g.core } else x
/-- The last number given out. -/
def View.lastId (x : View) : Nat := x.s.nextId - 1
/-- The path's later L and G accesses follow an access that acquires; at team scope or wider the next of them that looks up
the load buffer finds it empty (13 R246). -/
def View.noteAcquire (x : View) (o : Option Scope) (id : Nat) : View :=
  if o.isSome then
    { x with p := { x.p with acquires := x.p.acquires ++ [id], fresh := x.p.fresh || widerThanGroup o } }
  else x
/-- What the load buffer held before the path's acquires, and before the fences of its group toward path L, took effect is
gone when an access looks it up (03 R71; 13 R246, R249). -/
def View.freshen (x : View) : View :=
  if x.p.fresh || x.g.xf.any (·.fresh) then
    { x with
      s := x.s.dropLoads x.g.core
      p := { x.p with fresh := false }
      g := { x.g with xf := x.g.xf.map (fun h => { h with fresh := false }) } }
  else x
/-- An earlier access on path L of some lanes to a line has not taken effect: a load of theirs misses, so that its value is
no older than that access's (13 R245). -/
def View.linePending (x : View) (lanes : Lanes) (pa : Nat) : Bool :=
  x.s.reqs.any (fun e => e.2.value.isNone && e.2.path == .l && e.2.ofPath x.gid lanes && match e.2.tgt with
    | .dev a => a / 128 == pa / 128
    | _ => false)
/-- The line that a load of some lanes finds in the load buffer. -/
def View.heldLine (x : View) (lanes : Lanes) (pa : Nat) : Option Line :=
  if x.linePending lanes pa then none else (x.s.core x.g.core).line pa
/-- A load that may look up the load buffer and fill it: near or far memory of this module (03 R71). -/
def bufferable (t : Target) (leaf : Option Leaf) : Bool :=
  match t, leaf with
  | .dev pa, some l => decide (l.tgt = 0) && !inWindow pa
  | _, _ => false

/-- One load: from the load buffer where the line is held, else by a request (03 R71). `once`: it is made once for its path,
and a fault names no lane (25 R378). -/
def View.load1 (x : View) (path : APath) (o : Option Scope) (n : Nat) (lanes : Lanes) (once : Bool) (va : DWord) (t : Target)
    (leaf : Option Leaf) (ret : Ret) : View :=
  let local_ : Bool := bufferable t leaf && path == .l
  let named : Lanes := if once then 0 else lanes
  let held := match t with
    | .dev pa => if local_ then x.heldLine lanes pa else none
    | _ => none
  match held, t with
  | some l, .dev pa =>
    let k := pa % 128
    if (List.range n).any (fun i => l.bad.getD (k + i) false) then
      { x with s := x.s.lateFault x.eid x.tid x.gid named x.p.pc .poison va (if l.mesh then 2 else poisonDetail t) (x.s.cycle, x.pid) }
    else { x with g := x.g.deliver ret ((List.range n).map (fun i => l.bytes.getD (k + i) 0)) }
  | _, _ =>
    let r := { x.req path (.read n) t va lanes ret with named := named, acquire := widerThanGroup o, noFill := !local_ }
    let y := { x with s := x.s.issue r, g := x.g.await x.s.nextId ret }
    y.noteAcquire o x.s.nextId
/-- One store; the core's own line is invalidated before it leaves (03 R71). -/
def View.store1 (x : View) (path : APath) (after : List Nat) (lanes : Lanes) (once : Bool) (va : DWord) (t : Target)
    (data : List Byte) : View :=
  let s := match t with
    | .dev pa => x.s.dropLines x.g.core pa data.length
    | _ => x.s
  let r := { x.req path (.write data (clean data.length)) t va lanes .none with
    named := if once then 0 else lanes, after := after }
  { x with s := s.issue r }

/-- A load of one access of the pool, or of one address elsewhere: what it reads, and what goes where. -/
structure Gathered (α : Type) where
  va : DWord
  tgt : Target
  leaf : Option Leaf
  n : Nat
  parts : List (α × Nat)
/-- Reads of `n` bytes gathered: those of one address are one access, and in a scratchpad those of one word (R258; 03 R63). The
address of an access is that of its lowest lane. -/
def gather {α : Type} (n : Nat) (join : List (α × Nat) → α → Nat → List (α × Nat))
    (as : List (α × DWord × Target × Option Leaf)) : List (Gathered α) :=
  as.foldl (fun l a =>
    let (tgt, m, off) := match a.2.2.1 with
      | .spad t i o => if n < 4 then (Target.spad t i (o - o % 4), 4, o % 4) else (Target.spad t i o, n, 0)
      | t => (t, n, 0)
    let same (b : Gathered α) : Bool := b.tgt == tgt && (b.va == a.2.1 || match tgt with
      | .spad _ _ _ => true
      | _ => false)
    if l.any same then l.map (fun b => if same b then { b with parts := join b.parts a.1 off } else b)
    else l ++ [⟨a.2.1, tgt, a.2.2.2, m, join [] a.1 off⟩]) []
/-- Lanes of one offset joined. -/
def joinLanes (ps : List (Lanes × Nat)) (m : Lanes) (off : Nat) : List (Lanes × Nat) :=
  if ps.any (fun p => p.2 == off) then ps.map (fun p => if p.2 == off then (p.1 ||| m, off) else p) else ps ++ [(m, off)]
/-- The lanes of the parts of an access. -/
def partLanes (ps : List (Lanes × Nat)) : Lanes := ps.foldl (fun m p => m ||| p.1) 0

/-! ## LD and LDU (R256 to R258, R260) -/

/-- LD. -/
def execLd (w : FmtM (Fin 256) Base Src Size) (s : State) : Host.Outcome State Fault Refusal :=
  onPath s (fun x =>
    let n := sizeBytes w.sub
    let y := x.sample (Src.isClk w.b && x.guardOn w.g)
    match y.check n .read false false (fun _ => false)
        ((lanesBelow y.w (y.active w.g)).map (fun i => (i, y.ea w.a w.b w.off n i))) with
    | .stop s => s
    | .ok z as =>
      let z := if as.isEmpty then z else (z.freshen).acquireDrop w.ord
      ((gather n joinLanes (as.map (fun a => (oneLane a.1, a.2)))).foldl (fun v a =>
          v.load1 .l w.ord a.n (partLanes a.parts) false a.va a.tgt a.leaf (.lanes x.gid a.parts w.d.val w.sub)) z
        |>.retire w.q .none).commit)
/-- LDU: once for its path. -/
def execLdu (w : FmtM (Fin 64) (Fin 32) USrc Size) (s : State) : Host.Outcome State Fault Refusal :=
  onPath s (fun x =>
    if !x.guardOn w.g then (x.retire w.q .none).commit
    else
      let n := sizeBytes w.sub
      let y := x.sample (USrc.isClk w.b)
      match y.check n .read true false (fun _ => false) [(0, y.eaUni w.a w.b w.off n)] with
      | .stop s => s
      | .ok z as =>
        (as.foldl (fun v a => v.load1 .l w.ord n x.p.mask true a.2.1 a.2.2.1 a.2.2.2 (.uni x.gid w.d.val w.sub))
          (z.freshen.acquireDrop w.ord) |>.retire w.q .none).commit)

/-! ## ST and STU (R259, R260) -/

/-- Four registers, low first. -/
def quad (f : Nat → Word) : Nat := (f 0).toNat + 2 ^ 32 * (f 1).toNat + 2 ^ 64 * (f 2).toNat + 2 ^ 96 * (f 3).toNat
/-- An integer constant sign-extended to 128 bits, the FP32 image of a floating one (08 R142). -/
def quadConst : USrc → Nat
  | .nat n => n.val
  | .neg n => negConst n 128
  | .flt n => fltConst .f32 n
  | _ => 0
/-- The data of a lane store. -/
def View.storeData (x : View) (d : Src) (z : StSize) (i : Nat) : List Byte :=
  match z with
  | .b64 => leBytes 8 (x.lanePair d i).toNat
  | .b128 => leBytes 16 (match d with
    | .v n => quad (fun k => x.g.vreg (n.val + k) i)
    | .u (.s n) => quad (fun k => x.g.sreg (n.val + k))
    | .u c => quadConst c
    | .l _ => 0)
  | z => leBytes (stSizeBytes z) (x.lane d i).toNat
/-- The data of a uniform store. -/
def View.storeDataUni (x : View) (d : USrc) (z : StSize) : List Byte :=
  match z with
  | .b64 => leBytes 8 (x.uniPair d).toNat
  | .b128 => leBytes 16 (match d with
    | .s n => quad (fun k => x.g.sreg (n.val + k))
    | c => quadConst c)
  | z => leBytes (stSizeBytes z) (x.uni d).toNat

/-- ST: the lanes in increasing order; with ORD each lane's store is a release. -/
def execSt (w : FmtM Src Base Src StSize) (s : State) : Host.Outcome State Fault Refusal :=
  onPath s (fun x =>
    let n := stSizeBytes w.sub
    let y := x.sample ((Src.isClk w.b || Src.isClk w.d) && x.guardOn w.g)
    match y.check n .write false true (fun _ => false)
        ((lanesBelow y.w (y.active w.g)).map (fun i => (i, y.ea w.a w.b w.off n i))) with
    | .stop s => s
    | .ok z as =>
      let after := if w.ord.isSome then z.released else []
      (as.foldl (fun v a => v.store1 .l after (oneLane a.1) false a.2.1 a.2.2.1 (y.storeData w.d w.sub a.1)) z
        |>.retire w.q .none).commit)
/-- STU: once for its path. -/
def execStu (w : FmtM USrc (Fin 32) USrc StSize) (s : State) : Host.Outcome State Fault Refusal :=
  onPath s (fun x =>
    if !x.guardOn w.g then (x.retire w.q .none).commit
    else
      let n := stSizeBytes w.sub
      let y := x.sample (USrc.isClk w.b || USrc.isClk w.d)
      match y.check n .write true true (fun _ => false) [(0, y.eaUni w.a w.b w.off n)] with
      | .stop s => s
      | .ok z as =>
        let after := if w.ord.isSome then z.released else []
        (as.foldl (fun v a => v.store1 .l after x.p.mask true a.2.1 a.2.2.1 (y.storeDataUni w.d w.sub)) z
          |>.retire w.q .none).commit)

/-! ## LDP and STP (R261, R262) -/

/-- Bytes of one row of the plane. -/
def FoldWord.rowBytes (f : FoldWord) : Nat := 2 ^ (f.gx + f.mx) * f.ewb
/-- The address of an element of a replica. -/
def planeAddr (f : FoldWord) (base : DWord) (pitch rep : Nat) (c : Coord) : DWord :=
  base + BitVec.ofNat 64 ((((rep * 2 ^ f.s1 + c.s1) * 2 ^ f.s0 + c.s0) * 2 ^ (f.gy + f.my) + c.y) * pitch + c.x * f.ewb)
/-- The elements that the active lanes hold: lane, local index, address. -/
def planeElems (f : FoldWord) (base : DWord) (pitch w : Nat) (m : Lanes) : List (Nat × Nat × DWord) :=
  let gl := 2 ^ (f.gx + f.gy)
  (lanesBelow w m).flatMap (fun l => (List.range f.locals).map (fun e =>
    (l, e, planeAddr f base pitch (l / gl) (f.coord (l % gl) e))))
/-- The word's quantities and the checks 1 to 4 of R262: a fault, or the elements. -/
def View.planeAccess (x : View) (f : FoldWord) (d : Nat) (a : Fin 32) (b : USrc) (off : BitVec 13) (m : Lanes) :
    Except (Code × DWord) (List (Nat × Nat × DWord)) :=
  let pitch := if (x.uni b).toNat = 0 then f.rowBytes else (x.uni b).toNat
  let base := x.g.spair (2 * a.val) + offset off 4
  if f.ew = 3 ∧ d % 2 = 1 then .error (.illegalOperand, 0)
  else if x.regs < d + f.nreg then .error (.registerRange, 0)
  else if pitch < f.rowBytes then .error (.illegalOperand, 0)
  else if base.toNat % f.ewb ≠ 0 ∨ pitch % f.ewb ≠ 0 then .error (.misaligned, base)
  else .ok (planeElems f base pitch x.w m)
/-- The register and byte of a local element. -/
def FoldWord.slot (f : FoldWord) (e : Nat) : Nat × Nat := (e * f.ewb / 4, e * f.ewb % 4)

/-- LDP. -/
def execLdp (w : FmtM (Fin 256) (Fin 32) USrc (Fin 8)) (s : State) : Host.Outcome State Fault Refusal :=
  onPath s (fun x =>
    let y := x.sample (USrc.isClk w.b && x.guardOn w.g)
    let m := y.active w.g &&& lowLanes y.w
    let f := FoldWord.of (y.g.fold w.sub.val)
    if m = 0 then (y.retire w.q .none).commit
    else match y.planeAccess f w.d.val w.a w.b w.off m with
    | .error (c, a) => x.raise c a m 0
    | .ok es =>
      match y.check 1 .read false false (fun _ => false) (es.map (fun e => (e.1, e.2.2))) with
      | .stop s => s
      | .ok z as =>
        let z := z.acquireDrop w.ord
        let z := { z with g := (lanesBelow x.w m).foldl (fun g l => g.wipePlane f w.d.val l) z.g }
        ((gather f.ewb (fun ps e off => ps ++ [(e, off)]) ((es.zip as).map (fun p =>
            ((p.1.1, w.d.val + (f.slot p.1.2.1).1, (f.slot p.1.2.1).2), p.1.2.2, p.2.2.2)))).foldl (fun v a =>
          v.load1 .g w.ord a.n (a.parts.foldl (fun m e => m ||| oneLane e.1.1) 0) false a.va a.tgt a.leaf
            (.elem x.gid f.ewb (a.parts.map (fun e => (e.1.1, e.1.2.1, e.1.2.2, e.2))))) z
          |>.retire w.q .none).commit)
/-- STP. -/
def execStp (w : FmtM (Fin 256) (Fin 32) USrc (Fin 8)) (s : State) : Host.Outcome State Fault Refusal :=
  onPath s (fun x =>
    let y := x.sample (USrc.isClk w.b && x.guardOn w.g)
    let m := y.active w.g &&& lowLanes y.w
    let f := FoldWord.of (y.g.fold w.sub.val)
    if m = 0 then (y.retire w.q .none).commit
    else match y.planeAccess f w.d.val w.a w.b w.off m with
    | .error (c, a) => x.raise c a m 0
    | .ok es =>
      match y.check 1 .write false true (fun _ => false) (es.map (fun e => (e.1, e.2.2))) with
      | .stop s => s
      | .ok z as =>
        let after := if w.ord.isSome then z.released else []
        ((es.zip as).foldl (fun v p =>
          v.store1 .g after (oneLane p.1.1) false p.1.2.2 p.2.2.2.1
            (leBytes f.ewb (elemOf (fun r => y.g.vreg (w.d.val + r) p.1.1) f.ew p.1.2.1))) z
          |>.retire w.q .none).commit)

/-! ## AT (R263, R264) -/

/-- A target that an atomic may not use: a host page; the scratchpad, for the exact-sum forms (R264). -/
def atDenied (cell : Bool) : Target → Bool
  | .host _ => true
  | .spad _ _ _ => cell
  | _ => false
/-- One lane's step: after the previous lane's, and after what a release covers; the core's own line is invalidated before
it leaves, whatever the atomic (03 R71). -/
def View.atomic1 (x : View) (o : Option Scope) (after : List Nat) (op : ReqOp) (lane : Nat) (va : DWord) (t : Target)
    (ret : Ret) : View :=
  let s := match t with
    | .dev pa => x.s.dropLines x.g.core pa op.width
    | _ => x.s
  let r := { x.req .l op t va (oneLane lane) ret with after := after, acquire := widerThanGroup o }
  ({ x with s := s.issue r, g := x.g.await s.nextId ret }).noteAcquire o x.s.nextId
/-- The shape of an AT word. `size` is the natural size, `kind` whether it may write. -/
def atomicWord {δ β σ : Type} (w : FmtM δ Base β σ) (size : Nat) (kind : AccessKind) (cell reads : Bool)
    (op : View → Nat → ReqOp) (ret : Nat → Nat → Ret) (s : State) : Host.Outcome State Fault Refusal :=
  onPath s (fun x =>
    let y := x.sample (reads && x.guardOn w.g)
    match y.check size kind false true (atDenied cell)
        ((lanesBelow y.w (y.active w.g)).map (fun i => (i, y.eaAt w.a w.off size i))) with
    | .stop s => s
    | .ok z as =>
      let z := if as.isEmpty then z else z.acquireDrop w.ord
      let cover := if w.ord.isSome then z.released else []
      ((as.foldl (fun (v : View × List Nat) a =>
        (v.1.atomic1 w.ord (cover ++ v.2) (op y a.1) a.1 a.2.1 a.2.2.1 (ret x.gid a.1), [v.1.s.nextId])) (z, [])).1
        |>.retire w.q .none).commit)
/-- Where an atomic's old value goes. -/
def atRet (d : AtDest) (wide : Bool) (grp lane : Nat) : Ret :=
  match d with
  | .v n => .atom grp lane n.val wide
  | .none => .none
/-- An integer or bitwise atomic. -/
def intAtomic (o : AtOp) (w : FmtM AtDest Base Src Bool) (s : State) : Host.Outcome State Fault Refusal :=
  atomicWord w (if w.sub then 8 else 4) .write false (Src.isClk w.b)
    (fun x i => .atomic o w.sub (if w.sub then x.lanePair w.b i else (x.lane w.b i).setWidth 64) 0 0)
    (fun grp i => atRet w.d w.sub grp i) s
/-- AT.ADD. -/
def execAtAdd (w : FmtM AtDest Base Src Bool) (s : State) : Host.Outcome State Fault Refusal := intAtomic .add w s
/-- AT.SUB. -/
def execAtSub (w : FmtM AtDest Base Src Bool) (s : State) : Host.Outcome State Fault Refusal := intAtomic .sub w s
/-- AT.MIN. -/
def execAtMin (w : FmtM AtDest Base Src Bool) (s : State) : Host.Outcome State Fault Refusal := intAtomic .min w s
/-- AT.MAX. -/
def execAtMax (w : FmtM AtDest Base Src Bool) (s : State) : Host.Outcome State Fault Refusal := intAtomic .max w s
/-- AT.MINU. -/
def execAtMinu (w : FmtM AtDest Base Src Bool) (s : State) : Host.Outcome State Fault Refusal := intAtomic .minu w s
/-- AT.MAXU. -/
def execAtMaxu (w : FmtM AtDest Base Src Bool) (s : State) : Host.Outcome State Fault Refusal := intAtomic .maxu w s
/-- AT.AND. -/
def execAtAnd (w : FmtM AtDest Base Src Bool) (s : State) : Host.Outcome State Fault Refusal := intAtomic .and w s
/-- AT.OR. -/
def execAtOr (w : FmtM AtDest Base Src Bool) (s : State) : Host.Outcome State Fault Refusal := intAtomic .or w s
/-- AT.XOR. -/
def execAtXor (w : FmtM AtDest Base Src Bool) (s : State) : Host.Outcome State Fault Refusal := intAtomic .xor w s
/-- AT.XCHG. -/
def execAtXchg (w : FmtM AtDest Base Src Bool) (s : State) : Host.Outcome State Fault Refusal := intAtomic .xchg w s
/-- AT.CAS: D holds the compare value before the word. -/
def execAtCas (w : FmtM (Fin 256) Base Src Bool) (s : State) : Host.Outcome State Fault Refusal :=
  atomicWord w (if w.sub then 8 else 4) .write false (Src.isClk w.b)
    (fun x i => .atomic .cas w.sub (if w.sub then x.lanePair w.b i else (x.lane w.b i).setWidth 64)
      (if w.sub then x.g.vpair w.d.val i else (x.g.vreg w.d.val i).setWidth 64) 0)
    (fun grp i => .atom grp i w.d.val w.sub) s
/-- AT.FADD: the path's FMT at issue. -/
def execAtFadd (w : FmtM AtDest Base Src Unit) (s : State) : Host.Outcome State Fault Refusal :=
  atomicWord w 4 .write false (Src.isClk w.b)
    (fun x i => .atomic .fadd false ((x.laneAs .f32 w.b i).setWidth 64) 0 x.p.fmt)
    (fun grp i => atRet w.d false grp i) s
/-- AT.XADD: a contribution to an exact-sum cell. -/
def execAtXadd (w : FmtM Unit Base Src XFmt) (s : State) : Host.Outcome State Fault Refusal :=
  atomicWord w 64 .write true (Src.isClk w.b) (fun x i => .xadd w.sub (x.laneAs (xFormat w.sub) w.b i)) (fun _ _ => .none) s
/-- AT.XRD: a cell read to FP32; the clearing form writes 64 zero bytes. -/
def execAtXrd (w : FmtM (Fin 256) Base Unit Clr) (s : State) : Host.Outcome State Fault Refusal :=
  atomicWord w 64 (if w.sub then .write else .read) true false (fun _ _ => .xrd w.sub)
    (fun grp i => .atom grp i w.d.val false) s

end Sys2Proof.Machine
end

