-- ==== Sys2Proof/Machine/Sync.lean ====
section
/-! DEFINITION. Tags, barriers, monitors and fences: classes SN and TK (04 R77 to R88; 14 R265 to R270, R276, R278),
and the events MWAIT_TIMEOUT and LOAD_RETURN's part in registers. -/
namespace Sys2Proof.Machine
open Sys2Proof

/-! ## Tags and batches (04 R77 to R84) -/

/-- What an operation adds to COUNT: 1, or the number of its lane copies (R79). -/
def OpKind.weight : OpKind → Nat
  | .lane cs _ => cs.length
  | _ => 1
/-- The completion of an operation: COUNT falls, the batch keeps its first status that is not OK, what covers a
cancelled or failed operation is barred, and operations that waited for COUNT to be 0 may start (R78, R79, R81, R84). -/
def State.completeOp (s : State) (id : Nat) (status : Nat) : State :=
  match SMap.find? s.ops id with
  | none => s
  | some o =>
    let st := if o.status = 0 then status else o.status
    let lost := o.failed || status == 3
    let s := { s with ops := (SMap.del s.ops id).map (fun (e : Nat × Op) =>
      if lost && e.2.covers.contains id then (e.1, { e.2 with barred := true }) else e) }
    let s := s.modGroup o.grp (fun g =>
      let t := g.tag o.tag
      g.setTag o.tag { t with count := t.count - o.kind.weight, stat := if t.stat = 0 then st else t.stat, barred := t.barred || lost })
    let empty := match SMap.find? s.groups o.grp with
      | some g => (g.tag o.tag).count == 0
      | none => false
    if empty then
      { s with ops := s.ops.map (fun (e : Nat × Op) =>
          if e.2.grp == o.grp && e.2.trig == some o.tag then (e.1, { e.2 with trig := none }) else e) }
    else s
/-- The operations of a group under a tag. -/
def State.batch (s : State) (grp tag : Nat) : SMap Op := SMap.where_ s.ops (fun _ o => o.grp == grp && o.tag == tag)
/-- Room under a tag: COUNT stays within 255, else the issue stalls (R79). -/
def View.tagRoom (x : View) (tag n : Nat) : Bool := decide ((x.g.tag tag).count + n ≤ 255)
/-- A stamp or an arrival: it starts only after what it covers (R84, R88). -/
def OpKind.covering : OpKind → Bool
  | .stamp .. => true
  | .arrive .. => true
  | .fbArrive .. => true
  | _ => false
/-- An operation that makes a release (13 R246): a stamp, an arrival, a completion counter. -/
def OpKind.releases : OpKind → Bool
  | .stamp .. => true
  | .arrive .. => true
  | .fbArrive .. => true
  | .mcast _ _ _ _ st => st.isSome
  | .put mod _ => mod.st
  | .ata _ => true
  | _ => false
/-- An operation counted under its tag and queued (R78, R79, R81): COUNT of the trigger's tag, where it is 0, starts it
at once. A release that it makes covers the path's earlier accesses on L and G (13 R246). A stamp or an arrival is barred where
an operation of its batch was cancelled or failed; operations of a batch that ended before bar nothing (R84; DESIGN CHOICE,
log 65). -/
def View.queueOp (x : View) (kind : OpKind) (tag : Nat) (trig : Option Nat) (lanes : Lanes) (after : List Nat) : View :=
  let t := x.g.tag tag
  let t' : Tag := if t.count = 0 then ⟨kind.weight, 0, false⟩ else { t with count := t.count + kind.weight }
  let cov := if kind.covering then (x.s.batch x.gid tag).map (·.1) else []
  let o : Op :=
    { kind := kind, fn := x.e.fn, ctx := x.e.ctx, entry := x.eid, team := x.tid, grp := x.gid, core := x.g.core,
      lanes := lanes, pc := x.p.pc, tag := tag,
      trig := trig.bind (fun n => if (x.g.tag n).count = 0 then none else some n),
      started := false, covers := cov ++ after, barred := kind.covering && t'.barred, release := if kind.releases then x.released else [], pieces := [],
      waiting := [], status := 0, failed := false, left := [], wrote := [], soiled := [] }
  { x with s := x.s.addOp o, g := x.g.setTag tag t' }

/-- Matrix and accumulator operations of a team, in flight: the accesses of path M (13 R243). -/
def OpKind.onM : OpKind → Bool
  | .mma .. => true
  | .zero .. => true
  | .drain .. => true
  | .fill .. => true
  | .check .. => true
  | _ => false
/-- The path M work that has started and has not completed (18 R295). -/
def State.matrixWork (s : State) (p : Op → Bool) : List Nat :=
  (s.ops.filter (fun e => p e.2 && e.2.kind.onM && e.2.started)).map (·.1)

/-! ## Barriers (04 R87, R88; 14 R268) -/

/-- The fence of BAR.X toward the later accesses of a group on M, L and G (13 R249): they follow what it covers, and the load
buffer is emptied once more before the next of them that looks it up. -/
def Group.fence (g : Group) (ids : List Nat) : Group :=
  if ids.isEmpty then g else { g with xf := g.xf ++ [XfHold.mk ids ⟨true, true, false, true, false⟩ true] }
/-- A path is released by a flip: it acquires, and the fence of BAR.X holds the accesses of its whole group. -/
def State.releaseWaiter (s : State) (pid : Nat) (p : Path) (xids : List Nat) : State :=
  let core := match SMap.find? s.groups p.grp with
    | some g => g.core
    | none => 0
  ((s.setPath pid { p with wait := .none }).modGroup p.grp (fun g => g.fence xids)).dropLoads core
/-- One arrival at a barrier, as a single step: when the count is reached, the phase flips and the waiters go on. -/
def State.arrive (s : State) (team b : Nat) (x : Bool) : State :=
  match SMap.find? s.teams team with
  | none => s
  | some t =>
    let r := t.bar b
    if r.arrived + 1 < max 1 r.expected then
      s.setTeam team (t.setBar b { r with arrived := r.arrived + 1, x := r.x || x })
    else
      let xids := if r.x || x then
          s.matrixWork (fun o => o.team == team) ++ s.flying (fun q => q.team == team && q.isLG)
        else []
      let s := s.setTeam team (t.setBar b { r with arrived := 0, phase := !r.phase, x := false, xids := xids })
      (s.paths.filter (fun e => match e.2.wait with
        | .barrier k _ => k == b && (match SMap.find? s.groups e.2.grp with | some g => g.team == team | none => false)
        | _ => false)).foldl (fun s e => s.releaseWaiter e.1 e.2 xids) s

/-! ## SN -/

/-- The shape of an SN or SY word: once for its path, whatever EXEC, when its uniform guard holds (R265, R278). -/
def onceWord {δ α σ : Type} (w : FmtS δ α σ) (f : View → State) (s : State) : Host.Outcome State Fault Refusal :=
  onPath s (fun x => if x.guardOn w.g then f x else (x.retire w.q .none).commit)

/-- SN.FENCE (R266): the release half holds the path's later L and G accesses behind its earlier ones; the acquire half
behind its earlier reads, those of atomics too, and invalidates the load buffer at team scope or wider, at once and again before the path's next
access that looks it up where one of those reads is still to take effect. -/
def execSnFence (w : FmtS Unit Unit FenceMod) (s : State) : Host.Outcome State Fault Refusal :=
  onceWord w (fun x =>
    let rel := if w.sarg.rel then x.released else []
    let acq := if w.sarg.acq then x.s.flying (fun r => r.isLG && r.ofPath x.gid x.p.mask && r.reads) else []
    let s := if w.sarg.acq ∧ w.sarg.scope ≠ .grp then x.s.dropLoads x.g.core else x.s
    let again := !acq.isEmpty && w.sarg.scope != .grp
    ({ x with s := s, p := { x.p with acquires := x.p.acquires ++ rel ++ acq, fresh := x.p.fresh || again } }.retire w.q
      .none).commit) s
/-- The accesses on a set of source paths that a fence of the group covers (R249, R267): observed batches on C and F
have taken effect already. What happens before the fence through an acquire of the path has happened once the acquire has
taken effect. -/
def View.covered (x : View) (src : PathSet) : List Nat :=
  x.s.flying (fun r => r.grp == x.gid && ((src.l && r.path == .l) || (src.g && r.path == .g))) ++
    (if src.m then x.s.matrixWork (fun o => o.grp == x.gid) else []) ++ x.p.acquires.filter (fun i => !x.s.done i)
/-- SN.XF (R267): the path is held until the covered accesses have taken effect, and so are the group's later accesses
on the destination paths. Where it names L, the load buffer is invalidated (03 R71), and where L is a destination, once more
when they have. -/
def execSnXf (w : FmtS Unit Unit XfMod) (s : State) : Host.Outcome State Fault Refusal :=
  onceWord w (fun x =>
    let ids := x.covered w.sarg.src
    let s := if w.sarg.src.l || w.sarg.dst.l then x.s.dropLoads x.g.core else x.s
    let old := x.g.xf.filter (fun h => h.fresh || !x.s.allDone h.ids)
    ({ x with
        s := s
        g := { x.g with xf := if ids.isEmpty then old else old ++ [XfHold.mk ids w.sarg.dst w.sarg.dst.l] }
        p := { x.p with hold := x.p.hold ++ ids } }.retire w.q .none).commit) s
/-- SN.BINIT: a count above 65,535 is no operand. -/
def execSnBinit (w : FmtS Unit USrc (Fin 16)) (s : State) : Host.Outcome State Fault Refusal :=
  onceWord w (fun x =>
    let y := x.sample (USrc.isClk w.a)
    let a := (y.uni w.a).toNat
    if 65535 < a then x.raise .illegalOperand 0 0 0
    else
      (y.retire w.q .none).commit.modTeam x.tid (fun t =>
        t.setBar w.sarg.val { t.bar w.sarg.val with expected := a, arrived := 0, x := false })) s
/-- SN.BAR: arrives, and waits for the phase to flip unless its own arrival flips it. -/
def execSnBar (w : FmtS Unit Unit BarMod) (s : State) : Host.Outcome State Fault Refusal :=
  onceWord w (fun x =>
    let y := x.retire w.q .none
    let phase := (x.t.bar w.sarg.bar.val).phase
    ({ y with p := { y.p with wait := .barrier w.sarg.bar.val phase } }.commit).arrive x.tid w.sarg.bar.val w.sarg.x) s
/-- SN.BARA: arrives and writes the phase before its arrival. -/
def execSnBara (w : FmtS (Fin 64) Unit (Fin 16)) (s : State) : Host.Outcome State Fault Refusal :=
  onceWord w (fun x =>
    let g := x.g.setS w.d.val (if (x.t.bar w.sarg.val).phase then 1 else 0)
    (({ x with g := g }.retire w.q .none).commit).arrive x.tid w.sarg.val false) s
/-- SN.BARW: waits until the phase differs from a[0]. -/
def execSnBarw (w : FmtS Unit USrc (Fin 16)) (s : State) : Host.Outcome State Fault Refusal :=
  onceWord w (fun x =>
    let y := (x.sample (USrc.isClk w.a)).retire w.q .none
    let r := x.t.bar w.sarg.val
    if r.phase = (x.uni w.a).getLsbD 0 then
      { y with p := { y.p with wait := .barrier w.sarg.val r.phase } }.commit
    else y.commit.releaseWaiter x.pid y.p (r.xids.filter (fun i => !x.s.done i))) s

/-- Lines that a monitor may not watch: host pages and fabric apertures (04 R85). -/
def monitorDenied : Target → Bool
  | .host _ => true
  | .peer _ _ => true
  | _ => false
/-- The aligned line of a target. -/
def lineOf : Target → Target
  | .dev a => .dev (a / 128 * 128)
  | .spad t i a => .spad t i (a / 128 * 128)
  | t => t
/-- SN.MARM: arms the group's monitor and discards a pending wake. -/
def execSnMarm (w : FmtS Unit (Fin 32) Unit) (s : State) : Host.Outcome State Fault Refusal :=
  onceWord w (fun x =>
    match x.check 1 .read true false monitorDenied [(0, x.g.spair (2 * w.a.val))] with
    | .stop s => s
    | .ok z as =>
      let line := (as.head?).map (fun a => lineOf a.2.2.1)
      ({ z with g := { z.g with monitor := ⟨line, false⟩ } }.retire w.q .none).commit) s
/-- A waiting SN.MWAIT is to write s[D] (R269): what an earlier load was to write there is dropped (06 R110). -/
def Group.awaitCode (g : Group) (d pid : Nat) : Group :=
  { g with due := g.due.filter (fun e => e.1 != 65536 + d) ++ [(65536 + d, pid)] }
/-- SN.MWAIT (R269, 04 R85): without an armed monitor it returns 1 at once; a pending wake is consumed and returns 0; a
timeout of 0 returns 1; otherwise the path waits. -/
def execSnMwait (w : FmtS (Fin 64) USrc Unit) (s : State) : Host.Outcome State Fault Refusal :=
  onceWord w (fun x =>
    let x := x.sample (USrc.isClk w.a)
    let y := x.retire w.q .none
    let a := (x.uni w.a).toNat
    if x.g.monitor.line.isNone then { y with g := y.g.setS w.d.val 1 }.commit
    else if x.g.monitor.wake then
      { y with g := { y.g.setS w.d.val 0 with monitor := { y.g.monitor with wake := false } } }.commit
    else if a = 0 then { y with g := y.g.setS w.d.val 1 }.commit
    else
      { y with
        g := y.g.awaitCode w.d.val x.pid
        p := { y.p with wait := .monitor w.d.val (if a = 0xFFFFFFFF then none else some (x.s.cycle + a)) } }.commit) s
/-- SN.FLUSH: holds the group until the path's earlier accesses have taken effect, writes to host pages on the link: it is a
release at sys scope too (R270, 13 R246). -/
def execSnFlush (w : FmtS Unit Unit Unit) (s : State) : Host.Outcome State Fault Refusal :=
  onceWord w (fun x =>
    let ids := x.released
    let s := (x.retire w.q .none).commit
    { s with paths := s.paths.map (fun e =>
        if e.2.grp == x.gid then (e.1, { e.2 with hold := e.2.hold ++ ids }) else e) }) s
/-- SN.INV: invalidates the core's load buffer. -/
def execSnInv (w : FmtS Unit Unit Unit) (s : State) : Host.Outcome State Fault Refusal :=
  onceWord w (fun x => ({ x with s := x.s.dropLoads x.g.core }.retire w.q .none).commit) s

/-- MWAIT_TIMEOUT: the wait of a path ends with code 1 once its cycle has come, unless a save has stopped the path there. -/
def execMwaitTimeout (grp pid : Nat) (s : State) : Host.Outcome State Fault Refusal :=
  .next (match SMap.find? s.paths pid with
  | none => s
  | some p => match p.wait with
    | .monitor _ (some c) => if p.grp = grp ∧ c ≤ s.cycle ∧ s.mayWake p then s.endWait grp pid p 1 else s
    | _ => s)

/-! ## TK (R276) -/

/-- TK.WAIT: blocks until COUNT is 0. A state in which it is not is left as it is. -/
def execTkWait (w : FmtA Unit (Fin 8) Unit Unit Unit) (s : State) : Host.Outcome State Fault Refusal :=
  onPath s (fun x =>
    if x.guardOn w.g ∧ (x.g.tag w.a.val).count ≠ 0 then x.s else (x.retire w.q .none).commit)
/-- TK.TST. -/
def execTkTst (w : FmtA (Fin 16) (Fin 8) Unit Unit Unit) (s : State) : Host.Outcome State Fault Refusal :=
  oncePath s w.g w.q .none (fun x =>
    { x with g := x.g.setQ w.d.val ((x.g.tag w.a.val).count == 0), p := x.p.retire w.q .none })
/-- TK.CNT: the tag word. -/
def execTkCnt (w : FmtA (Dest (Fin 64)) (Fin 8) Unit Unit Unit) (s : State) : Host.Outcome State Fault Refusal :=
  oncePath s w.g w.q .uni (fun x => x.putUni w.d w.q (x.g.tag w.a.val).word)

end Sys2Proof.Machine
end

