-- ==== Sys2Proof/Machine/Copy.lean ====
section
/-! DEFINITION. Operations in flight and their events, and class CP (04 R73 to R92; 14 R271 to R275; 18 R302 to R310). -/
namespace Sys2Proof.Machine
open Sys2Proof

/-! ## Pieces -/

/-- A range cut so that no cut crosses a 64-byte block at either end (01 R13): offset and length of each. -/
def chunksAt (a b n : Nat) : Nat → Nat → List (Nat × Nat)
  | 0, _ => []
  | k + 1, off =>
    if n ≤ off then []
    else
      let m := min (n - off) (min (64 - (a + off) % 64) (64 - (b + off) % 64))
      (off, m) :: chunksAt a b n k (off + m)
/-- A range of `n` bytes cut for a source and a destination address. -/
def chunks (a b n : Nat) : List (Nat × Nat) := chunksAt a b n n 0
/-- An address plus an offset. -/
def plus (a : DWord) (n : Nat) : DWord := a + BitVec.ofNat 64 n
/-- A piece that reads. -/
def Piece.reads (src : Source) (dst : Sink) (n key : Nat) : Piece :=
  ⟨src, dst, n, 0, none, false, false, 0, key, false, 0⟩
/-- A piece whose bytes are given. -/
def Piece.given (dst : Sink) (data : List Byte) (bad : List Bool) (key : Nat) : Piece :=
  ⟨.given, dst, data.length, 0, some (data, bad), true, false, 0, key, false, 0⟩
/-- A piece that lands after every other of its key. -/
def Piece.atEnd (p : Piece) : Piece := { p with last := true }
/-- A format code of R39 that a combine may use: FP32, FP16, BF16. -/
def combineFmt (c : Nat) : FFmt := if c = 1 then .f16 else if c = 2 then .bf16 else .f32

/-! ## FB.ATA (18 R306, R307) -/

/-- RANK. -/
def mapRank (m : Nat) : Nat := recField m 8 8
/-- ESIZE. -/
def mapEsize (m : Nat) : Nat := recField m 0 8
/-- N of axis a. -/
def mapExt (m a : Nat) : Nat := recField m (128 + 32 * a) 32
/-- P of axis a. -/
def mapSgrid (m a : Nat) : Nat := recField m (256 + 16 * a) 16
/-- P' of axis a. -/
def mapDgrid (m a : Nat) : Nat := recField m (320 + 16 * a) 16
/-- The axis that runs k-th fastest in an order field. -/
def ordAxis (ord k : Nat) : Nat := ord / 4 ^ k % 4
/-- Number of process ranks. -/
def mapRanks (m : Nat) : Nat := ((List.range 4).map (mapSgrid m)).foldl (· * ·) 1
/-- A mixed-radix number's digits, lowest first. -/
def digits : List Nat → Nat → List Nat
  | [], _ => []
  | r :: rs, n => n % r :: digits rs (n / r)
/-- The number of mixed-radix digits. -/
def undigits : List (Nat × Nat) → Nat
  | [] => 0
  | (r, d) :: ds => d + r * undigits ds
/-- The offset of an element in its block, dense in an axis order. -/
def localOffset (m : Nat) (grid : Nat → Nat) (ord : Nat) (g : List Nat) : Nat :=
  undigits ((List.range (mapRank m)).map (fun k =>
    let a := ordAxis ord k
    let b := mapExt m a / grid a
    (b, g.getD a 0 % b)))
/-- The rank that owns an element under a grid. -/
def ownerRank (m : Nat) (grid : Nat → Nat) (g : List Nat) : Nat :=
  undigits ((List.range 4).map (fun a => (grid a, g.getD a 0 / (mapExt m a / grid a))))
/-- The pieces of one participant. -/
def ataPieces (m me : Nat) : List Piece :=
  let z := mapEsize m
  let base := recField m 384 16
  let blocks := (List.range 4).map (fun a => mapExt m a / mapSgrid m a)
  let here := digits ((List.range 4).map (mapSgrid m)) me
  let elems := (List.range (blocks.foldl (· * ·) 1)).map (fun n =>
    let g := ((digits blocks n).zip (here.zip blocks)).map (fun x => x.2.1 * x.2.2 + x.1)
    let d := ownerRank m (mapDgrid m) g
    Piece.reads (.mem (BitVec.ofNat 64 (recField m 448 64 + z * localOffset m (mapSgrid m) (recField m 24 8) g)))
      (.peer (base + d) (BitVec.ofNat 64 (recField m 512 64 + z * localOffset m (mapDgrid m) (recField m 32 8) g))) z d)
  elems ++ (List.range (mapRanks m)).map (fun d =>
    (Piece.given (.count (base + d) (BitVec.ofNat 64 (recField m 576 64))) [] [] d).atEnd)

/-! ## FB.CMB (18 R308, R309) -/

/-- NTOK, K, HID, OPITCH. -/
def cmbTok (r : Nat) : Nat := recField r 0 32
/-- Slots for each token. -/
def cmbK (r : Nat) : Nat := recField r 32 8
/-- Elements of a row. -/
def cmbHid (r : Nat) : Nat := recField r 64 32
/-- A slot's peer and the address of its row. -/
def cmbSlot (slot : List Byte) (i : Nat) : Nat × Nat :=
  (leNat ((slot.drop (16 * i)).take 2), leNat ((slot.drop (16 * i + 8)).take 8))
/-- The rows that a combine reads, by slot. -/
def cmbReads (r : Nat) (slot : List Byte) : List Piece :=
  let n := cmbHid r * ((combineFmt (recField r 40 8)).eb + (combineFmt (recField r 40 8)).fb + 1) / 8
  (List.range (cmbTok r * cmbK r)).flatMap (fun i =>
    let (p, a) := cmbSlot slot i
    if p = 0xFFFF then []
    else (chunks a a n).map (fun c => Piece.reads (.peer p (plus (BitVec.ofNat 64 a) c.1)) .keep c.2 i))
/-- The bytes kept under a key. -/
def keptBytes (ps : List Piece) (key : Nat) : List Byte × List Bool :=
  (ps.filter (fun p => p.key == key)).foldl (fun a p => match p.data with
    | some (d, b) => (a.1 ++ d, a.2 ++ b)
    | none => a) ([], [])
/-- One element of a combine: its bits, and whether it is poisoned. -/
def cmbElem (r : Nat) (gate slot : List Byte) (rows : Nat → List Byte × List Bool) (t h : Nat) : Nat × Bool :=
  let rf := combineFmt (recField r 40 8)
  let z := (rf.eb + rf.fb + 1) / 8
  let (acc, bad) := (List.range (cmbK r)).foldl (fun (a : Nat × Bool) k =>
    let i := t * cmbK r + k
    if (cmbSlot slot i).1 = 0xFFFF then a
    else
      let (d, b) := rows i
      let x := leNat ((d.drop (z * h)).take z)
      let g := leNat ((gate.drop (4 * i)).take 4)
      ((FFmt.f32.fmaVal .plain (FFmt.f32.val g) (rf.val x) (FFmt.f32.val a.1)).1,
        a.2 || ((b.drop (z * h)).take z).any (fun x => x))) (0x80000000, false)
  (((combineFmt (recField r 48 8)).ofVal .plain false (FFmt.f32.val acc)).1, bad)
/-- The rows that a combine writes. -/
def cmbWrites (r : Nat) (gate slot : List Byte) (ps : List Piece) : List Piece :=
  let f := combineFmt (recField r 48 8)
  let z := (f.eb + f.fb + 1) / 8
  (List.range (cmbTok r)).flatMap (fun t =>
    let es := (List.range (cmbHid r)).map (cmbElem r gate slot (keptBytes ps) t)
    let d := es.flatMap (fun e => leBytes z e.1)
    let b := es.flatMap (fun e => List.replicate z e.2)
    let out := recField r 256 64 + t * recField r 96 32
    (chunks out out d.length).map (fun c =>
      Piece.given (.mem (plus (BitVec.ofNat 64 out) c.1)) ((d.drop c.1).take c.2) ((b.drop c.1).take c.2) t))

/-! ## FB.RED under RS (18 R304) -/

/-- One element: what the wire carries, as FP32, and the residual left behind. -/
def residual (f : FFmt) (a r : Nat) : Nat × Nat :=
  let x := exactSum (FFmt.f32.val a) (FFmt.f32.val r)
  match x with
  | .nan .. => ((FFmt.f32.ofVal .plain false (f.val f.nanBits)).1, 0)
  | .inf s => ((FFmt.f32.ofVal .plain false (f.val (f.sign s f.maxBits))).1, 0)
  | .num s m e =>
    let w := f.val (f.round .plain true s m e).1
    ((FFmt.f32.ofVal .plain false w).1, (FFmt.f32.ofVal .plain false (exactSum x w.neg)).1)
/-- The sends and the residuals of one lane. -/
def residualPieces (f : FFmt) (l : FbLane) (key : Nat) (loc rem : List Byte × List Bool) : List Piece :=
  let es := (List.range (l.size / 4)).map (fun e =>
    let b := ((loc.2.drop (4 * e)).take 4).any (fun x => x) || ((rem.2.drop (4 * e)).take 4).any (fun x => x)
    (residual f (leNat ((loc.1.drop (4 * e)).take 4)) (leNat ((rem.1.drop (4 * e)).take 4)), b))
  let w := es.flatMap (fun e => leBytes 4 e.1.1)
  let r := es.flatMap (fun e => leBytes 4 e.1.2)
  let b := es.flatMap (fun e => List.replicate 4 e.2)
  let a := plus l.loc l.size
  l.peers.flatMap (fun p => (chunks l.rem.toNat l.rem.toNat l.size).map (fun c =>
    Piece.given (.red p (plus l.rem c.1) .f32) ((w.drop c.1).take c.2) ((b.drop c.1).take c.2) key)) ++
  (chunks a.toNat a.toNat l.size).map (fun c =>
    Piece.given (.mem (plus a c.1)) ((r.drop c.1).take c.2) ((b.drop c.1).take c.2) key)

/-! ## The pieces of each kind -/

/-- Where a lane of FB.PUT lands at a peer (18 R301). -/
def putSink (sp : Bool) (l : FbLane) (p off : Nat) : Sink :=
  if sp then .peerTeam p (hiWord l.rem) ((loWord l.rem).toNat + off) else .peer p (plus l.rem off)
/-- What a stamp lane waits for at its target: the peer, and the team under .SP. -/
def putKey (sp : Bool) (l : FbLane) (p : Nat) : Nat := if sp then p * 2 ^ 32 + (hiWord l.rem).toNat else p
/-- Lanes numbered, and whether each is the stamp lane: the highest that contributes (18 R302). -/
def stampLanes (st : Bool) (ls : List FbLane) : List (FbLane × Bool) :=
  ls.zipIdx.map (fun x => (x.1, st && x.2 + 1 == ls.length))
/-- The i-th lane of an operation's copies or packets, as a mask. -/
def Op.laneOf (o : Op) (i : Nat) : Lanes :=
  match (lanesBelow 64 o.lanes)[i]? with
  | some l => oneLane l
  | none => 0
/-- Pieces that belong to the i-th lane of an operation. -/
def Op.ofLane (o : Op) (i : Nat) (ps : List Piece) : List Piece := ps.map (fun p => { p with lanes := o.laneOf i })
/-- One lane's copy: the bytes after the valid ones are written as zeros (R75). -/
def LaneCopy.piece (c : LaneCopy) (size key : Nat) : Piece :=
  let dst : Sink := if c.written then .mem c.dst else .keep
  if c.n = 0 then Piece.given dst (List.replicate size 0) (clean size) key
  else { Piece.reads (.mem c.src) dst c.n key with pad := size - c.n }
/-- The address whose low bits cut an FB.PUT at its destination. -/
def FbLane.landing (l : FbLane) (sp : Bool) : Nat := if sp then (loWord l.rem).toNat else l.rem.toNat
/-- The pieces that an operation starts with. -/
def Op.first (o : Op) (peerid : Nat) : List Piece :=
  match o.kind with
  | .lane cs size => cs.zipIdx.flatMap (fun c => o.ofLane c.2 [c.1.piece size c.2])
  | .bulk src dst bytes rows sp dp =>
    (List.range rows).flatMap (fun r =>
      let a := plus src (r * sp)
      let b := plus dst (r * dp)
      (chunks a.toNat b.toNat bytes).map (fun c => Piece.reads (.mem (plus a c.1)) (.mem (plus b c.1)) c.2 r))
  | .mcast src bytes _ _ _ => (chunks src.toNat src.toNat bytes).map (fun c => Piece.reads (.mem (plus src c.1)) .keep c.2 0)
  | .stamp addr val _ => [Piece.given (.mem addr) (leBytes 8 val.toNat) (clean 8) 0]
  | .put mod ls =>
    if mod.mc then
      ls.zipIdx.flatMap (fun x => o.ofLane x.2 ((chunks x.1.loc.toNat x.1.rem.toNat x.1.size).map (fun c =>
        Piece.reads (.mem (plus x.1.loc c.1)) .keep c.2 x.2)))
    else
      (stampLanes mod.st ls).zipIdx.flatMap (fun y => o.ofLane y.2 (y.1.1.peers.flatMap (fun p =>
        (chunks y.1.1.loc.toNat (y.1.1.landing mod.sp) y.1.1.size).map (fun c =>
          { Piece.reads (.mem (plus y.1.1.loc c.1)) (putSink mod.sp y.1.1 p c.1) c.2 (putKey mod.sp y.1.1 p) with
            last := y.1.2 }))))
  | .get ls => ls.zipIdx.flatMap (fun x => o.ofLane x.2 (x.1.peers.flatMap (fun p =>
      (chunks x.1.rem.toNat x.1.loc.toNat x.1.size).map (fun c =>
        Piece.reads (.peer p (plus x.1.rem c.1)) (.mem (plus x.1.loc c.1)) c.2 0))))
  | .red mod ls =>
    if mod.rs then
      ls.zipIdx.flatMap (fun x =>
        let r := plus x.1.loc x.1.size
        o.ofLane x.2
          ((chunks x.1.loc.toNat x.1.loc.toNat x.1.size).map (fun c => Piece.reads (.mem (plus x.1.loc c.1)) .keep c.2 (2 * x.2)) ++
          (chunks r.toNat r.toNat x.1.size).map (fun c => Piece.reads (.mem (plus r c.1)) .keep c.2 (2 * x.2 + 1))))
    else if mod.ty = .xc then
      ls.zipIdx.flatMap (fun x => o.ofLane x.2 (x.1.peers.flatMap (fun p => (List.range (x.1.size / 4)).map (fun e =>
        Piece.reads (.mem (plus x.1.loc (4 * e))) (.red p (plus x.1.rem (64 * e)) .xc) 4 0))))
    else
      ls.zipIdx.flatMap (fun x => o.ofLane x.2 (x.1.peers.flatMap (fun p =>
        (chunks x.1.loc.toNat x.1.rem.toNat x.1.size).map (fun c =>
          Piece.reads (.mem (plus x.1.loc c.1)) (.red p (plus x.1.rem c.1) mod.ty) c.2 0))))
  | .ata m => ataPieces m (peerid - recField m 384 16)
  | .cmb r _ slot => cmbReads r slot
  | .fbArrive p h b => [Piece.given (.arrive p h b) [] [] 0]
  | _ => []
/-- The pieces that follow once everything kept has been read. -/
def Op.second (o : Op) : List Piece :=
  match o.kind with
  | .mcast _ bytes off handles stamp =>
    let (d, b) := keptBytes o.pieces 0
    handles.zipIdx.flatMap (fun h =>
      (chunks off off bytes).map (fun c =>
        Piece.given (.team h.1 (off + c.1)) ((d.drop c.1).take c.2) ((b.drop c.1).take c.2) h.2) ++
      (match stamp with
        | some (so, v) => [(Piece.given (.team h.1 so) (leBytes 8 v.toNat) (clean 8) h.2).atEnd]
        | none => []))
  | .put mod ls =>
    (stampLanes mod.st ls).zipIdx.flatMap (fun x =>
      let (d, b) := keptBytes o.pieces x.2
      o.ofLane x.2 (x.1.1.peers.flatMap (fun p => (chunks x.1.1.loc.toNat x.1.1.rem.toNat x.1.1.size).map (fun c =>
        { Piece.given (putSink mod.sp x.1.1 p c.1) ((d.drop c.1).take c.2) ((b.drop c.1).take c.2) p with last := x.1.2 }))))
  | .red mod ls =>
    ls.zipIdx.flatMap (fun x => o.ofLane x.2 (residualPieces (if mod.e5 then .fE5m2 else .fE4m3) x.1 x.2
      (keptBytes o.pieces (2 * x.2)) (keptBytes o.pieces (2 * x.2 + 1))))
  | .cmb r gate slot => cmbWrites r gate slot o.pieces
  | _ => []

/-! ## Reaching a source or a destination at access (R92; 18 R301) -/

/-- What a translation at access gives. -/
inductive Reach where
  | at_ (t : Target)
  | fail (detail : Nat)
  | wait (kind : Nat)
  deriving DecidableEq, Repr
/-- The scratchpad that an operation's group reaches. -/
def State.opSpad (s : State) (o : Op) : Option (Nat × Nat × EntryRec) :=
  match SMap.find? s.entries o.entry, SMap.find? s.groups o.grp with
  | some e, some g => some (o.team, g.side e.body, e.body)
  | _, _ => none
/-- An address of the operation's context. -/
def State.reach (s : State) (o : Op) (va : DWord) (k : AccessKind) : Reach :=
  match s.translate o.core o.ctx (s.opSpad o) va.toNat k with
  | .hit t _ => .at_ t
  | .fault d => .fail d
  | .miss kind => .wait kind
/-- A remote address: the leaf names device memory, and its frame is used at the peer (18 R301). -/
def State.reachPeer (s : State) (o : Op) (p : Nat) (va : DWord) (k : AccessKind) : Reach :=
  if spadOwn ≤ va.toNat ∧ va.toNat < 2 ^ 57 then .fail 2
  else match s.translate o.core o.ctx (s.opSpad o) va.toNat k with
  | .hit (.dev pa) (some l) => if l.tgt ≠ 0 then .fail 2 else if p = s.peerid then .at_ (.dev pa) else .at_ (.peer p pa)
  | .hit _ _ => .fail 2
  | .fault d => .fail d
  | .miss kind => .wait kind
/-- A walk that an operation waits for, queued once. -/
def State.opWalk (s : State) (id : Nat) (o : Op) (va : DWord) (kind : Nat) : State :=
  if s.walks.any (fun w => w.2.arm == id && w.2.page == va.toNat / 4096) then s
  else s.queueWalk o.core o.ctx va.toNat id kind
/-- LANES of a fault that piece k meets. -/
def Op.named (o : Op) (k : Nat) : Lanes :=
  match o.pieces[k]? with
  | some p => p.lanes
  | none => 0
/-- A fault of piece k of an operation that has been issued: the launch faults, imprecisely, and what covers it is never
made. -/
def State.opFault (s : State) (id k : Nat) (o : Op) (c : Code) (va : DWord) (detail : Nat) : State :=
  (s.modOp id (fun x => { x with failed := true })).lateFault o.entry o.team o.grp (o.named k) o.pc c va detail
/-- A translation failed at access: ADDRESS in STAT, and the fault (R92). -/
def State.opAddress (s : State) (id k : Nat) (o : Op) (va : DWord) (detail : Nat) : State :=
  (s.modOp id (fun x => { x.report 4 with
    pieces := x.pieces.modify k (fun p => { p with asked := true, put := true }) })).opFault id k o .address va detail

/-- Path C, or path F for an FB word (13 R243). -/
def OpKind.path : OpKind → APath
  | .put .. => .f
  | .get _ => .f
  | .red .. => .f
  | .ata _ => .f
  | .cmb .. => .f
  | .fbArrive .. => .f
  | _ => .c
/-- The source of an operation's requests: its core's place at the core's sluice engine, which serves 8 cores in turn (R73), or
the die's fabric unit. -/
def Op.engine (o : Op) : Nat := if o.kind.path = .f then 600 + o.core / 64 else engineBase + o.core
/-- FB.RED under RS reads its elements and writes its residuals at issue of the word (18 R304): those accesses leave then, and
the sends once the operation starts, log 56. -/
def OpKind.readsAtIssue : OpKind → Bool
  | .red mod _ => mod.rs
  | _ => false
/-- A request of an operation's piece leaves; the operation waits for it. Reads that leave before the operation starts
follow what it covers. -/
def State.opIssue (s : State) (id k : Nat) (o : Op) (op : ReqOp) (t : Target) (va : DWord) : State :=
  let r : Req :=
    { src := o.engine, arm := 0, served := 0, path := o.kind.path, fn := o.fn, entry := o.entry, team := o.team, grp := o.grp,
      lanes := o.lanes, named := o.named k, pc := o.pc, va := va, ctx := o.ctx, op := op, tgt := t,
      after := if o.started then [] else o.covers, ret := .op id k, acquire := false, noFill := true, value := none,
      doneAt := 0, mesh := false, half := none, part := [], born := 0 }
  let rid := s.nextId
  (s.modOp id (fun x => { x with waiting := x.waiting ++ [rid] })).issue r
/-- A delivery or an arrival on this module leaves for its slot. -/
def State.opDeliver (s : State) (id k : Nat) (o : Op) (h : Word) (data : Option (Nat × List Byte × List Bool)) (bar : Nat) :
    State :=
  let did := s.nextId
  let s := s.modOp id (fun x => { x with waiting := x.waiting ++ [did] })
  { s with deliveries := SMap.put s.deliveries did ⟨o.fn, o.entry, h, data, bar, .op id k, []⟩, nextId := s.nextId + 1 }
/-- A piece of an operation changed. -/
def State.modPiece (s : State) (id k : Nat) (f : Piece → Piece) : State :=
  s.modOp id (fun x => { x with pieces := x.pieces.modify k f })

/-- A piece's read is issued. -/
def State.askPiece (s : State) (id k : Nat) : State :=
  match SMap.find? s.ops id with
  | none => s
  | some o => match o.pieces[k]? with
    | none => s
    | some p =>
      if p.asked then s
      else
        let go (r : Reach) (va : DWord) : State := match r with
          | .at_ t => (s.opIssue id k o (.read p.n) t va).modPiece id k (fun p => { p with asked := true })
          | .fail d => s.opAddress id k o va d
          | .wait kind => s.opWalk id o va kind
        match p.src with
        | .given => s.modPiece id k (fun p => { p with asked := true })
        | .mem va => go (s.reach o va .read) va
        | .peer q va => go (s.reachPeer o q va .read) va
/-- Two destinations in memory share a byte. -/
def Sink.overlaps (a : Sink) (n : Nat) (b : Sink) (m : Nat) : Bool :=
  match a, b with
  | .mem x, .mem y => decide (x.toNat < y.toNat + m) && decide (y.toNat < x.toNat + n)
  | _, _ => false
/-- A piece has been written. -/
def Op.landed (o : Op) (p : Piece) : Bool := p.put && !o.waiting.contains p.id
/-- A piece may be written: its data are there; the rows of a bulk copy are copied in order (R76), and so are the lanes of a
line request that overlap (R75); what lands last, a release, has nothing of its key outstanding, and what the release covers
has taken effect (R84, R89, 18 R302, R307; 13 R246). -/
def State.mayPut (s : State) (o : Op) (k : Nat) (p : Piece) : Bool :=
  !p.put && p.data.isSome && p.dst != .keep &&
    (match o.kind with
      | .bulk .. => o.pieces.all (fun q => decide (p.key ≤ q.key) || o.landed q)
      | .lane .. => (o.pieces.take k).all (fun q => o.landed q || !q.dst.overlaps (q.n + q.pad) p.dst (p.n + p.pad))
      | _ => true) &&
    (!p.last || (!o.failed && !o.barred && s.allDone o.release &&
      o.pieces.all (fun q => q.key != p.key || q.last || o.landed q)))
/-- A piece's write is issued. -/
def State.putPiece (s : State) (id k : Nat) : State :=
  match SMap.find? s.ops id with
  | none => s
  | some o => match o.pieces[k]? with
    | none => s
    | some p =>
      if !s.mayPut o k p then s
      else
        let (d, b) := match p.data with
          | some (d, b) => (d ++ List.replicate p.pad 0, b ++ clean p.pad)
          | none => ([], [])
        let mark (n : Nat) (t : State) : State := t.modPiece id k (fun p => { p with put := true, id := n })
        let go (r : Reach) (va : DWord) (op : ReqOp) : State := match r with
          | .at_ t => mark s.nextId (s.opIssue id k o op t va)
          | .fail d => s.opAddress id k o va d
          | .wait kind => s.opWalk id o va kind
        match p.dst with
        | .keep => s
        | .mem va => go (s.reach o va .write) va (.write d b)
        | .peer q va => go (s.reachPeer o q va .write) va (.write d b)
        | .red q va ty => go (s.reachPeer o q va .write) va (.red ty d b)
        | .count q va => go (s.reachPeer o q va .write) va (.atomic .add true 1 0 0)
        | .team h off => mark s.nextId (s.opDeliver id k o h (some (off, d, b)) 0)
        | .peerTeam q h off =>
          if q = s.peerid then mark s.nextId (s.opDeliver id k o h (some (off, d, b)) 0)
          else mark s.nextId (s.opIssue id k o (.spad h d b) (.peer q off) (BitVec.ofNat 64 off))
        | .arrive q h bar =>
          if q = s.peerid then mark s.nextId (s.opDeliver id k o h none bar)
          else mark s.nextId (s.opIssue id k o (.arrive h bar) (.peer q 0) 0)
/-- Everything kept has been read: the pieces that follow take its place. -/
def State.turn (s : State) (id : Nat) : State :=
  s.modOp id (fun o =>
    if o.pieces.all (fun p => p.dst == .keep && p.data.isSome) then { o with pieces := o.second } else o)
/-- The local ranges of an operation that reads and writes at issue: elements and residuals (18 R304). -/
def OpKind.residuals : OpKind → List (Nat × Nat)
  | .red mod ls => if mod.rs then ls.map (fun l => (l.loc.toNat, 2 * l.size)) else []
  | _ => []
/-- The residuals of an operation have been written. -/
def Op.residualsDone (o : Op) : Bool :=
  o.pieces.all (fun p => p.dst != .keep && match p.dst with
    | .mem _ => o.landed p
    | _ => true)
/-- An earlier word of the group has yet to write residuals in a range that an operation reads: it adds back what that word
dropped (18 R304). -/
def State.residualsDue (s : State) (id : Nat) (o : Op) : Bool :=
  s.ops.any (fun e => decide (e.1 < id) && e.2.grp == o.grp && !e.2.residualsDone && e.2.kind.residuals.any (fun a =>
    o.kind.residuals.any (fun b => decide (a.1 < b.1 + b.2) && decide (b.1 < a.1 + a.2))))
/-- A piece may be written although its operation has not started: a residual (18 R304). -/
def Piece.early (p : Piece) : Bool :=
  match p.dst with
  | .mem _ => true
  | _ => false
/-- What an operation can do at this moment: its reads and writes leave once it has started; reads and residuals of a word that
makes them at issue leave before that (18 R304). -/
def State.pump (s : State) (id : Nat) : State :=
  match SMap.find? s.ops id with
  | none => s
  | some o =>
    if (!o.started && !o.kind.readsAtIssue) || s.residualsDue id o then s
    else
      let s := (List.range o.pieces.length).foldl (fun s k => s.askPiece id k) s
      let s := s.turn id
      match SMap.find? s.ops id with
      | none => s
      | some o => (List.range o.pieces.length).foldl (fun s k =>
          if o.started || (o.pieces[k]?).any Piece.early then s.putPiece id k else s) s

/-! ## Starting and completing (R78 to R84) -/

/-- The tiles of a record among a range that are not VALID, those STALE being recomputed now (02 R58). -/
def State.warm (s : State) (fn handle first count : Nat) : State × List Nat :=
  match s.derivs.find? (fun d => d.handle == handle) with
  | none => (s, [])
  | some d =>
    let ts := (List.range (min (first + count) d.tiles - first)).map (first + ·)
    let s' := ts.foldl (fun s t => if (s.tileState handle t).isNone then s.startRecompute handle t fn else s) s
    (s', ts.filter (fun t => s.tileState handle t != some .valid))
/-- An operation starts: a matrix operation joins its engine's order (18 R291), DV.WARM starts its recomputes, every
other lays out its pieces. -/
def State.startOp (s : State) (id : Nat) : State :=
  match SMap.find? s.ops id with
  | none => s
  | some o =>
    if o.kind.onM then
      (s.modOp id (fun o => { o with started := true })).setCore o.core
        { s.core o.core with mxOrder := (s.core o.core).mxOrder ++ [id] }
    else match o.kind with
      | .warm h first count =>
        let (s, left) := s.warm o.fn h first count
        s.modOp id (fun o => { o with started := true, left := left })
      | k =>
        (s.modOp id (fun o => { o with
          started := true
          pieces := if k.readsAtIssue then o.pieces else o.first s.peerid })).pump id
/-- An operation that waits for no trigger and nothing earlier; a stamp or an arrival has what it covers as a release behind
it (13 R246). -/
def State.mayStart (s : State) (o : Op) : Bool :=
  !o.started && o.trig.isNone && s.allDone o.covers && (!o.kind.covering || s.allDone o.release)
/-- The operations whose trigger fell with the last completion start in the same step, in the order in which they were queued
(R81). -/
def State.startFreed (s : State) (ids : List Nat) : State :=
  ids.foldl (fun s i => match SMap.find? s.ops i with
    | some o => if !o.kind.covering && s.mayStart o then s.startOp i else s
    | none => s) s
/-- An operation completes: COUNT falls, and what waited for it to be 0 starts. -/
def State.complete (s : State) (id st : Nat) : State :=
  let t := s.completeOp id st
  t.startFreed ((s.ops.filter (fun e => e.2.trig.isSome && match SMap.find? t.ops e.1 with
    | some o => o.trig.isNone
    | none => false)).map (·.1))
/-- An operation has done everything. -/
def Op.finished (o : Op) : Bool :=
  o.started && !o.kind.onM && o.waiting.isEmpty && o.left.isEmpty &&
    o.pieces.all (fun p => p.put || (p.dst == .keep && p.data.isSome))
/-- An operation that has done everything completes (R83). -/
def State.settle (s : State) (id : Nat) : State :=
  match SMap.find? s.ops id with
  | none => s
  | some o => if o.finished then s.complete id 0 else s
/-- The reads that leave at issue, where the operation has any (18 R304). -/
def State.readAtIssue (s : State) (id : Nat) : State :=
  match SMap.find? s.ops id with
  | none => s
  | some o =>
    if o.kind.readsAtIssue then (s.modOp id (fun o => { o with pieces := o.first s.peerid })).pump id else s
/-- An operation of the path's word, started at once where nothing holds it (R81). -/
def View.launchOp (x : View) (kind : OpKind) (tag : Nat) (trig : Option Nat) (lanes : Lanes) (after : List Nat) : View :=
  let id := x.s.nextId
  let y := x.queueOp kind tag trig lanes after
  let y := { y with s := y.s.readAtIssue id }
  match SMap.find? y.s.ops id with
  | none => y
  | some o => if !kind.covering && y.s.mayStart o then { y with s := y.s.startOp id } else y

/-- TRIGGER_START: a queued operation that waits for no trigger any more starts once what it must follow has completed. -/
def execTriggerStart (id : Nat) (s : State) : Host.Outcome State Fault Refusal :=
  .next (match SMap.find? s.ops id with
  | none => s
  | some o => if !o.kind.covering && s.mayStart o then s.startOp id else s)
/-- COPY_COMPLETE: every byte has taken effect; COUNT of the tag falls. -/
def execCopyComplete (id : Nat) (s : State) : Host.Outcome State Fault Refusal := .next (s.settle id)
/-- A request whose engine has nothing else to serve is served at once. -/
def State.serveNow (s : State) (id : Nat) : State :=
  match SMap.find? s.reqs id with
  | none => s
  | some r =>
    if r.atEngine && s.reqs.all (fun e => e.1 == id || !e.2.atEngine || e.2.source != r.source || e.2.value.isSome || e.2.served != 0) then
      s.serve id r
    else s
/-- A request that may take effect at once does. -/
def State.performNow (s : State) (id : Nat) : State :=
  let s := s.serveNow id
  match SMap.find? s.reqs id with
  | none => s
  | some r => match r.op with
    | .write d b =>
      let held := match r.tgt with
        | .dev pa => s.writesHeld pa d.length
        | .spad _ _ _ => false
        | _ => true
      if s.mayPerform id r && !held then s.performWrite id r d b else s
    | op => if op.modifies && s.mayPerform id r && !s.atomicHeld r then s.performAtomic id r else s
/-- STAMP_WRITE: every covered operation has completed, and the stamp is written as a release (R84); for a stamp that
an operation carries, everything it follows has landed. A stamp that covers a cancelled or failed operation is never
written; its operation ends with status CANCELLED (DEDUCED, log 21). A write that cannot take effect in this step, since its
translation or its owner makes it wait, is made later, and COPY_COMPLETE then ends the operation. -/
def execStampWrite (id : Nat) (s : State) : Host.Outcome State Fault Refusal :=
  .next (match SMap.find? s.ops id with
  | none => s
  | some o => match o.kind with
    | .stamp .. =>
      if o.started then s.pump id
      else if !s.mayStart o then s
      else if o.barred then s.complete id 3
      else
        let s := s.startOp id
        let ws := match SMap.find? s.ops id with
          | some o => o.waiting
          | none => []
        (ws.foldl (fun s w => s.performNow w) s).settle id
    | _ => s.pump id)

/-! ## Deliveries and arrivals (R86 to R89) -/

/-- The team behind a handle for a sender's function: none where the slot is free, GEN differs or the team is another
function's. A handle whose reserved bits [31:29] are not zero names no team (DESIGN CHOICE, log 49). -/
def State.behindSlot (s : State) (h : Word) (fn : Nat) : Option (Nat × Team) :=
  let n := h.toNat
  let slot := SMap.getD (s.core (n / 2 ^ 21 % 256)).handles (n / 2 ^ 16 % 32) HandleSlot.free
  match slot.team with
  | none => none
  | some tid => match SMap.find? s.teams tid with
    | none => none
    | some t => match SMap.find? s.entries t.entry with
      | none => none
      | some e => if n / 2 ^ 29 = 0 ∧ slot.gen = n % 65536 ∧ e.fn = fn then some (tid, t) else none
/-- A delivery is over: the operation that waits for it knows, here or at a peer. -/
def State.endDelivery (s : State) (did : Nat) (d : Delivery) (st : Nat) : State :=
  let s := { s with deliveries := SMap.del s.deliveries did }
  match d.ret with
  | .op o _ => s.opDone o did st
  | .peer p n => s.reply p n d.fn [BitVec.ofNat 8 st] [false]
  | _ => s
/-- A delivery beyond the team's scratchpad: ADDRESS, imprecise, for the sender's launch (14 R274, 18 R302). -/
def State.deliveryFault (s : State) (did : Nat) (d : Delivery) (off : Nat) : State :=
  let s := match d.ret with
    | .op o k => match SMap.find? s.ops o with
      | some x => s.opFault o k x .address (BitVec.ofNat 64 off) 0
      | none => s
    | _ => s
  s.endDelivery did d 4
/-- A delivery whose bytes land apart and in any order: the payload of CP.MCAST (R89, R90). Its stamp lands in one step. -/
def Delivery.piecewise (s : State) (d : Delivery) : Bool :=
  match d.ret with
  | .op o k => match SMap.find? s.ops o with
    | some x => (match x.kind with | .mcast .. => true | _ => false) && !((x.pieces[k]?).any (·.last))
    | none => false
  | _ => false
/-- Bytes of a delivery land in a team's scratchpad, some of them where they land apart; with the last of them it is over. -/
def State.landDelivery (s : State) (did : Nat) (d : Delivery) (tid off : Nat) (bytes : List Byte) (bad : List Bool) : State :=
  if d.piecewise s then
    let now := someOf bytes.length d.part (Config.pick s.drawn)
    let t := now.foldl (fun (s : State) i => s.landByte (.spad tid 0 off) bytes bad i) { s with drawn := s.drawn + 1 }
    if now.length + d.part.length < bytes.length then
      { t with deliveries := SMap.put t.deliveries did { d with part := d.part ++ now } }
    else (t.touchAll (.spad tid 0 off) bad).endDelivery did d 0
  else (s.writeAt (.spad tid 0 off) bytes bad).endDelivery did d 0
/-- DELIVERY_LAND: the delivery lands in the team's scratchpad or saved image, or is dropped with status STALE (R89; a
save is one step, log 25). On a twin pair it lands in the half of the home core (DESIGN CHOICE, log 22). -/
def execDeliveryLand (did : Nat) (s : State) : Host.Outcome State Fault Refusal :=
  .next (match SMap.find? s.deliveries did with
  | none => s
  | some d => match d.data with
    | none => s
    | some (off, bytes, bad) => match s.behindSlot d.handle d.fn with
      | none => s.endDelivery did d 1
      | some (tid, t) =>
          let room := match SMap.find? s.entries t.entry with
            | some e => e.body.spadBytes
            | none => 0
          if room < off + bytes.length then s.deliveryFault did d off
          else s.landDelivery did d tid off bytes bad)
/-- ARRIVAL_LAND: a CP.ARRV whose covered operations have completed makes its arrival; an FB.ARRV leaves for its peer;
an arrival that stands before a slot of this module lands or is dropped (R88, R89). -/
def execArrivalLand (id : Nat) (s : State) : Host.Outcome State Fault Refusal :=
  .next (match SMap.find? s.ops id with
  | some o => match o.kind with
    | .arrive h b =>
      if !s.mayStart o then s
      else if o.barred then s.complete id 3
      else match s.behindSlot h o.fn with
        | none => s.complete id 1
        | some (tid, _) => (s.arrive tid b false).complete id 0
    | .fbArrive .. =>
      if !s.mayStart o then s
      else if o.barred then s.complete id 3
      else s.startOp id
    | _ => s
  | none => match SMap.find? s.deliveries id with
    | none => s
    | some d =>
      if d.data.isSome then s
      else match s.behindSlot d.handle d.fn with
        | none => s.endDelivery id d 1
        | some (tid, _) => (s.arrive tid d.bar false).endDelivery id d 0)

/-! ## Answers (14 R258, 01 R14) -/

/-- An answer may return: answers of one owner to one source keep the order in which they were made. -/
def State.mayReturn (s : State) (r : Req) : Bool :=
  !s.reqs.any (fun e => e.2.value.isSome && e.2.source == r.source && ownerOf e.2.tgt == ownerOf r.tgt && decide (e.2.doneAt < r.doneAt))
/-- Bytes returned for a table that a word reads at issue. -/
def Gather.receive (t : Gather) (id off : Nat) (data : List Byte) (bad : List Bool) (mesh : Bool) : Gather :=
  { t with
    mesh := t.mesh || (mesh && bad.any (fun b => b))
    data := data.zipIdx.foldl (fun m b => SMap.put m (off + b.2) b.1) t.data
    bad := bad.zipIdx.foldl (fun l b => if b.1 then insertNat l (off + b.2) else l) t.bad
    left := t.left.filter (· ≠ id) }
/-- LOAD_RETURN: the answer reaches the registers, the operation or the word that waits for it; poison taken into a
register faults instead (01 R36). -/
def execLoadReturn (id : Nat) (s : State) : Host.Outcome State Fault Refusal :=
  .next (match SMap.find? s.reqs id with
  | none => s
  | some r => match r.value with
    | none => s
    | some (data, bad) =>
      if !s.mayReturn r then s
      else match r.ret with
        | .op o k => ((s.modPiece o k (fun p => { p with data := some (data, bad) })).finishReq id r 0).pump o
        | .table p k off =>
          { s with reqs := SMap.del s.reqs id }.modPath p (fun x =>
            { x with tables := x.tables.modify k (fun t => t.receive id off data bad r.mesh) })
        | .line f off =>
          { s with
            reqs := SMap.del s.reqs id
            fills := SMap.mod s.fills f (fun x => { x with got := x.got.receive id off data bad r.mesh }) }
        | .host => { s with reqs := SMap.del s.reqs id, hostReply := data }
        | ret =>
          if bad.any (fun b => b) then
            (s.reqFault id r .poison (if r.mesh then 2 else poisonDetail r.tgt)).finishReq id r 0
          else ({ s with reqs := SMap.del s.reqs id }).modGroup r.grp (fun g => g.takeAnswer id ret data))

/-! ## CP (R75, R76, R84, R88, R89; 14 R271 to R275) -/

/-- A range that leaves the space, or its scratchpad window (01 R22, R23). -/
def View.rangeOutside (x : View) (va : DWord) (n : Nat) : Bool :=
  x.outside va || x.outside (va + BitVec.ofNat 64 (n - 1)) || decide (2 ^ 64 < va.toNat + n)
/-- The lowest lane that meets a check, with the address that meets it: the source first. -/
def faultyLane (ls : List (Nat × DWord × DWord)) (p : DWord → Bool) : List (Nat × DWord) :=
  (ls.filter (fun l => p l.2.1 || p l.2.2)).map (fun l => (l.1, if p l.2.1 then l.2.1 else l.2.2))
/-- Bytes of a copy size. -/
def copyBytes : CopySize → Nat
  | .b4 => 4
  | .b8 => 8
  | .b16 => 16
  | .b32 => 32
/-- Two lanes share one line request (R74). -/
def LaneCopy.joins (a b : LaneCopy) : Bool :=
  a.src.toNat / 128 == b.src.toNat / 128 && a.dst.toNat / 128 == b.dst.toNat / 128 && a.dst - a.src == b.dst - b.src
/-- A lane's copy joins the first line request that it may, or begins one. -/
def joinCopy (c : Nat × LaneCopy) : List (List (Nat × LaneCopy)) → List (List (Nat × LaneCopy))
  | [] => [[c]]
  | r :: rs => if r.all (fun d => d.2.joins c.2) then (r ++ [c]) :: rs else r :: joinCopy c rs
/-- The lane copies of a word merged into line requests, in the order of their lowest lanes (R74). -/
def lineRequests (cs : List (Nat × LaneCopy)) : List (List (Nat × LaneCopy)) := cs.foldl (fun rs c => joinCopy c rs) []
/-- The line requests of a word become operations (R74, R75). Where destinations overlap, they are equal, since all are
aligned to the size: a request follows the earlier ones that it overlaps, and a lane whose bytes a higher lane of an earlier
request replaces writes nothing. -/
def View.launchCopies (x : View) (tag : Nat) (trig : Option Nat) (size : Nat) :
    List (List (Nat × LaneCopy)) → List (Nat × Nat × DWord) → View
  | [], _ => x
  | r :: rs, done =>
    let id := x.s.nextId
    let cs := r.map (fun c => { c.2 with written := !done.any (fun d => decide (c.1 < d.2.1) && d.2.2 == c.2.dst) })
    let follow := (done.filter (fun d => r.any (fun c => d.2.2 == c.2.dst))).map (·.1)
    (x.launchOp (.lane cs size) tag trig (r.foldl (fun m c => m ||| oneLane c.1) 0) follow).launchCopies tag trig size rs
      (done ++ r.map (fun c => (id, c.1, c.2.dst)))
/-- CP.LANE. A tag without room leaves the word unissued (R79). -/
def execCpLane (w : FmtX Base Base Src CopySize) (s : State) : Host.Outcome State Fault Refusal :=
  onPath s (fun x =>
    let n := copyBytes w.mod
    let y := x.sample (Src.isClk w.cc && x.guardOn w.g)
    let m := y.active w.g
    let ls := (lanesBelow y.w m).map (fun i => (i, y.base w.b i, y.base w.a i))
    let mis := faultyLane ls (fun a => a.toNat % n != 0)
    let out := faultyLane ls (fun a => y.rangeOutside a n)
    if ls.isEmpty then (y.retire w.q .none).commit
    else if !x.tagRoom w.tag.val ls.length then x.s
    else if !mis.isEmpty then x.raiseAt .misaligned false mis 0
    else if !out.isEmpty then x.raiseAt .address false out 0
    else
      let cs := ls.map (fun l => (l.1, LaneCopy.mk l.2.1 l.2.2 (min (y.lane w.cc l.1).toNat n) true))
      ((y.launchCopies w.tag.val (w.trig.map (·.val)) n (lineRequests cs) []).retire w.q .none).commit)
/-- The shape of a word that acts once under a tag: its uniform guard, then room under its tag (R79, R278). -/
def tagWord {α β γ μ : Type} (w : FmtX α β γ μ) (f : View → State) (s : State) : Host.Outcome State Fault Refusal :=
  onPath s (fun x =>
    if !x.guardOn w.g then (x.retire w.q .none).commit
    else if !x.tagRoom w.tag.val 1 then x.s
    else f x)
/-- The word goes on with one operation under its tag. -/
def View.oneOp {α β γ μ : Type} (x : View) (w : FmtX α β γ μ) (kind : OpKind) (after : List Nat) : State :=
  ((x.launchOp kind w.tag.val (w.trig.map (·.val)) x.p.mask after).retire w.q .none).commit
/-- CP.BULK: bytes, rows and pitches from the descriptor at s4j, or one row. -/
def execCpBulk (w : FmtX (Fin 32) (Fin 32) USrc Bool) (s : State) : Host.Outcome State Fault Refusal :=
  tagWord w (fun x =>
    let y := x.sample (USrc.isClk w.cc)
    let r (k : Nat) : Nat := match w.cc with
      | .s n => (x.g.sreg (n.val + k)).toNat
      | _ => 0
    let bytes := if w.mod then r 0 else (y.uni w.cc).toNat
    let rows := if w.mod then r 1 else 1
    let sp := if w.mod then r 2 else bytes
    let dp := if w.mod then r 3 else bytes
    let dst := x.g.spair (2 * w.a.val)
    let src := x.g.spair (2 * w.b.val)
    let last (a : DWord) (p : Nat) : DWord := plus a ((rows - 1) * p + bytes - 1)
    let bad := [dst, last dst dp, src, last src sp].find? (fun a => x.outside a)
    if bytes = 0 ∨ 2 ^ 24 < bytes ∨ rows = 0 ∨ 2 ^ 16 < rows then x.raise .illegalOperand 0 0 0
    else if dst.toNat % 4 ≠ 0 ∨ src.toNat % 4 ≠ 0 ∨ bytes % 4 ≠ 0 ∨ sp % 4 ≠ 0 ∨ dp % 4 ≠ 0 then
      x.raise .misaligned (if dst.toNat % 4 ≠ 0 then dst else if src.toNat % 4 ≠ 0 then src else 0) 0 0
    else match bad with
      | some a => x.raise .address a 0 0
      | none => y.oneOp w (.bulk src dst bytes rows sp dp) []) s
/-- CP.STAMP. -/
def execCpStamp (w : FmtX (Fin 32) USrc64 Unit Bool) (s : State) : Host.Outcome State Fault Refusal :=
  tagWord w (fun x =>
    let a := x.g.spair (2 * w.a.val)
    if a.toNat % 8 ≠ 0 then x.raise .misaligned a 0 0
    else x.oneOp w (.stamp a (x.uni64 w.b) w.mod) []) s
/-- CP.ARRV. -/
def execCpArrv (w : FmtX USrc USrc Unit Unit) (s : State) : Host.Outcome State Fault Refusal :=
  tagWord w (fun x =>
    let y := x.sample (USrc.isClk w.a || USrc.isClk w.b)
    let b := (y.uni w.b).toNat
    if 15 < b then x.raise .illegalOperand 0 0 0
    else y.oneOp w (.arrive (y.uni w.a) b) []) s

/-! ## Tables that a word reads at issue (10 R186, 14 R274, 02 R55, 18 R306, R308) -/

/-- A table gathered by the path, complete. -/
def Path.table (p : Path) (a : DWord) (n : Nat) : Option Gather := p.tables.find? (fun t => t.addr == a && t.n == n)
/-- The bytes of a table. -/
def Gather.bytes (t : Gather) : List Byte := (List.range t.n).map (fun i => SMap.getD t.data i 0)
/-- One chunk of a table read on a path (13 R243): on path L from the load buffer where the line is held, else by a request
(03 R71); on path F after the group's earlier L and G accesses (18 R302). -/
def View.tableChunk (x : View) (path : APath) (k : Nat) (va : DWord) (off n : Nat) (t : Target) (leaf : Option Leaf) : View :=
  let local_ : Bool := path == .l && bufferable t leaf
  let held := match t with
    | .dev pa => if local_ then x.heldLine x.p.mask pa else none
    | _ => none
  match held, t with
  | some l, .dev pa =>
    let i := pa % 128
    { x with p := { x.p with tables := x.p.tables.modify k (fun g =>
      g.receive x.s.nextId off ((List.range n).map (fun j => l.bytes.getD (i + j) 0))
        ((List.range n).map (fun j => l.bad.getD (i + j) false)) l.mesh) } }
  | _, _ =>
    let id := x.s.nextId
    let r := { x.req path (.read n) t va x.p.mask (.table x.pid k off) with
      named := 0, noFill := !local_
      after := if path = .f then x.s.flying (fun r => r.grp == x.gid && r.isLG) else [] }
    { x with
      s := x.s.issue r
      p := { x.p with tables := x.p.tables.modify k (fun g => { g with left := g.left ++ [id] }) } }
/-- DETAIL of poison in a table (23 R354). -/
def View.tablePoison (x : View) (t : Gather) : Nat :=
  if t.mesh then 2
  else match x.translate (plus t.addr (t.bad.headD 0)) .read with
    | .hit u _ => poisonDetail u
    | _ => 1
/-- What a word that needs a table does: it goes on with the bytes once they are all there; before that it stops on the
faults of R257, waits for a walk, or issues the loads and stays unissued. Poison in the table faults, imprecisely (01 R36,
23 R347), with the DETAIL of the first poisoned byte's place. -/
def View.withTable (x : View) (path : APath) (a : DWord) (n align : Nat) (f : List Byte → State) : State :=
  match x.p.table a n with
  | some t =>
    if !t.left.isEmpty then x.s
    else if !t.bad.isEmpty then
      ((x.s.lateFault x.eid x.tid x.gid 0 x.p.pc .poison a (x.tablePoison t)).modPath x.pid (fun p =>
        { p with wait := .stopped, chain := [], latches := [], pos := 0, tables := [], locking := 0 }))
    else f t.bytes
  | none =>
    if a.toNat % align ≠ 0 then x.raise .misaligned a 0 0
    else
      let cs := chunks a.toNat a.toNat n
      match x.check 1 .read true false (fun _ => false) (cs.map (fun c => (0, plus a c.1))) (some a) with
      | .stop s => s
      | .ok z as =>
        let k := z.p.tables.length
        let z := if path = .l then z.freshen else z
        let z := { z with p := { z.p with tables := z.p.tables ++ [Gather.mk a n [] [] [] false] } }
        ((cs.zip as).foldl (fun v c => v.tableChunk path k (plus a c.1.1) c.1.1 c.1.2 c.2.2.2.1 c.2.2.2.2) z).commit
/-- CP.MCAST: the descriptor at s4j, the list of the stamp's value and the handles. -/
def execCpMcast (w : FmtX (Fin 32) (Fin 16) (Fin 32) Unit) (s : State) : Host.Outcome State Fault Refusal :=
  tagWord w (fun x =>
    let r (k : Nat) : Nat := (x.g.sreg (4 * w.b.val + k)).toNat
    let src := x.g.spair (2 * w.a.val)
    let lst := x.g.spair (2 * w.cc.val)
    let stamp := r 3 ≠ 0xFFFFFFFF
    if r 0 < 4 ∨ 65536 < r 0 ∨ r 0 % 4 ≠ 0 then x.raise .illegalOperand 0 0 0
    else if r 1 % 4 ≠ 0 then x.raise .misaligned (BitVec.ofNat 64 (r 1)) 0 0
    else if r 2 = 0 ∨ 64 < r 2 then x.raise .illegalOperand 0 0 0
    else if stamp ∧ r 3 % 8 ≠ 0 then x.raise .misaligned (BitVec.ofNat 64 (r 3)) 0 0
    else if src.toNat % 4 ≠ 0 then x.raise .misaligned src 0 0
    else x.withTable .l lst (8 + 4 * r 2) 8 (fun bs =>
      let hs := (List.range (r 2)).map (fun i => BitVec.ofNat 32 (leNat ((bs.drop (8 + 4 * i)).take 4)))
      x.oneOp w (.mcast src (r 0) (r 1) hs
        (if stamp then some (r 3, BitVec.ofNat 64 (leNat (bs.take 8))) else none)) [])) s

/-! ## TK.CAN (14 R276) -/

/-- The operations under a tag that have not started (04 R82): those that wait for a trigger, and stamps and arrivals
that wait for what they cover. -/
def State.cancellable (s : State) (grp tag : Nat) : List Nat :=
  ((s.batch grp tag).filter (fun e => !e.2.started &&
    (e.2.trig.isSome || (e.2.kind.covering && !s.allDone (e.2.covers ++ e.2.release))))).map (·.1)
/-- TK.CAN. -/
def execTkCan (w : FmtA Unit (Fin 8) Unit Unit Unit) (s : State) : Host.Outcome State Fault Refusal :=
  onPath s (fun x =>
    let s := (x.retire w.q .none).commit
    if x.guardOn w.g then (x.s.cancellable x.gid w.a.val).foldl (fun s i => s.complete i 3) s else s)
end Sys2Proof.Machine
end

