-- ==== Sys2Proof/Machine/Control.lean ====
section
/-! DEFINITION. Divergence, joins, regang and exits, and classes BR and SY (06 R107, R111 to R114; 10 R178 to R193;
21 R322 to R326). -/
namespace Sys2Proof.Machine
open Sys2Proof

/-! ## Slices and arms (R114, R322) -/

/-- The slices that hold lanes of a mask. -/
def slicesOf (m : Lanes) : List Nat := (List.range 16).filter (fun j => (m &&& sliceLanes j) != 0)
/-- The lanes of some slices. -/
def lanesOfSlices (js : List Nat) : Lanes := js.foldl (fun m j => m ||| sliceLanes j) 0
/-- The top-level record of the slice that a path is an arm of. -/
def Group.topOf (g : Group) (p : Path) : Option (Nat × TopRec) :=
  match slicesOf p.mask with
  | [j] => (SMap.find? g.tops j).map (fun r => (j, r))
  | _ => none
/-- The path is an arm of a divided slice, or has pushed directions. -/
def Group.divided (g : Group) (p : Path) : Bool := !p.frames.isEmpty || (g.topOf p).isSome
/-- The innermost pending join (R181). -/
def Group.joinOf (g : Group) (p : Path) : Option DWord :=
  match p.frames with
  | f :: _ => some f.join
  | [] => (g.topOf p).map (fun r => r.2.join)
/-- The arms of a slice of a group: paths that hold lanes of it. -/
def State.armsAt (s : State) (grp j : Nat) : SMap Path :=
  (s.pathsOf grp).filter (fun e => (e.2.mask &&& sliceLanes j) != 0)
/-- The path at an address with a fresh fetch. -/
def Path.restart (p : Path) (pc : DWord) : Path :=
  { p with pc := pc, wait := .none, chain := [], pos := 0, latches := [], tables := [], locking := 0, refused := [], safe := none }

/-! ## Joins (R181, R324) -/

/-- A direction stops at its join or ends: a pushed direction runs, or the directions go on as one at the join. -/
def Path.stopDirection (p : Path) (live : Lanes) (f : Frame) (fs : List Frame) : Path :=
  let f' := { f with
    arrMask := f.arrMask ||| live
    arrExec := f.arrExec ||| (p.exec &&& live)
    arrFstat := f.arrFstat ||| p.fstat }
  match f.pend with
  | d :: ds =>
    { p.restart d.pc with
      mask := d.mask, exec := d.exec, fmt := d.fmt, fstat := d.fstat, entry := d.entry, branch := d.branch,
      frames := { f' with pend := ds } :: fs }
  | [] =>
    { p.restart f.join with mask := f'.arrMask, exec := f'.arrExec, fmt := f.fmt, fstat := f'.arrFstat, frames := fs }
/-- The arms of some lanes as one path: masks, EXEC and FSTAT joined, what the arms wait for kept. -/
def mergePaths (keep : Path) (ps : List Path) : Path :=
  ps.foldl (fun k p =>
    let k := if !k.inHandler && p.inHandler then
        { k with trapCode := p.trapCode, trapPc := p.trapPc, trapArg := p.trapArg, bindAddr := p.bindAddr,
                 inHandler := true, trapQ := p.trapQ }
      else k
    { k with
      mask := k.mask ||| p.mask
      exec := k.exec ||| p.exec
      fstat := k.fstat ||| p.fstat
      acquires := k.acquires ++ p.acquires.filter (fun i => !k.acquires.contains i)
      fresh := k.fresh || p.fresh
      nextChain := max k.nextChain p.nextChain
      hold := k.hold ++ p.hold.filter (fun i => !k.hold.contains i) }) keep
/-- The record of a slice is empty. -/
def Group.dropTop (g : Group) (j : Nat) : Group := { g with tops := SMap.del g.tops j }
/-- Both arms of a slice have stopped at the join, or ended: the slice goes on as one path, with the lanes that wait
there without an arm. -/
def State.mergeTop (s : State) (grp j : Nat) : State :=
  match SMap.find? s.groups grp with
  | none => s
  | some g => match SMap.find? g.tops j with
    | none => s
    | some r =>
      match s.armsAt grp j with
      | [] => s
      | (k, p) :: rest =>
        if ((k, p) :: rest).all (fun e => e.2.wait == .join) then
          let m := mergePaths p (rest.map (·.2))
          let m := { m.restart r.join with
            mask := m.mask ||| r.arrMask, exec := m.exec ||| r.arrExec, fstat := m.fstat ||| r.arrFstat, fmt := r.fmt }
          let s := rest.foldl (fun s e => { s with paths := SMap.del s.paths e.1 }) s
          (s.setPath k m).modGroup grp (fun g => g.dropTop j)
        else s
/-- An arm whose lanes have all exited ends; its sibling, or lanes that wait at the join, go on (R189). -/
def State.endArm (s : State) (pid : Nat) (p : Path) (g : Group) : State :=
  let s' := { s with paths := SMap.del s.paths pid }
  match g.topOf p with
  | none => s'
  | some (j, r) =>
    let r' := { r with arrFstat := r.arrFstat ||| p.fstat }
    if !(s'.armsAt p.grp j).isEmpty then
      (s'.modGroup p.grp (fun g => { g with tops := SMap.put g.tops j r' })).mergeTop p.grp j
    else if r.arrMask &&& ~~~ g.exited = 0 then s'.modGroup p.grp (fun g => g.dropTop j)
    else
      (s.setPath pid { p.restart r.join with
        mask := r.arrMask, exec := r.arrExec, fmt := r.fmt, fstat := r'.arrFstat }).modGroup p.grp (fun g => g.dropTop j)
/-- What stops, pops, merges or ends where a path stands (R114, R181, R189). -/
def State.settleFrom : Nat → State → Nat → State
  | 0, s, _ => s
  | n + 1, s, pid =>
    match SMap.find? s.paths pid with
    | none => s
    | some p => match SMap.find? s.groups p.grp with
      | none => s
      | some g =>
        let live := p.mask &&& ~~~ g.exited
        let there (j : DWord) : Bool := p.pc == j && p.chain.isEmpty && p.wait == .none
        match p.frames with
        | f :: fs =>
          if live ≠ 0 ∧ !there f.join then s
          else State.settleFrom n (s.setPath pid (p.stopDirection live f fs)) pid
        | [] =>
          if live = 0 then s.endArm pid p g
          else match g.topOf p with
            | none => s
            | some (j, r) =>
              if there r.join then (s.setPath pid { p with wait := .join, safe := none }).mergeTop p.grp j else s
/-- A path settled: a slice has four lanes, so at most eight directions. -/
def State.settlePath (s : State) (pid : Nat) : State := s.settleFrom 12 pid

/-! ## Regang (R183, R184) -/

/-- The unexited slices of a group with their arms. -/
def State.liveSlices (s : State) (grp : Nat) (g : Group) : List (Nat × SMap Path) :=
  ((List.range 16).map (fun j =>
    (j, (s.pathsOf grp).filter (fun e => (e.2.mask &&& ~~~ g.exited &&& sliceLanes j) != 0)))).filter (fun e => !e.2.isEmpty)
/-- The regang word at which a slice stands, with the slices that its arms name. -/
def regangAt (j : Nat) (arms : SMap Path) : Option (DWord × Nat) :=
  match arms with
  | [] => none
  | (_, p) :: _ => match p.wait with
    | .regang _ a =>
      if arms.all (fun e => match e.2.wait with | .regang _ b => a == b | _ => false) then
        some (a, arms.foldl (fun n e => match e.2.wait with | .regang m _ => n ||| m | _ => n) (2 ^ j))
      else none
    | _ => none
/-- The largest part of some slices in which every named unexited slice lies too. -/
def closedUnder (live : List Nat) : Nat → List (Nat × Nat) → List (Nat × Nat)
  | 0, g => g
  | n + 1, g =>
    let ok (e : Nat × Nat) : Bool := live.all (fun k => !e.2.testBit k || g.any (fun f => f.1 == k))
    if g.all ok then g else closedUnder live n (g.filter ok)
/-- The lowest lane that an arm holds and that has not exited. -/
def lowOf (g : Group) (p : Path) : Nat := lowestLane (p.mask &&& ~~~ g.exited)
/-- The two arms of a slice that met at a regang word merge as at a join, with the FMT of the lowest lane's arm; a lone arm goes
on as it is, and so does the slice's record while lanes wait at its join without an arm. FMTX is not set where only these arms
differ: R183 names the slices (DESIGN CHOICE, log 51). -/
def State.fuseSlice (s : State) (grp j : Nat) (g : Group) : State :=
  let arms := (s.pathsOf grp).filter (fun e => (e.2.mask &&& ~~~ g.exited &&& sliceLanes j) != 0)
  match arms with
  | [] => s
  | [_] => s
  | a :: rest =>
    let keep := rest.foldl (fun k e => if lowOf g e.2 < lowOf g k.2 then e else k) a
    let others := arms.filter (fun e => e.1 != keep.1)
    let m := mergePaths keep.2 (others.map (·.2))
    let m := { m with frames := others.flatMap (fun e => e.2.frames) ++ m.frames }
    let s := (others.foldl (fun s e => { s with paths := SMap.del s.paths e.1 }) s).setPath keep.1 m
    match SMap.find? g.tops j with
    | some r => if r.arrMask &&& ~~~ g.exited = 0 then s.modGroup grp (fun g => g.dropTop j) else s
    | none => s
/-- The slices of a set released together: they take the lowest key among them, ORed FSTAT and one FMT, and those
that are not divided go on as one path. -/
def State.releaseSlices (s : State) (grp : Nat) (js : List Nat) (g : Group) : State :=
  let s := js.foldl (fun s j => s.fuseSlice grp j g) s
  let key := js.foldl (fun k j => min k (g.key j)) 65535
  let arms := (s.pathsOf grp).filter (fun e => (e.2.mask &&& ~~~ g.exited &&& lanesOfSlices js) != 0)
  let first := arms.foldl (fun (k : Option Path) e => match k with
    | none => some e.2
    | some p => if lowOf g e.2 < lowOf g p then some e.2 else some p) none
  let fmt := match first with
    | some p => p.fmt
    | none => 0
  let differ := arms.any (fun e => e.2.fmt != fmt)
  let fstat := arms.foldl (fun x e => x ||| e.2.fstat) (if differ then 0x40 else 0)
  let s := s.modGroup grp (fun g => js.foldl (fun g j => g.setKey j key) g)
  let s := arms.foldl (fun s e =>
    s.setPath e.1 { e.2 with fmt := fmt, fstat := fstat, wait := .none }) s
  let h := match SMap.find? s.groups grp with
    | some h => h
    | none => g
  match (s.pathsOf grp).filter (fun e => !h.divided e.2 && (e.2.mask &&& ~~~ g.exited &&& lanesOfSlices js) != 0) with
  | [] => s
  | (k, p) :: rest =>
    let s := rest.foldl (fun s e => { s with paths := SMap.del s.paths e.1 }) s
    s.setPath k (mergePaths p (rest.map (·.2)))
/-- The view of a path. -/
def State.viewOf (s : State) (pid : Nat) : Option View := 
  (State.view { s with cur := some pid }).map (fun (x : View) => { x with s := s })
/-- What the group computes whenever a slice arrives at a regang word or its last lane exits: the releases; a fault
where every arm of every unexited slice waits and none is possible (R184). -/
def State.regangCheck (s : State) (grp : Nat) : State :=
  match SMap.find? s.groups grp with
  | none => s
  | some g =>
    let live := s.liveSlices grp g
    let at_ := live.filterMap (fun e => (regangAt e.1 e.2).map (fun r => (r.1, e.1, r.2)))
    let words := at_.foldl (fun (l : List DWord) a => if l.contains a.1 then l else l ++ [a.1]) []
    let sets := words.map (fun a =>
      (closedUnder (live.map (·.1)) 16 ((at_.filter (fun x => x.1 == a)).map (fun x => x.2))).map (·.1))
    let sets := sets.filter (fun l => !l.isEmpty)
    if !sets.isEmpty then sets.foldl (fun s js => s.releaseSlices grp js g) s
    else
      let arms : SMap Path := live.flatMap (fun e => e.2)
      let stuck := arms.all (fun e => match e.2.wait with | .regang _ _ => true | .join => true | _ => false)
      if !stuck then s
      else match arms.find? (fun (e : Nat × Path) => match e.2.wait with | .regang _ _ => true | _ => false) with
        | some (pid, p) => match s.viewOf pid, p.wait with
          | some x, .regang _ a => { x with p := { x.p with pc := a } }.raise .rejoinCycle 0 0 0
          | _, _ => s
        | none => s

/-! ## Exits (R111, R189, R190) -/

/-- Lanes exit: their EXEC bits are cleared in every path and on the stack, arms without lanes end. -/
def State.exitLanes (s : State) (grp : Nat) (lanes : Lanes) : State :=
  let s := s.modGroup grp (fun g => { g with
    exited := g.exited ||| lanes
    tops := g.tops.map (fun (e : Nat × TopRec) => (e.1, { e.2 with arrExec := e.2.arrExec &&& ~~~ lanes })) })
  let clearFrame (f : Frame) : Frame := { f with
    arrExec := f.arrExec &&& ~~~ lanes
    pend := f.pend.map (fun d => { d with exec := d.exec &&& ~~~ lanes }) }
  let s := { s with paths := s.paths.map (fun (e : Nat × Path) =>
    if e.2.grp == grp then
      (e.1, { e.2 with exec := e.2.exec &&& ~~~ lanes, frames := e.2.frames.map clearFrame })
    else e) }
  ((s.pathsOf grp).foldl (fun s e => s.settlePath e.1) s).regangCheck grp
/-- A path is within a chain that it can go on with. -/
def Path.midChain (p : Path) : Bool := p.pos != 0 && p.wait == .none
/-- A path's current chain is to be completed before its group stops (10 R190): it has issued a word of it and waits for
nothing, or its word waits for something that R190 does not list. -/
def Path.unfinished (p : Path) : Bool :=
  match p.wait with
  | .none => p.pos != 0
  | .derive _ _ => true
  | .register _ => true
  | .shtl .. => true
  | _ => false
/-- A group of a halted team whose chains are done exits all its lanes; else it issues no further chain. -/
def State.haltGroup (s : State) (grp : Nat) : State :=
  match SMap.find? s.groups grp with
  | none => s
  | some g =>
    if (s.pathsOf grp).any (fun e => e.2.unfinished) then s.setGroup grp { g with halted := true }
    else s.exitLanes grp (BitVec.allOnes 64)

/-! ## Paths that part (R107, R114, R180, R187) -/

/-- One part of a path that divides. -/
structure Part where
  mask : Lanes
  exec : Lanes
  pc : DWord
  taken : Bool
  entry : DWord
  frames : List Frame
  deriving DecidableEq, Repr
/-- The path goes on as its parts: the first keeps its number. -/
def View.part (x : View) (q : Bool) (parts : List Part) : State :=
  let from_ (k : Part) : Path :=
    { x.p.jump q k.pc with
      mask := k.mask, exec := k.exec, entry := k.entry, frames := k.frames,
      branch := if k.taken then some x.p.pc else none }
  match parts with
  | [] => x.commit
  | k :: ks =>
    let s := { x with p := from_ k }.commit
    ks.foldl (fun s k => { s.setPath s.nextId (from_ k) with nextId := s.nextId + 1 }) s
/-- A fresh gang key of a launch on a core (R107). -/
def Entry.freshKey (e : Entry) (core : Nat) : Entry × Nat :=
  let k := SMap.getD e.keyCtr core 1
  ({ e with keyCtr := SMap.set e.keyCtr core (if k = 65535 then 1 else k + 1) 1 }, k)
/-- Slices that agree within themselves and not with each other: the direction of fewer slices takes a fresh key. -/
def View.newKey (x : View) (take stay : List Nat) : View :=
  if take.isEmpty ∨ stay.isEmpty then x
  else
    let (e, k) := x.e.freshKey x.g.core
    { x with
      s := x.s.setEntry x.eid e
      e := e
      g := (if take.length ≤ stay.length then take else stay).foldl (fun g j => g.setKey j k) x.g }
/-- The path's unexited lanes. -/
def View.live (x : View) : Lanes := x.p.mask &&& ~~~ x.g.exited
/-- A pushed direction, taken or not: a taken one keeps the branch's address for a fetch that fails (R178). -/
def View.pend (x : View) (pc : DWord) (m : Lanes) (entry : DWord) (exec : Lanes) (taken : Bool) : Pend :=
  ⟨pc, m, exec, x.p.fmt, x.p.fstat, entry, if taken then some x.p.pc else none⟩
/-- A part of the path without pushed directions of its own. -/
def View.whole (x : View) (m : Lanes) (pc : DWord) (taken : Bool) : Part := ⟨m, x.p.exec &&& m, pc, taken, 0, x.p.frames⟩

/-! ## BR (R178 to R187) -/

/-- The target of a format B word. -/
def FmtB.target (w : FmtB) (pc : DWord) : DWord := pc + w.tgt.signExtend 64 * 8
/-- The path transfers control. -/
def View.jump (x : View) (q : Bool) (a : DWord) : View := { x with p := x.p.jump q a }

/-- BR.BRA (R179). -/
def execBrBra (w : FmtB) (s : State) : Host.Outcome State Fault Refusal :=
  onPath s (fun x => (if x.guardOn w.g then x.jump w.q (FmtB.target w x.p.pc) else x.retire w.q .none).commit)
/-- BR.BRV (R180). -/
def execBrBrv (w : FmtB) (s : State) : Host.Outcome State Fault Refusal :=
  onPath s (fun x =>
    let t := x.active w.g &&& lowLanes x.w
    let f := x.live &&& ~~~ t
    let next := nextPc x.p.pc w.q
    let tgt := FmtB.target w x.p.pc
    let join := x.p.pc + w.join.setWidth 64 * 8
    if t = 0 then (x.retire w.q .none).commit
    else if w.join = 0 ∨ f = 0 then (x.jump w.q tgt).commit
    else if x.g.divided x.p then
      let low := decide (lowestLane t < lowestLane f)
      let run := if low then t else f
      let push := if low then f else t
      let fr : Frame := ⟨join, x.p.fmt, [x.pend (if low then next else tgt) push 0 (x.p.exec &&& push) (!low)], 0, 0, 0⟩
      x.part w.q [⟨run, x.p.exec &&& run, if low then tgt else next, low, 0, fr :: x.p.frames⟩]
    else
      let js := slicesOf x.live
      let take := js.filter (fun j => (f &&& sliceLanes j) == 0)
      let stay := js.filter (fun j => (t &&& sliceLanes j) == 0)
      let cut := js.filter (fun j => (t &&& sliceLanes j) != 0 && (f &&& sliceLanes j) != 0)
      let apart := decide (tgt ≠ next)
      let y := if apart then x.newKey take stay else x
      let y := { y with g := cut.foldl (fun g j =>
        { g with tops := SMap.put g.tops j ⟨join, x.p.fmt, 0, 0, 0⟩ }) y.g }
      let m (l : List Nat) : Lanes := x.live &&& lanesOfSlices l
      let some_ (l : List Nat) (k : Part) : List Part := if l.isEmpty then [] else [k]
      let kept := if apart then
          some_ stay (x.whole (m stay) next false) ++ some_ take (x.whole (m take) tgt true)
        else some_ (stay ++ take) (x.whole (m (stay ++ take)) next true)
      y.part w.q (kept ++ cut.flatMap (fun j =>
        [x.whole (f &&& sliceLanes j) next false, x.whole (t &&& sliceLanes j) tgt true])))
/-- BR.JOIN (R182). -/
def execBrJoin (w : FmtB) (s : State) : Host.Outcome State Fault Refusal :=
  onPath s (fun x =>
    match x.g.joinOf x.p with
    | some j => (if x.guardOn w.g then x.jump w.q j else x.retire w.q .none).commit
    | none => (x.retire w.q .none).commit)
/-- BR.REGANG (R183). -/
def execBrRegang (w : FmtA Unit USrc Unit Unit Unit) (s : State) : Host.Outcome State Fault Refusal :=
  onPath s (fun x =>
    if !x.guardOn w.g then (x.retire w.q .none).commit
    else
      let y := x.sample (USrc.isClk w.a)
      let names := (y.uni w.a).toNat % 2 ^ (x.w / 4)
      let z := y.retire w.q .none
      ({ z with p := { z.p with wait := .regang names x.p.pc } }.commit).regangCheck x.gid)
/-- BR.CALL (R185). -/
def execBrCall (w : FmtB) (s : State) : Host.Outcome State Fault Refusal :=
  onPath s (fun x =>
    if x.guardOn w.g then
      ({ x with g := x.g.setSpair 62 (nextPc x.p.pc w.q) }.jump w.q (FmtB.target w x.p.pc)).commit
    else (x.retire w.q .none).commit)
/-- BR.RET (R185). -/
def execBrRet (w : FmtA Unit (Fin 32) Unit Unit Unit) (s : State) : Host.Outcome State Fault Refusal :=
  onPath s (fun x =>
    let a := x.g.spair (2 * w.a.val)
    if !x.guardOn w.g then (x.retire w.q .none).commit
    else if a.toNat % 8 ≠ 0 then x.raise .misaligned a 0 0
    else (x.jump w.q a).commit)
/-- BR.BRX (R186). -/
def execBrBrx (w : FmtA Unit USrc (Fin 32) USrc Unit) (s : State) : Host.Outcome State Fault Refusal :=
  onPath s (fun x =>
    let y := x.sample (USrc.isClk w.a || USrc.isClk w.cc)
    let a := y.uni w.a
    let tab := x.g.spair (2 * w.b.val)
    if !x.guardOn w.g then (x.retire w.q .none).commit
    else if (y.uni w.cc).toNat ≤ a.toNat then (y.retire w.q .none).commit
    else if tab.toNat % 4 ≠ 0 then x.raise .misaligned tab 0 0
    else y.withTable .l (tab + a.setWidth 64 * 4) 4 4 (fun bs =>
      (y.jump w.q (x.p.pc + (BitVec.ofNat 32 (leNat bs)).signExtend 64 * 8)).commit))

/-- The tables of several addresses, read one after another; the word goes on once all are there. -/
def View.withTables (x : View) (n : Nat) : List DWord → State → State
  | [], s => s
  | a :: as, s => x.withTable .l a n n (fun _ => x.withTables n as s)
/-- A word in memory that a fetch of an address would find, by the core's buffer or by the tables (DEDUCED, log 23). -/
def View.peekWord (x : View) (a : DWord) : Option (BitVec 64) :=
  match (x.s.core x.g.core).code.find? (fun l => l.ctx == x.e.ctx && l.line == a.toNat / 256) with
  | some l => some (BitVec.ofNat 64 (leNat ((l.bytes.drop (a.toNat % 256)).take 8)))
  | none => match x.s.translate x.g.core x.e.ctx none a.toNat .fetch with
    | .hit t _ => some (BitVec.ofNat 64 (leNat (x.s.readAt t 8).1))
    | .fault _ => none
    | .miss _ => match x.s.walkTables x.e.ctx a.toNat with
      | .found leaf _ _ =>
        if leaf.x then some (BitVec.ofNat 64 (leNat (x.s.readAt (x.s.targetOf leaf a.toNat) 8).1)) else none
      | .refused _ => none
/-- Where that word lies when no line of the core's buffer holds it: device memory. -/
def View.peekAt (x : View) (a : DWord) : Option Nat :=
  if ((x.s.core x.g.core).code.find? (fun l => l.ctx == x.e.ctx && l.line == a.toNat / 256)).isSome then none
  else match x.s.translate x.g.core x.e.ctx none a.toNat .fetch with
    | .hit (.dev pa) _ => some pa
    | .miss _ => (match x.s.walkTables x.e.ctx a.toNat with
      | .found leaf _ _ => (match x.s.targetOf leaf a.toNat with
        | .dev pa => some pa
        | _ => none)
      | .refused _ => none)
    | _ => none
/-- The entry of a page table that a look at that word needs and that lies in a derived tile which is not VALID. -/
def View.peekWalk (x : View) (a : DWord) : Option Nat :=
  if ((x.s.core x.g.core).code.find? (fun l => l.ctx == x.e.ctx && l.line == a.toNat / 256)).isSome then none
  else match x.s.translate x.g.core x.e.ctx none a.toNat .fetch with
    | .miss _ => x.s.walkWaits x.e.ctx a.toNat
    | _ => none
/-- What a look at the target words reads in derived tiles which are not VALID, entries of page tables first: their reads are
held, and start the recomputes of STALE tiles (02 R49). -/
def View.peekHeld (x : View) (as : List DWord) : List Nat :=
  let ptes := as.filterMap x.peekWalk
  if ptes.isEmpty then (as.filterMap x.peekAt).filter (fun pa => !(x.s.notValid pa 8).isEmpty) else ptes
/-- The word at an address is SY.TRAP with the bind code. -/
def View.isBindStub (x : View) (a : DWord) : Bool :=
  match x.peekWord a with
  | none => false
  | some w => match parseWord x.w w with
    | .ok (.syTrap t) => t.sarg
    | _ => false
/-- A class of lanes that call one target. -/
structure CallClass where
  lanes : Lanes
  tgt : DWord
  entry : DWord
  deriving DecidableEq, Repr
/-- Lanes partitioned by target, and by call-table entry where the target is a bind stub; in the order of their lowest
lanes. -/
def callClasses (stub : DWord → Bool) (ls : List (Nat × DWord × DWord)) : List CallClass :=
  ls.foldl (fun (cs : List CallClass) l =>
    let same (c : CallClass) : Bool := c.tgt == l.2.2 && (c.entry == l.2.1 || !stub l.2.2)
    if cs.any same then cs.map (fun c => if same c then { c with lanes := c.lanes ||| oneLane l.1 } else c)
    else cs ++ [⟨oneLane l.1, l.2.2, l.2.1⟩]) []
/-- The parts of an arm, or of one slice, that a call divides, with the slice's record where it has none. -/
def View.callParts (x : View) (ret : DWord) (live : Lanes) (cs : List CallClass) : Option TopRec × List Part :=
  let act := cs.foldl (fun m c => m ||| c.lanes) 0
  let rest := live &&& ~~~ act
  let frame (l : List CallClass) (arr : Lanes) : Frame :=
    ⟨ret, x.p.fmt, l.map (fun c => x.pend c.tgt c.lanes c.entry c.lanes true), arr, x.p.exec &&& arr, 0⟩
  match cs with
  | [] => (none, [⟨live, x.p.exec &&& live, ret, false, 0, x.p.frames⟩])
  | c :: more =>
    if more.isEmpty ∧ rest = 0 then (none, [⟨live, c.lanes, c.tgt, true, c.entry, x.p.frames⟩])
    else if x.g.divided x.p then
      (none, [⟨c.lanes, c.lanes, c.tgt, true, c.entry, frame more rest :: x.p.frames⟩])
    else
      (some ⟨ret, x.p.fmt, rest, x.p.exec &&& rest, 0⟩,
        ⟨c.lanes, c.lanes, c.tgt, true, c.entry, []⟩ ::
          (match more with
            | [] => []
            | d :: ds => [⟨d.lanes, d.lanes, d.tgt, true, d.entry, if ds.isEmpty then [] else [frame ds 0]⟩]))
/-- Parts that go to one place together stay one path, where one call-table entry brought them there (DESIGN CHOICE, log 66). -/
def joinParts (ps : List Part) : List Part :=
  ps.foldl (fun (l : List Part) k =>
    let same (m : Part) : Bool := m.pc == k.pc && m.entry == k.entry && m.frames == k.frames && m.taken == k.taken
    if l.any same then
      l.map (fun m => if same m then { m with mask := m.mask ||| k.mask, exec := m.exec ||| k.exec } else m)
    else l ++ [k]) []
/-- BR.CALLV (R187). Under a uniform guard that does not hold it writes no return pair (08 R141; DESIGN CHOICE, log 67). -/
def execBrCallv (w : FmtA (Fin 32) CallSrc Unit Unit Unit) (s : State) : Host.Outcome State Fault Refusal :=
  onPath s (fun x =>
    let m := x.active w.g &&& lowLanes x.w
    let ret := nextPc x.p.pc w.q
    let es := (lanesBelow x.w m).map (fun i => (i, x.callAddr w.a i))
    let y := { x with g := x.g.setSpair (2 * w.d.val) ret }
    if !x.guardOn w.g then (x.retire w.q .none).commit
    else if m = 0 then (y.retire w.q .none).commit
    else match x.check 8 .read false false (fun _ => false) es with
    | .stop s => s
    | .ok z _ =>
      let tabs := es.foldl (fun (l : List DWord) e => if l.contains e.2 then l else l ++ [e.2]) []
      let target (a : DWord) : DWord := match x.p.table a 8 with
        | some t => BitVec.ofNat 64 (leNat t.bytes)
        | none => 0
      let ls := es.map (fun e => (e.1, e.2, target e.2))
      let mis := (ls.filter (fun l => l.2.2.toNat % 8 != 0)).map (fun l => (l.1, l.2.2))
      z.withTables 8 tabs
        (if !mis.isEmpty then x.raiseAt .misaligned false mis 0
        else if !(x.peekHeld (ls.map (·.2.2))).isEmpty then
          (x.peekHeld (ls.map (·.2.2))).foldl (fun s pa => s.startStale pa 8 x.e.fn) x.s
        else
          let pick (l : Lanes) : List CallClass := callClasses x.isBindStub (ls.filter (fun e => hasLane l e.1))
          if x.g.divided x.p then { y with s := z.s }.part w.q (x.callParts ret x.live (pick x.live)).2
          else
            let js := (slicesOf x.live).map (fun j => (j, x.callParts ret (x.live &&& sliceLanes j) (pick (sliceLanes j))))
            let g := js.foldl (fun g e => match e.2.1 with
              | some r => { g with tops := SMap.put g.tops e.1 r }
              | none => g) y.g
            let one := js.filter (fun (e : Nat × Option TopRec × List Part) => e.2.1.isNone)
            let cut := js.filter (fun (e : Nat × Option TopRec × List Part) => e.2.1.isSome)
            { y with s := z.s, g := g }.part w.q
              (joinParts (one.flatMap (fun (e : Nat × Option TopRec × List Part) => e.2.2)) ++ cut.flatMap (fun (e : Nat × Option TopRec × List Part) => e.2.2))))

/-! ## SY (R188 to R193) -/

/-- SY.NOP. -/
def execSyNop (w : FmtS Unit Unit Unit) (s : State) : Host.Outcome State Fault Refusal :=
  onPath s (fun x => (x.retire w.q .none).commit)
/-- SY.EXIT (R189). -/
def execSyExit (w : FmtS Unit Unit Unit) (s : State) : Host.Outcome State Fault Refusal :=
  onPath s (fun x =>
    let m := x.active w.g &&& lowLanes x.w
    let s := (x.retire w.q .none).commit
    if m = 0 then s else s.exitLanes x.gid m)
/-- SY.TRAP (R191). A path that waits for the handler has made its tests and keeps the argument of its word. -/
def execSyTrap (w : FmtS Unit USrc Bool) (s : State) : Host.Outcome State Fault Refusal :=
  onPath s (fun x => match x.p.wait with
    | .handler bindKind arg _ => x.takeTrap bindKind arg w.q
    | _ =>
      if x.active w.g &&& lowLanes x.w = 0 then (x.retire w.q .none).commit
      else
        let y := x.sample (USrc.isClk w.a)
        y.takeTrap w.sarg (y.uni w.a) w.q)
/-- SY.TRET (R192): every access of the path on L and G comes before the group's later accesses on L (R325). -/
def execSyTret (w : FmtS Unit RetSrc Unit) (s : State) : Host.Outcome State Fault Refusal :=
  onceWord w (fun x =>
    let pc := match w.a with
      | .next => nextPc x.p.trapPc x.p.trapQ
      | .s n => x.g.spair (2 * n.val)
    let ids := x.released
    if !x.p.inHandler then x.raise .illegalInstruction 0 0 0
    else if pc.toNat % 8 ≠ 0 then x.raise .misaligned pc 0 0
    else
      { x with
        g := { x.g with xf := if ids.isEmpty then x.g.xf else x.g.xf ++ [XfHold.mk ids ⟨true, false, false, false, false⟩ true] }
        p := x.p.leaveHandler w.q pc }.commit) s
/-- SY.YIELD: timing only. -/
def execSyYield (w : FmtS Unit Unit Unit) (s : State) : Host.Outcome State Fault Refusal :=
  onPath s (fun x => (x.retire w.q .none).commit)
/-- SY.SLEEP. -/
def execSySleep (w : FmtS Unit USrc Unit) (s : State) : Host.Outcome State Fault Refusal :=
  onceWord w (fun x =>
    let y := x.sample (USrc.isClk w.a)
    let a := (y.uni w.a).toNat
    let z := y.retire w.q .none
    if a = 0 then z.commit else { z with p := { z.p with wait := .sleep (x.s.cycle + a) } }.commit) s
/-- SLEEP_EXPIRE: the counter has advanced far enough. -/
def execSleepExpire (grp pid : Nat) (s : State) : Host.Outcome State Fault Refusal :=
  .next (match SMap.find? s.paths pid with
  | none => s
  | some p => match p.wait with
    | .sleep c => if p.grp = grp ∧ c ≤ s.cycle then s.setPath pid { p with wait := .none } else s
    | _ => s)
/-- A save of a resident team is requested (22 R345, R346): its arms go on to their next safe point. A second request is
ignored. -/
def State.requestSave (s : State) (tid : Nat) (bound full : Bool) : State :=
  match SMap.find? s.teams tid with
  | none => s
  | some t =>
    if t.place ≠ .resident ∨ t.save.isSome ∨ t.halted then s
    else
      let gs := (s.groupsOf tid).map (·.1)
      { (s.setTeam tid { t with save := some ⟨s.cycle, bound, full, true⟩ }) with
        paths := s.paths.map (fun (e : Nat × Path) =>
          if gs.contains e.2.grp then (e.1, { e.2 with safe := none }) else e) }
/-- SY.BKPT (R193): with the function's debug enable set, the event is posted and the team stops with a full save. -/
def execSyBkpt (w : FmtS Unit Unit Unit) (s : State) : Host.Outcome State Fault Refusal :=
  onceWord w (fun x =>
    let s := (x.retire w.q .none).commit
    let f := s.fn x.e.fn
    if !f.debug then s
    else
      ((s.setFn x.e.fn { f with dbgPc := x.p.pc, dbgTeam := x.t.handle, dbgValid := true, dbgId := x.tid }).modTeam x.tid (fun t =>
        { t with debug := true, save := none })).requestSave x.tid true true) s
/-- SY.GETS. -/
def execSyGets (w : FmtS (Fin 64) Unit Unit) (s : State) : Host.Outcome State Fault Refusal :=
  onceWord w (fun x => ({ x with g := x.g.setS w.d.val (x.p.fstat.setWidth 32) }.retire w.q .none).commit) s
/-- SY.SETS. -/
def execSySets (w : FmtS Unit USrc Unit) (s : State) : Host.Outcome State Fault Refusal :=
  onceWord w (fun x =>
    let y := x.sample (USrc.isClk w.a)
    let a := y.uni w.a
    if a >>> 7 ≠ 0 then x.raise .illegalOperand 0 0 0
    else ({ y with p := { y.p with fstat := a.setWidth 7 } }.retire w.q .none).commit) s
/-- SY.SFMT (R112). -/
def execSySfmt (w : FmtS Unit USrc Unit) (s : State) : Host.Outcome State Fault Refusal :=
  onceWord w (fun x =>
    let y := x.sample (USrc.isClk w.a)
    let a := y.uni w.a
    if a >>> 6 ≠ 0 then x.raise .illegalOperand 0 0 0
    else ({ y with p := { y.p with fmt := a.setWidth 6 } }.retire w.q .none).commit) s
/-- SY.SETX (R111). -/
def execSySetx (w : FmtS Unit USrc64 Unit) (s : State) : Host.Outcome State Fault Refusal :=
  onceWord w (fun x =>
    ({ x with p := { x.p with exec := x.uni64 w.a &&& x.live &&& lowLanes x.w } }.retire w.q .none).commit) s
/-- SY.GETX. -/
def execSyGetx (w : FmtS (Fin 32) Unit Unit) (s : State) : Host.Outcome State Fault Refusal :=
  onceWord w (fun x =>
    ({ x with g := x.g.setSpair (2 * w.d.val) (x.p.exec &&& lowLanes x.w) }.retire w.q .none).commit) s
/-- SY.HALT (R190): the lanes of every group of the team exit, each group's after its current chain; a save of the team
is given up (22 R346). -/
def execSyHalt (w : FmtS Unit Unit Unit) (s : State) : Host.Outcome State Fault Refusal :=
  onceWord w (fun x =>
    let s := ((x.retire w.q .none).commit).modTeam x.tid (fun t => { t with halted := true, save := none, debug := false })
    (s.groupsOf x.tid).foldl (fun s e => s.haltGroup e.1) s) s

end Sys2Proof.Machine
end

