-- ==== Sys2Proof/Machine/VFloat.lean ====
section
/-! DEFINITION. The floating and conversion classes VF, VH, VD, CV, VC and SF (11 R205 to R217, R225). -/
namespace Sys2Proof.Machine
open Sys2Proof

/-! ## Lane words that set flags, in the issuing path and for active lanes only (R200, 07 R132) -/

/-- A 32-bit floating lane result: FMT is read at issue, the active lanes' flags are ORed into FSTAT. -/
def floatWord {α β γ μ : Type} (w : FmtA (Dest (Fin 256)) α β γ μ) (reads : List Src)
    (f : View → FEnv → Nat → FRes) (s : State) : Host.Outcome State Fault Refusal :=
  onPath s (fun x =>
    let y := x.sample (reads.any Src.isClk && x.guardOn w.g)
    let v := FEnv.of y.p.fmt
    let m := y.active w.g
    let fl := (lanesBelow y.w m).foldl (fun a i => a ||| (f y v i).2) FFlags.none
    ((y.putLanes w.d m w.q (fun i => BitVec.ofNat 32 (f y v i).1)).setFlags fl).commit)
/-- A 64-bit floating lane result to an even pair. -/
def floatPairWord {α β γ μ : Type} (w : FmtA (Fin 128) α β γ μ) (f : View → FEnv → Nat → FRes) (s : State) :
    Host.Outcome State Fault Refusal :=
  onPath s (fun x =>
    let v := FEnv.of x.p.fmt
    let ls := lanesBelow x.w (x.active w.g)
    let fl := ls.foldl (fun a i => a ||| (f x v i).2) FFlags.none
    let g := ls.foldl (fun g i => g.setVpair (2 * w.d.val) i (BitVec.ofNat 64 (f x v i).1)) x.g
    ({ x with g := g, p := x.p.retire w.q .none }.setFlags fl).commit)
/-- A lane predicate computed with flags. -/
def floatPredWord {α β μ : Type} (w : FmtA (Fin 96) α β Unit μ) (reads : List Src)
    (f : View → FEnv → Nat → Bool × FFlags) (s : State) : Host.Outcome State Fault Refusal :=
  onPath s (fun x =>
    let y := x.sample (reads.any Src.isClk && x.guardOn w.g)
    let v := FEnv.of y.p.fmt
    let m := y.active w.g &&& lowLanes y.w
    let fl := (lanesBelow y.w m).foldl (fun a i => a ||| (f y v i).2) FFlags.none
    let g := y.setPreds w.d.val m (maskOf y.w (fun i => (f y v i).1))
    ({ y with g := g, p := y.p.retire w.q .none }.setFlags fl).commit)

/-! ## Sign modifiers (R205) -/

/-- .AA then .NA on a pattern. -/
def modA (f : FFmt) (m : FMod) (a : Nat) : Nat :=
  let b := if m.aa then a % f.signBit else a
  if m.na then f.flip b else b
/-- .NB on a pattern. -/
def modB (f : FFmt) (m : FMod) (b : Nat) : Nat := if m.nb then f.flip b else b
/-- .NC on a pattern. -/
def modC (f : FFmt) (m : FMod) (c : Nat) : Nat := if m.nc then f.flip c else c

/-! ## Integral values and the rest of VF (R207), by format -/

/-- An integral value by a rounding mode; NX only where `nx` asks for it. -/
def FFmt.integral (f : FFmt) (v : FEnv) (mode : Nat) (nx : Bool) (a : Nat) : FRes :=
  match f.operand v a with
  | .num s m e =>
    if 0 ≤ e then f.round v false s m e
    else
      let (k, exact) := roundShift mode s m (-e)
      ((f.round v false s k 0).1, if nx && !exact then .nx else .none)
  | x => f.ofVal v false x
/-- FRACT: a − FLOOR(a) rounded, kept below 1. -/
def FFmt.fract (f : FFmt) (v : FEnv) (a : Nat) : FRes :=
  let one := f.bias * 2 ^ f.fb
  match f.operand v a with
  | .num s m e =>
    if 0 ≤ e then f.sum v (.num s m e) (.num (!s) m e)
    else
      let (k, _) := roundShift 3 s m (-e)
      let r := f.sum v (.num s m e) (.num (!s) k 0)
      if r.1 = one then (one - 1, r.2) else r
  | .inf _ => f.invalid
  | x => f.ofVal v false x
/-- LDEXP: a × 2^b rounded once; exponents beyond ±4,096 act as ±4,096, which no format reaches. -/
def FFmt.ldexp (f : FFmt) (v : FEnv) (a : Nat) (b : Int) : FRes :=
  match f.operand v a with
  | .num s m e => f.round v false s m (e + max (-4096) (min 4096 b))
  | x => f.ofVal v false x
/-- GETEXP. -/
def FFmt.getexp (f : FFmt) (v : FEnv) (a : Nat) : FRes :=
  match f.operand v a with
  | .num _ m e =>
    if m = 0 then (f.sign true f.infBits, .dz)
    else
      let k : Int := (Nat.log2 m : Int) + e
      f.round v false (decide (k < 0)) k.natAbs 0
  | .inf _ => (f.infBits, .none)
  | x => f.ofVal v false x
/-- GETMANT. -/
def FFmt.getmant (f : FFmt) (v : FEnv) (a : Nat) : FRes :=
  match f.operand v a with
  | .num s m e => if m = 0 then f.round v false s m e else f.round v false s m (-(Nat.log2 m : Int))
  | .inf _ => f.invalid
  | x => f.ofVal v false x

/-! ## VF (R206) -/

/-- A VF word of two sources. -/
def vfWord2 {γ : Type} (w : FmtA (Dest (Fin 256)) Src Src γ FMod) (f : FEnv → Nat → Nat → FRes) (s : State) :
    Host.Outcome State Fault Refusal :=
  floatWord w [w.a, w.b] (fun x v i =>
    f v (modA .f32 w.mod (x.lane w.a i).toNat) (modB .f32 w.mod (x.lane w.b i).toNat)) s
/-- A VF word of one source. -/
def vfWord1 {β γ : Type} (w : FmtA (Dest (Fin 256)) Src β γ FMod) (f : FEnv → Nat → FRes) (s : State) :
    Host.Outcome State Fault Refusal :=
  floatWord w [w.a] (fun x v i => f v (modA .f32 w.mod (x.lane w.a i).toNat)) s

/-- VF.ADD (R206). -/
def execVfAdd (w : FmtA (Dest (Fin 256)) Src Src Unit FMod) (s : State) : Host.Outcome State Fault Refusal :=
  vfWord2 w FFmt.f32.add s
/-- VF.SUB (R206). -/
def execVfSub (w : FmtA (Dest (Fin 256)) Src Src Unit FMod) (s : State) : Host.Outcome State Fault Refusal :=
  vfWord2 w FFmt.f32.sub s
/-- VF.MUL (R206). -/
def execVfMul (w : FmtA (Dest (Fin 256)) Src Src Unit FMod) (s : State) : Host.Outcome State Fault Refusal :=
  vfWord2 w FFmt.f32.mul s
/-- VF.FMA (R206): one rounding. -/
def execVfFma (w : FmtA (Dest (Fin 256)) Src Src Src FMod) (s : State) : Host.Outcome State Fault Refusal :=
  floatWord w [w.a, w.b, w.cc] (fun x v i =>
    FFmt.f32.fma v (modA .f32 w.mod (x.lane w.a i).toNat) (modB .f32 w.mod (x.lane w.b i).toNat)
      (modC .f32 w.mod (x.lane w.cc i).toNat)) s
/-- VF.MIN (R206, 07 R130). -/
def execVfMin (w : FmtA (Dest (Fin 256)) Src Src Unit FMod) (s : State) : Host.Outcome State Fault Refusal :=
  vfWord2 w (fun v => FFmt.f32.minMax v false) s
/-- VF.MAX (R206, 07 R130). -/
def execVfMax (w : FmtA (Dest (Fin 256)) Src Src Unit FMod) (s : State) : Host.Outcome State Fault Refusal :=
  vfWord2 w (fun v => FFmt.f32.minMax v true) s
/-- VF.MINN (R206, 07 R130). -/
def execVfMinn (w : FmtA (Dest (Fin 256)) Src Src Unit FMod) (s : State) : Host.Outcome State Fault Refusal :=
  vfWord2 w (fun v => FFmt.f32.minMaxNum v false) s
/-- VF.MAXN (R206, 07 R130). -/
def execVfMaxn (w : FmtA (Dest (Fin 256)) Src Src Unit FMod) (s : State) : Host.Outcome State Fault Refusal :=
  vfWord2 w (fun v => FFmt.f32.minMaxNum v true) s
/-- VF.FLOOR (R206, R207). -/
def execVfFloor (w : FmtA (Dest (Fin 256)) Src Unit Unit FMod) (s : State) : Host.Outcome State Fault Refusal :=
  vfWord1 w (fun v => FFmt.f32.integral v 3 false) s
/-- VF.CEIL (R206, R207). -/
def execVfCeil (w : FmtA (Dest (Fin 256)) Src Unit Unit FMod) (s : State) : Host.Outcome State Fault Refusal :=
  vfWord1 w (fun v => FFmt.f32.integral v 2 false) s
/-- VF.TRUNC (R206, R207). -/
def execVfTrunc (w : FmtA (Dest (Fin 256)) Src Unit Unit FMod) (s : State) : Host.Outcome State Fault Refusal :=
  vfWord1 w (fun v => FFmt.f32.integral v 1 false) s
/-- VF.RINT (R206, R207). -/
def execVfRint (w : FmtA (Dest (Fin 256)) Src Unit Unit FMod) (s : State) : Host.Outcome State Fault Refusal :=
  vfWord1 w (fun v => FFmt.f32.integral v v.rm true) s
/-- VF.FRACT (R206, R207). -/
def execVfFract (w : FmtA (Dest (Fin 256)) Src Unit Unit FMod) (s : State) : Host.Outcome State Fault Refusal :=
  vfWord1 w (FFmt.f32.fract) s
/-- VF.LDEXP (R206): a × 2^b, b a signed integer. -/
def execVfLdexp (w : FmtA (Dest (Fin 256)) Src Src Unit FMod) (s : State) : Host.Outcome State Fault Refusal :=
  floatWord w [w.a, w.b] (fun x v i =>
    FFmt.f32.ldexp v (modA .f32 w.mod (x.lane w.a i).toNat) (BitVec.ofNat 32 (modB .f32 w.mod (x.lane w.b i).toNat)).toInt) s
/-- VF.GETEXP (R207). -/
def execVfGetexp (w : FmtA (Dest (Fin 256)) Src Unit Unit FMod) (s : State) : Host.Outcome State Fault Refusal :=
  vfWord1 w FFmt.f32.getexp s
/-- VF.GETMANT (R207). -/
def execVfGetmant (w : FmtA (Dest (Fin 256)) Src Unit Unit FMod) (s : State) : Host.Outcome State Fault Refusal :=
  vfWord1 w FFmt.f32.getmant s
/-! ## VH (R208): two 16-bit elements a register -/

/-- The elements' format. -/
def halfFmt (m : FMod) : FFmt := if m.bf then .bf16 else .f16
/-- A source of a VH word: a floating constant fills both elements (DEDUCED, log 10). -/
def View.half (x : View) (f : FFmt) (a : Src) (i : Nat) : Word :=
  match a with
  | .u (.flt n) => BitVec.ofNat 32 (fltConst f n * 65537)
  | b => x.lane b i
/-- Both elements computed, their flags ORed. -/
def halves (f : Nat → Nat → Nat → FRes) (a b c : Word) : FRes :=
  let lo := f (a.toNat % 65536) (b.toNat % 65536) (c.toNat % 65536)
  let hi := f (a.toNat / 65536) (b.toNat / 65536) (c.toNat / 65536)
  (hi.1 * 65536 + lo.1, lo.2 ||| hi.2)
/-- A VH word of two sources. -/
def vhWord2 (w : FmtA (Dest (Fin 256)) Src Src Unit FMod) (f : FFmt → FEnv → Nat → Nat → FRes) (s : State) :
    Host.Outcome State Fault Refusal :=
  floatWord w [w.a, w.b] (fun x v i =>
    let h := halfFmt w.mod
    halves (fun a b _ => f h v (modA h w.mod a) (modB h w.mod b)) (x.half h w.a i) (x.half h w.b i) 0) s

/-- VH.ADD (R208). -/
def execVhAdd (w : FmtA (Dest (Fin 256)) Src Src Unit FMod) (s : State) : Host.Outcome State Fault Refusal :=
  vhWord2 w FFmt.add s
/-- VH.SUB (R208). -/
def execVhSub (w : FmtA (Dest (Fin 256)) Src Src Unit FMod) (s : State) : Host.Outcome State Fault Refusal :=
  vhWord2 w FFmt.sub s
/-- VH.MUL (R208). -/
def execVhMul (w : FmtA (Dest (Fin 256)) Src Src Unit FMod) (s : State) : Host.Outcome State Fault Refusal :=
  vhWord2 w FFmt.mul s
/-- VH.FMA (R208). -/
def execVhFma (w : FmtA (Dest (Fin 256)) Src Src Src FMod) (s : State) : Host.Outcome State Fault Refusal :=
  floatWord w [w.a, w.b, w.cc] (fun x v i =>
    let h := halfFmt w.mod
    halves (fun a b c => h.fma v (modA h w.mod a) (modB h w.mod b) (modC h w.mod c))
      (x.half h w.a i) (x.half h w.b i) (x.half h w.cc i)) s
/-- VH.MIN (R208). -/
def execVhMin (w : FmtA (Dest (Fin 256)) Src Src Unit FMod) (s : State) : Host.Outcome State Fault Refusal :=
  vhWord2 w (fun h v => h.minMax v false) s
/-- VH.MAX (R208). -/
def execVhMax (w : FmtA (Dest (Fin 256)) Src Src Unit FMod) (s : State) : Host.Outcome State Fault Refusal :=
  vhWord2 w (fun h v => h.minMax v true) s
/-- The sum of two products and an FP32 addend, exact before its one rounding (R208). -/
def dot2 (v : FEnv) (a0 b0 a1 b1 c : FVal) : FRes :=
  let inv := (a0.times b0).isNone && !a0.isNan && !b0.isNan || (a1.times b1).isNone && !a1.isNan && !b1.isNan
  match FFmt.f32.nanOf v [a0, b0, a1, b1, c] with
  | some r => if inv then (r.1, r.2 ||| .nv) else r
  | none =>
    match a0.times b0, a1.times b1 with
    | some p, some r =>
      let infs := [p, r, c].filterMap (fun t => match t with | .inf s => some s | _ => none)
      match infs with
      | s :: ss => if ss.all (· == s) then (FFmt.f32.sign s FFmt.f32.infBits, .none) else FFmt.f32.invalid
      | [] =>
        match p, r, c with
        | .num s0 m0 e0, .num s1 m1 e1, .num s2 m2 e2 =>
          let (s, m, e) := addExact s0 m0 e0 s1 m1 e1
          let (t, n, d) := addExact s m e s2 m2 e2
          if n = 0 then
            let neg := (s0 && s1 && s2) || (v.rm == 3 && !(s0 == s1 && s1 == s2))
            (FFmt.f32.sign neg 0, .none)
          else FFmt.f32.round v false t n d
        | _, _, _ => FFmt.f32.invalid
    | _, _ => FFmt.f32.invalid
/-- VH.DOT2 (R208). -/
def execVhDot2 (w : FmtA (Dest (Fin 256)) Src Src Src FMod) (s : State) : Host.Outcome State Fault Refusal :=
  floatWord w [w.a, w.b, w.cc] (fun x v i =>
    let h := halfFmt w.mod
    let a := (x.half h w.a i).toNat
    let b := (x.half h w.b i).toNat
    dot2 v (h.operand v (modA h w.mod (a % 65536))) (h.operand v (modB h w.mod (b % 65536)))
      (h.operand v (modA h w.mod (a / 65536))) (h.operand v (modB h w.mod (b / 65536)))
      (FFmt.f32.operand v (modC .f32 w.mod (x.lane w.cc i).toNat))) s
/-! ## VD (R209): FP64 on even pairs -/

/-- VD.ADD (R209). -/
def execVdAdd (w : FmtA (Fin 128) Src64 Src64 Unit FMod) (s : State) : Host.Outcome State Fault Refusal :=
  floatPairWord w (fun x v i =>
    FFmt.f64.add v (modA .f64 w.mod (x.laneF64 w.a i).toNat) (modB .f64 w.mod (x.laneF64 w.b i).toNat)) s
/-- VD.SUB (R209). -/
def execVdSub (w : FmtA (Fin 128) Src64 Src64 Unit FMod) (s : State) : Host.Outcome State Fault Refusal :=
  floatPairWord w (fun x v i =>
    FFmt.f64.sub v (modA .f64 w.mod (x.laneF64 w.a i).toNat) (modB .f64 w.mod (x.laneF64 w.b i).toNat)) s
/-- VD.MUL (R209). -/
def execVdMul (w : FmtA (Fin 128) Src64 Src64 Unit FMod) (s : State) : Host.Outcome State Fault Refusal :=
  floatPairWord w (fun x v i =>
    FFmt.f64.mul v (modA .f64 w.mod (x.laneF64 w.a i).toNat) (modB .f64 w.mod (x.laneF64 w.b i).toNat)) s
/-- VD.MIN (R209). -/
def execVdMin (w : FmtA (Fin 128) Src64 Src64 Unit FMod) (s : State) : Host.Outcome State Fault Refusal :=
  floatPairWord w (fun x v i =>
    (fun v => FFmt.f64.minMax v false) v (modA .f64 w.mod (x.laneF64 w.a i).toNat) (modB .f64 w.mod (x.laneF64 w.b i).toNat)) s
/-- VD.MAX (R209). -/
def execVdMax (w : FmtA (Fin 128) Src64 Src64 Unit FMod) (s : State) : Host.Outcome State Fault Refusal :=
  floatPairWord w (fun x v i =>
    (fun v => FFmt.f64.minMax v true) v (modA .f64 w.mod (x.laneF64 w.a i).toNat) (modB .f64 w.mod (x.laneF64 w.b i).toNat)) s
/-- VD.FMA (R209). -/
def execVdFma (w : FmtA (Fin 128) Src64 Src64 Src64 FMod) (s : State) : Host.Outcome State Fault Refusal :=
  floatPairWord w (fun x v i =>
    FFmt.f64.fma v (modA .f64 w.mod (x.laneF64 w.a i).toNat) (modB .f64 w.mod (x.laneF64 w.b i).toNat)
      (modC .f64 w.mod (x.laneF64 w.cc i).toNat)) s
/-- VD.RINT (R209). -/
def execVdRint (w : FmtA (Fin 128) Src64 Unit Unit FMod) (s : State) : Host.Outcome State Fault Refusal :=
  floatPairWord w (fun x v i => FFmt.f64.integral v v.rm true (modA .f64 w.mod (x.laneF64 w.a i).toNat)) s
/-! ## CV (R210 to R215) -/

/-- The source of a conversion, in the format of its position: low element, word or pair. -/
def View.cvtSrc (x : View) (c : Cvt) (a : Src) (i : Nat) : Nat :=
  match c with
  | .f32F16 | .e4m3F16 | .e5m2F16 => (x.laneAs .f16 a i).toNat % 65536
  | .f32Bf16 | .e4m3Bf16 | .e5m2Bf16 => (x.laneAs .bf16 a i).toNat % 65536
  | .f32E4m3 => (x.laneAs .fE4m3 a i).toNat % 256
  | .f32E5m2 => (x.laneAs .fE5m2 a i).toNat % 256
  | .f32F64 | .i32F64 | .n32F64 | .i64F64 => (x.lanePairF64 a i).toNat
  | .f64I64 => (x.lanePair a i).toNat
  | _ => (x.lane a i).toNat
/-- A conversion (R210, R211, 07 R131). -/
def convert (v : FEnv) (c : Cvt) (a : Nat) : FRes :=
  match c with
  | .f32F16 => FFmt.f16.convert .f32 v false a
  | .f32Bf16 => FFmt.bf16.convert .f32 v false a
  | .f32E4m3 => FFmt.fE4m3.convert .f32 v false a
  | .f32E5m2 => FFmt.fE5m2.convert .f32 v false a
  | .f16F32 => FFmt.f32.convert .f16 v true a
  | .bf16F32 => FFmt.f32.convert .bf16 v true a
  | .e4m3F32 => FFmt.f32.convert .fE4m3 v true a
  | .e5m2F32 => FFmt.f32.convert .fE5m2 v true a
  | .f64F32 => FFmt.f32.convert .f64 v false a
  | .f32F64 => FFmt.f64.convert .f32 v true a
  | .f32I32 => FFmt.f32.ofInt v false true 32 a
  | .f32N32 => FFmt.f32.ofInt v false false 32 a
  | .i32F32 => FFmt.f32.toInt v true 32 a
  | .n32F32 => FFmt.f32.toInt v false 32 a
  | .f64I32 => FFmt.f64.ofInt v false true 32 a
  | .f64N32 => FFmt.f64.ofInt v false false 32 a
  | .i32F64 => FFmt.f64.toInt v true 32 a
  | .n32F64 => FFmt.f64.toInt v false 32 a
  | .f64I64 => FFmt.f64.ofInt v false true 64 a
  | .i64F64 => FFmt.f64.toInt v true 64 a
  | .i16I32 => intNarrow v true 32 16 a
  | .n16N32 => intNarrow v false 32 16 a
  | .i8I32 => intNarrow v true 32 8 a
  | .n8N32 => intNarrow v false 32 8 a
  | .e4m3F16 => FFmt.f16.convert .fE4m3 v true a
  | .e5m2F16 => FFmt.f16.convert .fE5m2 v true a
  | .e4m3Bf16 => FFmt.bf16.convert .fE4m3 v true a
  | .e5m2Bf16 => FFmt.bf16.convert .fE5m2 v true a
/-- CV.CVT (R210, R211). -/
def execCvCvt (w : FmtA (Dest (Fin 256)) Src Unit Unit Cvt) (s : State) : Host.Outcome State Fault Refusal :=
  if w.mod.wideDst then
    onPath s (fun x =>
      let y := x.sample (Src.isClk w.a && x.guardOn w.g)
      let ls := lanesBelow y.w (y.active w.g)
      let r (i : Nat) : FRes := convert (FEnv.of y.p.fmt) w.mod (y.cvtSrc w.mod w.a i)
      let fl := ls.foldl (fun a i => a ||| (r i).2) FFlags.none
      let g : Group := match w.d with
        | .reg n => ls.foldl (fun (g : Group) i => g.setVpair n.val i (BitVec.ofNat 64 (r i).1)) y.g
        | .latch => y.g
      ({ y with g := g, p := y.p.retire w.q .none }.setFlags fl).commit)
  else floatWord w [w.a] (fun x v i => convert v w.mod (x.cvtSrc w.mod w.a i)) s
/-- CV.PACK (R212). -/
def packWord (k : PackKind) (a b c : Word) : Word :=
  match k with
  | .h => (b.extractLsb' 0 16) ++ (a.extractLsb' 0 16)
  | .b => (c.extractLsb' 0 16) ++ (b.extractLsb' 0 8) ++ (a.extractLsb' 0 8)
  | .n => (c.extractLsb' 0 24) ++ (b.extractLsb' 0 4) ++ (a.extractLsb' 0 4)
/-- CV.UNPK (R212). -/
def unpackWord (k : UnpkKind) (a b : Word) : Word :=
  match k with
  | .z16 => (a.extractLsb' (16 * (b.toNat % 2)) 16).setWidth 32
  | .s16 => (a.extractLsb' (16 * (b.toNat % 2)) 16).signExtend 32
  | .z8 => (a.extractLsb' (8 * (b.toNat % 4)) 8).setWidth 32
  | .s8 => (a.extractLsb' (8 * (b.toNat % 4)) 8).signExtend 32
  | .z4 => (a.extractLsb' (4 * (b.toNat % 8)) 4).setWidth 32
/-- CV.PACK (R212). -/
def execCvPack (w : FmtA (Dest (Fin 256)) Src Src Src PackKind) (s : State) : Host.Outcome State Fault Refusal :=
  laneWord w [w.a, w.b, w.cc] (fun x i => packWord w.mod (x.lane w.a i) (x.lane w.b i) (x.lane w.cc i)) s
/-- CV.UNPK (R212). -/
def execCvUnpk (w : FmtA (Dest (Fin 256)) Src Src Unit UnpkKind) (s : State) : Host.Outcome State Fault Refusal :=
  laneWord2 w (unpackWord w.mod) s
/-- The NQ4 code of a value under a block scale (R213, 07 R124). `nv`: NV when bs is not positive and finite. -/
def nqCode (v : FEnv) (a bs : Nat) : FRes :=
  let neg := decide (2 ^ 31 ≤ a)
  let code (c : Nat) : Nat := if neg then 7 - c else 8 + c
  match FFmt.f32.operand v bs with
  | .num false (bm + 1) be =>
    match FFmt.f32.operand v a with
    | .num _ m e => (code (nqNearest m e (bm + 1) be 7), .none)
    | .inf _ => (code 7, .none)
    | .nan .. => (code 7, .none)
  | _ => (code 7, .nv)
/-- The smallest scale code in 1 to 255 whose block scale reaches a magnitude (R213, 02 R41), looking at `n` more
codes from `c`; 255 if none does. -/
def scaleCode (superscale : Nat) (amax : FVal) (c : Nat) : Nat → Nat
  | 0 => 255
  | n + 1 =>
    let bs := FFmt.f32.val (blockScale superscale c)
    if !bs.isNan && (!bs.below amax || (bs.isZero && amax.isZero)) then c else scaleCode superscale amax (c + 1) n
/-- CV.QNT.SC (R213). -/
def scaleOf (v : FEnv) (a sc : Nat) : Nat :=
  let s := match FFmt.f32.operand v sc with | .num t 0 _ => FFmt.f32.sign t 0 | _ => sc
  match FFmt.f32.operand v (a % 2 ^ 31) with
  | .nan .. => 255
  | m => scaleCode s m 1 255
/-- CV.QNT (R213). -/
def execCvQnt (w : FmtA (Dest (Fin 256)) Src Src Unit Bool) (s : State) : Host.Outcome State Fault Refusal :=
  floatWord w [w.a, w.b] (fun x v i =>
    if w.mod then (scaleOf v (x.lane w.a i).toNat (x.lane w.b i).toNat, .none)
    else nqCode v (x.lane w.a i).toNat (x.lane w.b i).toNat) s
/-- CV.DQNT (R214): q(code) × b rounded once; the narrow forms are narrowing conversions (DEDUCED, log 11). -/
def execCvDqnt (w : FmtA (Dest (Fin 256)) Src Src Src DqKind) (s : State) : Host.Outcome State Fault Refusal :=
  floatWord w [w.a, w.b, w.cc] (fun x v i =>
    let f : FFmt := match w.mod with | .f32 => .f32 | .f16 => .f16 | .bf => .bf16
    let c := (x.lane w.a i).toNat / 2 ^ (4 * ((x.lane w.cc i).toNat % 8)) % 16
    let b := FFmt.f32.operand v (x.lane w.b i).toNat
    match f.nanOf v [b] with
    | some r => r
    | none => match (nqVal c).times b with
      | some p => f.ofVal v (decide (f ≠ .f32) && v.satn) p
      | none => f.invalid) s
/-- CV.QF8 (R214): the exact FP32 product rounded once to FP8. -/
def execCvQf8 (w : FmtA (Dest (Fin 256)) Src Src Unit Qf8Kind) (s : State) : Host.Outcome State Fault Refusal :=
  floatWord w [w.a, w.b] (fun x v i =>
    let f : FFmt := match w.mod with | .fmt => (if v.f8k then .fE5m2 else .fE4m3) | .e4m3 => .fE4m3 | .e5m2 => .fE5m2
    let a := FFmt.f32.operand v (x.lane w.a i).toNat
    let b := FFmt.f32.operand v (x.lane w.b i).toNat
    match f.nanOf v [a, b] with
    | some r => r
    | none => match a.times b with
      | some p => f.ofVal v v.satn p
      | none => f.invalid) s
/-- CV.SRND (R215, 07 R128). -/
def execCvSrnd (w : FmtA (Dest (Fin 256)) Src Src Unit SrndKind) (s : State) : Host.Outcome State Fault Refusal :=
  floatWord w [w.a, w.b] (fun x v i =>
    let f : FFmt := match w.mod with | .f16 => .f16 | .bf => .bf16 | .e4m3 => .fE4m3 | .e5m2 => .fE5m2
    f.stochastic v ((x.lane w.b i).toNat % 65536) (FFmt.f32.operand v (x.lane w.a i).toNat)) s
/-! ## VC (R216, R217) -/

/-- A float comparison: quiet, ±0.0 equal; only a signalling NaN sets NV. -/
def floatCompare (c : CmpCond) (x y : FVal) : Bool × FFlags :=
  let nan := x.isNan || y.isNan
  let sig := [x, y].any (fun z => match z with | .nan _ _ q => !q | _ => false)
  let eq := !nan && (x.isZero && y.isZero || (!x.below y && !y.below x))
  let lt := !nan && x.below y && !(x.isZero && y.isZero)
  let r := match c with
    | .eq => eq
    | .ne => !eq
    | .lt => lt
    | .le => lt || eq
    | .gt => !nan && !lt && !eq
    | .ge => !nan && !lt
    | .un => nan
    | .or => !nan
  (r, if sig then .nv else .none)
/-- An integer comparison of VC.CMP. -/
def intCompare (signed : Bool) (c : CmpCond) (a b : Word) : Bool :=
  let lt := if signed then a.slt b else a.ult b
  match c with
  | .eq => a == b
  | .ne => a != b
  | .lt => lt
  | .le => lt || a == b
  | .gt => !lt && a != b
  | .ge => !lt
  | .un => false
  | .or => false
/-- The class of a pattern (R217). -/
def FFmt.class (f : FFmt) (a : Nat) : Nat :=
  match f.val a with
  | .nan _ _ q => if q then 1 else 0
  | .inf s => if s then 2 else 9
  | .num s m _ =>
    if m = 0 then (if s then 5 else 6)
    else if m < 2 ^ f.fb then (if s then 4 else 7) else (if s then 3 else 8)
/-- VC.CMP (R216). -/
def execVcCmp (w : FmtA (Fin 96) Src Src Unit VcMod) (s : State) : Host.Outcome State Fault Refusal :=
  floatPredWord w [w.a, w.b] (fun x v i =>
    match w.mod.ty with
    | .i32 => (intCompare true w.mod.cond (x.lane w.a i) (x.lane w.b i), .none)
    | .n32 => (intCompare false w.mod.cond (x.lane w.a i) (x.lane w.b i), .none)
    | .f32 => floatCompare w.mod.cond (FFmt.f32.operand v (x.lane w.a i).toNat) (FFmt.f32.operand v (x.lane w.b i).toNat)
    | .f64 => floatCompare w.mod.cond (FFmt.f64.operand v (x.lanePairF64 w.a i).toNat)
        (FFmt.f64.operand v (x.lanePairF64 w.b i).toNat)) s
/-- VC.CLASS (R217). -/
def execVcClass (w : FmtA (Fin 96) Src Src Unit ClassFmt) (s : State) : Host.Outcome State Fault Refusal :=
  floatPredWord w [w.a, w.b] (fun x _ i =>
    let k := match w.mod with
      | .f32 => FFmt.f32.class (x.lane w.a i).toNat
      | .f64 => FFmt.f64.class (x.lanePairF64 w.a i).toNat
      | .f16 => FFmt.f16.class ((x.laneAs .f16 w.a i).toNat % 65536)
      | .bf => FFmt.bf16.class ((x.laneAs .bf16 w.a i).toNat % 65536)
    ((x.lane w.b i).getLsbD k, .none)) s
/-- VC.TEST (R217). -/
def execVcTest (w : FmtA (Fin 96) Src Src Unit Bool) (s : State) : Host.Outcome State Fault Refusal :=
  predWord w (Src.isClk w.a || Src.isClk w.b) (fun x =>
    maskOf x.w (fun i => (x.lane w.a i &&& x.lane w.b i == 0) == w.mod)) s
/-! ## SF (R225): the exact value rounded once -/

/-- π × 2^512, rounded down. -/
def piFix : Nat := 0x3243F6A8885A308D313198A2E03707344A4093822299F31D0082EFA98EC4E6C89452821E638D01377BE5466CF34E90C6CC0AC29B7C97C50DD3F84D5B5B5470917
/-- ln 2 × 2^512, rounded down. -/
def ln2Fix : Nat := 0xB17217F7D1CF79ABC9E3B39803F2F6AF40F343267298B62D8A0D175B8BAAFA2BE7B876206DEBAC98559552FB4AFA1B10ED2EAE35C138214427573B291169B825
/-- Fraction bits of the fixed-point numbers below. -/
def fxBits : Nat := 256
/-- A product of fixed-point numbers. -/
def fxMul (a b : Int) : Int := a * b / 2 ^ fxBits
/-- Σ over k of term_k with term_0 = `t` and term_(k+1) = term_k × r / ((a + k·b)(c + k·d)), by fuel. -/
def fxSeries (r : Int) (div : Nat → Int) : Nat → Nat → Int → Int
  | 0, _, _ => 0
  | n + 1, k, t => t + fxSeries r div n (k + 1) (fxMul t r / div k)
/-- e^r of a fixed-point r with |r| ≤ 1. -/
def fxExp (r : Int) : Int := fxSeries r (fun k => (k : Int) + 1) 64 0 (2 ^ fxBits)
/-- sin r of a fixed-point r with |r| ≤ 1. -/
def fxSin (r : Int) : Int := fxSeries (-(fxMul r r)) (fun k => (2 * k + 2) * (2 * k + 3)) 32 0 r
/-- cos r of a fixed-point r with |r| ≤ 1. -/
def fxCos (r : Int) : Int := fxSeries (-(fxMul r r)) (fun k => (2 * k + 1) * (2 * k + 2)) 32 0 (2 ^ fxBits)
/-- Σ z^(2k+1)/(2k+1) of a fixed-point z with |z| ≤ 1/3: atanh z. -/
def fxAtanh (z2 : Int) : Nat → Nat → Int → Int
  | 0, _, _ => 0
  | n + 1, k, t => t / (2 * k + 1) + fxAtanh z2 n (k + 1) (fxMul t z2)
/-- A fixed-point number within 2^−230 of an irrational value, rounded. No FP32 argument's value lies within 2^−190 of a point
where a rounding changes, so this is the value's own rounding (log 7). -/
def certify (v : FEnv) (y : Int) : FRes :=
  let r := FFmt.f32.round v false (decide (y < 0)) y.natAbs (-256)
  (r.1, r.2 ||| .nx)
/-- The whole part of the square root of n, by fuel over bits of the result. -/
def isqrt (n : Nat) : Nat → Nat → Nat
  | 0, r => r
  | k + 1, r => if (r + 2 ^ k) * (r + 2 ^ k) ≤ n then isqrt n k (r + 2 ^ k) else isqrt n k r
/-- A quotient's whole part with one bit more that is set when it is not exact. -/
def sticky (q : Nat) (exact : Bool) : Nat := 2 * q + (if exact then 0 else 1)
/-- A magnitude just below m × 2^e. -/
def justBelow (v : FEnv) (s : Bool) (m : Nat) (e : Int) : FRes := FFmt.f32.round v false s (m * 2 ^ 64 - 1) (e - 64)

/-- RCP. -/
def rcp (v : FEnv) (a : Nat) : FRes :=
  match FFmt.f32.operand v a with
  | .num s m e =>
    if m = 0 then (FFmt.f32.sign s FFmt.f32.infBits, .dz)
    else FFmt.f32.round v false s (sticky (2 ^ 80 / m) (decide (2 ^ 80 % m = 0))) (-e - 81)
  | .inf s => (FFmt.f32.sign s 0, .none)
  | x => FFmt.f32.ofVal v false x
/-- RSQ. -/
def rsq (v : FEnv) (a : Nat) : FRes :=
  match FFmt.f32.operand v a with
  | .num s m e =>
    if m = 0 then (FFmt.f32.sign s FFmt.f32.infBits, .dz)
    else if s then FFmt.f32.invalid
    else
      let (n, d) := if e % 2 = 0 then (m, e) else (2 * m, e - 1)
      let r := isqrt (2 ^ 160 / n) 81 0
      FFmt.f32.round v false false (sticky r (decide (r * r * n = 2 ^ 160))) (-(d / 2) - 81)
  | .inf s => if s then FFmt.f32.invalid else (0, .none)
  | x => FFmt.f32.ofVal v false x
/-- SQRT. -/
def sqrtF (v : FEnv) (a : Nat) : FRes :=
  match FFmt.f32.operand v a with
  | .num s m e =>
    if m = 0 then (FFmt.f32.sign s 0, .none)
    else if s then FFmt.f32.invalid
    else
      let (n, d) := if e % 2 = 0 then (m, e) else (2 * m, e - 1)
      let r := isqrt (n * 2 ^ 80) 56 0
      FFmt.f32.round v false false (sticky r (decide (r * r = n * 2 ^ 80))) (d / 2 - 41)
  | .inf s => if s then FFmt.f32.invalid else (FFmt.f32.infBits, .none)
  | x => FFmt.f32.ofVal v false x
/-- A number as a fixed-point number; whole where its weight allows, which every FP32 value's does. -/
def toFix (s : Bool) (m : Nat) (e : Int) : Int :=
  let x : Int := if 0 ≤ e + 256 then (m * 2 ^ (e + 256).natAbs : Nat) else (m / 2 ^ (e + 256).natAbs : Nat)
  if s then -x else x
/-- EXP2. -/
def exp2F (v : FEnv) (a : Word) : FRes :=
  match FFmt.f32.operand v a.toNat with
  | .num s m e =>
    if m = 0 then (0x3F800000, .none)
    else if 8 < (Nat.log2 m : Int) + e then
      if s then FFmt.f32.round v false false 1 (-400) else FFmt.f32.round v false false 1 400
    else
      let x := toFix s m e
      let n := x / 2 ^ fxBits
      let f := x - n * 2 ^ fxBits
      if f = 0 then FFmt.f32.round v false false 1 n
      else
        let y := fxExp (f * ln2Fix / 2 ^ 512)
        let r := FFmt.f32.round v false false y.natAbs (n - 256)
        (r.1, r.2 ||| .nx)
  | .inf s => (if s then 0 else FFmt.f32.infBits, .none)
  | x => FFmt.f32.ofVal v false x
/-- ln of a fixed-point number in [1, 2). -/
def fxLn (x : Int) : Int :=
  let z := (x - 2 ^ fxBits) * 2 ^ fxBits / (x + 2 ^ fxBits)
  2 * fxAtanh (fxMul z z) 90 0 z
/-- LOG2. -/
def log2F (v : FEnv) (a : Word) : FRes :=
  match FFmt.f32.operand v a.toNat with
  | .num s m e =>
    if m = 0 then (FFmt.f32.sign true FFmt.f32.infBits, .dz)
    else if s then FFmt.f32.invalid
    else
      let k := Nat.log2 m
      let n : Int := (k : Int) + e
      if m = 2 ^ k then (if n = 0 then (0, .none) else FFmt.f32.round v false (decide (n < 0)) n.natAbs 0)
      else
        let x : Int := (m * 2 ^ (256 - k) : Nat)
        certify v (n * 2 ^ fxBits + fxLn x * 2 ^ 512 / ln2Fix)
  | .inf s => if s then FFmt.f32.invalid else (FFmt.f32.infBits, .none)
  | x => FFmt.f32.ofVal v false x
/-- The argument reduced: the number of quarter turns, and the rest as a fixed-point number. -/
def reduce (s : Bool) (m : Nat) (e : Int) : Nat × Int :=
  -- x × 2^512, exactly
  let x : Int := if 0 ≤ e + 512 then (m * 2 ^ (e + 512).natAbs : Nat) else (m / 2 ^ (e + 512).natAbs : Nat)
  let x := if s then -x else x
  let half : Int := (piFix : Int) / 2
  let k := (2 * x + half) / (2 * half)
  ((k % 4).natAbs, (2 * x - k * piFix) / 2 / 2 ^ 256)
/-- sin of x, for a turn offset of 0, or cos for an offset of 1. -/
def sinCos (v : FEnv) (turn : Nat) (s : Bool) (m : Nat) (e : Int) : FRes :=
  let (k, r) := reduce s m e
  let t := (k + turn) % 4
  let y := if t % 2 = 0 then fxSin r else fxCos r
  certify v (if 2 ≤ t then -y else y)
/-- SIN. -/
def sinF (v : FEnv) (a : Word) : FRes :=
  match FFmt.f32.operand v a.toNat with
  | .num s m e =>
    if m = 0 then (FFmt.f32.sign s 0, .none)
    else if (Nat.log2 m : Int) + e < -40 then justBelow v s m e
    else sinCos v 0 s m e
  | .inf _ => FFmt.f32.invalid
  | x => FFmt.f32.ofVal v false x
/-- COS. -/
def cosF (v : FEnv) (a : Word) : FRes :=
  match FFmt.f32.operand v a.toNat with
  | .num s m e =>
    if m = 0 then (0x3F800000, .none)
    else if (Nat.log2 m : Int) + e < -40 then justBelow v false 1 0
    else sinCos v 1 s m e
  | .inf _ => FFmt.f32.invalid
  | x => FFmt.f32.ofVal v false x
/-- TANH. -/
def tanhF (v : FEnv) (a : Word) : FRes :=
  match FFmt.f32.operand v a.toNat with
  | .num s m e =>
    if m = 0 then (FFmt.f32.sign s 0, .none)
    else if (Nat.log2 m : Int) + e < -40 then justBelow v s m e
    else if 5 < (Nat.log2 m : Int) + e then justBelow v s 1 0
    else
      let x := 2 * toFix false m e
      let k := x * 2 ^ 256 / ln2Fix
      let r := x - k * ln2Fix / 2 ^ 256
      let t := fxExp r * 2 ^ k.natAbs
      let y := (t - 2 ^ fxBits) * 2 ^ fxBits / (t + 2 ^ fxBits)
      certify v (if s then -y else y)
  | .inf s => (FFmt.f32.sign s 0x3F800000, .none)
  | x => FFmt.f32.ofVal v false x
/-- SF.RCP (R225). -/
def execSfRcp (w : FmtA (Dest (Fin 256)) Src Unit Unit Unit) (s : State) : Host.Outcome State Fault Refusal :=
  floatWord w [w.a] (fun x v i => rcp v (x.lane w.a i).toNat) s
/-- SF.RSQ (R225). -/
def execSfRsq (w : FmtA (Dest (Fin 256)) Src Unit Unit Unit) (s : State) : Host.Outcome State Fault Refusal :=
  floatWord w [w.a] (fun x v i => rsq v (x.lane w.a i).toNat) s
/-- SF.SQRT (R225). -/
def execSfSqrt (w : FmtA (Dest (Fin 256)) Src Unit Unit Unit) (s : State) : Host.Outcome State Fault Refusal :=
  floatWord w [w.a] (fun x v i => sqrtF v (x.lane w.a i).toNat) s
/-- SF.EXP2 (R225). -/
def execSfExp2 (w : FmtA (Dest (Fin 256)) Src Unit Unit Unit) (s : State) : Host.Outcome State Fault Refusal :=
  floatWord w [w.a] (fun x v i => exp2F v (x.lane w.a i)) s
/-- SF.LOG2 (R225). -/
def execSfLog2 (w : FmtA (Dest (Fin 256)) Src Unit Unit Unit) (s : State) : Host.Outcome State Fault Refusal :=
  floatWord w [w.a] (fun x v i => log2F v (x.lane w.a i)) s
/-- SF.SIN (R225). -/
def execSfSin (w : FmtA (Dest (Fin 256)) Src Unit Unit Unit) (s : State) : Host.Outcome State Fault Refusal :=
  floatWord w [w.a] (fun x v i => sinF v (x.lane w.a i)) s
/-- SF.COS (R225). -/
def execSfCos (w : FmtA (Dest (Fin 256)) Src Unit Unit Unit) (s : State) : Host.Outcome State Fault Refusal :=
  floatWord w [w.a] (fun x v i => cosF v (x.lane w.a i)) s
/-- SF.TANH (R225). -/
def execSfTanh (w : FmtA (Dest (Fin 256)) Src Unit Unit Unit) (s : State) : Host.Outcome State Fault Refusal :=
  floatWord w [w.a] (fun x v i => tanhF v (x.lane w.a i)) s

end Sys2Proof.Machine
end

