-- ==== Sys2Proof/Machine/Derived.lean ====
section
/-! DEFINITION. Derived tensors: the rules of derivation, recomputes, and class DV (02 R38 to R61). -/
namespace Sys2Proof.Machine
open Sys2Proof

/-! ## Elements (R39, R41) -/

/-- An element's exact value: floating, or an integer. -/
inductive Elem where
  | flt (v : FVal)
  | int (n : Int)
  deriving DecidableEq, Repr

/-- RND, FTZ and SAT in the place of FMT. The record has no NANC; a NaN keeps its payload, as under NANC = 0 (DESIGN CHOICE,
log 46). -/
def Deriv.env (d : Deriv) : FEnv := ⟨recField d.img 400 2, recField d.img 403 1 == 1, recField d.img 402 1 == 1, false, false⟩
/-- BFMT. -/
def Deriv.bfmt (d : Deriv) : Nat := recField d.img 392 4
/-- DFMT. -/
def Deriv.dfmt (d : Deriv) : Nat := recField d.img 396 4
/-- A floating format code. -/
def tensorFmt (c : Nat) : FFmt := [FFmt.f32, .f16, .bf16, .fE4m3, .fE5m2].getD c .f32
/-- A format code is an integer's. -/
def tensorInt (c : Nat) : Bool := decide (5 ≤ c)
/-- A pattern as a signed number of `n` bits. -/
def signedOf (n x : Nat) : Int := if x < 2 ^ (n - 1) then x else (x : Int) - 2 ^ n
/-- A base element read; FTZ reads a subnormal as zero. -/
def Deriv.read (d : Deriv) (x : Nat) : Elem :=
  if tensorInt d.bfmt then .int (signedOf (8 * d.bsize) x) else .flt ((tensorFmt d.bfmt).operand d.env x)
/-- The exact sum of two base elements. -/
def Elem.add (v : FEnv) : Elem → Elem → Elem
  | .int a, .int b => .int (a + b)
  | .flt a, .flt b => .flt (exactAdd v a b)
  | a, _ => a
/-- An integer in a result of `n` bits: wrapped, or at the nearest limit under SAT. -/
def intResult (sat : Bool) (n : Nat) (x : Int) : Nat :=
  let lo : Int := -(2 ^ (n - 1) : Nat)
  let hi : Int := (2 ^ (n - 1) : Nat) - 1
  let y := if sat then (if x < lo then lo else if hi < x then hi else x) else x
  (y % (2 ^ n : Nat)).toNat
/-- cvt (R41): the value in a format, rounded once. -/
def Elem.convert (v : FEnv) (f : Nat) : Elem → Nat
  | .int n =>
    if tensorInt f then intResult v.satn (8 * fmtBytes f) n
    else ((tensorFmt f).round v v.satn (decide (n < 0)) n.natAbs 0).1
  | .flt x => if tensorInt f then (x.toInt v true (8 * fmtBytes f)).1 else ((tensorFmt f).ofVal v v.satn x).1
/-- The value is a NaN. -/
def Elem.isNan : Elem → Bool
  | .flt x => x.isNan
  | _ => false
/-- The value is −0.0. -/
def Elem.isNegZero : Elem → Bool
  | .flt (.num true 0 _) => true
  | _ => false
/-- rsum (R41): the exact sum, rounded once. -/
def sumElems (v : FEnv) (f : Nat) (xs : List Elem) : Nat :=
  if tensorInt f then intResult v.satn 32 (xs.foldl (fun a x => match x with | .int n => a + n | _ => a) 0)
  else
    let t := xs.foldl (fun a x => match x with | .flt y => exactSum a y | _ => a) (FVal.num true 0 0)
    match t with
    | .nan .. => (tensorFmt f).nanBits
    | .inf s => ((tensorFmt f).ofVal v false (.inf s)).1
    | .num _ 0 _ => (tensorFmt f).sign (xs.all Elem.isNegZero || v.rm == 3) 0
    | .num s m e => ((tensorFmt f).round v v.satn s m e).1
/-- The magnitude that a block's scale must reach. -/
def blockMax (xs : List Elem) : FVal :=
  xs.foldl (fun a x => match x with
    | .flt (.inf _) => .inf false
    | .flt (.num _ m e) => if a.below (.num false m e) then .num false m e else a
    | _ => a) (FVal.num false 0 0)
/-- The code of an element under a block scale (R41): c counts from the smallest magnitude. -/
def quantCode (bs : FVal) (x : Elem) : Nat :=
  let c := match bs, x with
    | .num _ bm be, .flt (.num _ m e) => nqNearest m e bm be 7
    | _, _ => 7
  let neg : Bool := match x with
    | .flt (.num s _ _) => s
    | .flt (.inf s) => s
    | .flt (.nan s _ _) => s
    | _ => false
  if neg then 7 - c else 8 + c

/-! ## A tile (R44, R45, R50) -/

/-- The bits of a base element and whether it is poisoned. -/
def State.baseBits (s : State) (d : Deriv) (ps : List PageMap) (base i j : Nat) : Nat × Bool :=
  match paOf ps (base + i * d.bpitch + j * d.bsize) with
  | some pa =>
    let (bs, bad) := s.devRead pa d.bsize
    (leNat bs, bad.any (fun b => b))
  | none => (0, false)
/-- x(i, j) of R41, with its poison. FTZ reads a subnormal element as zero; an exact sum in the subnormal range of BFMT is no
operand that is read, and stays (DESIGN CHOICE, log 47). -/
def State.sourceElem (s : State) (d : Deriv) (i j : Nat) : Elem × Bool :=
  let (a, p) := s.baseBits d d.pagesA d.baseA i j
  if d.baseB = 0 then (d.read a, p)
  else
    let (b, q) := s.baseBits d d.pagesB d.baseB i j
    ((d.read a).add d.env (d.read b), p || q)
/-- A derived element of a matrix rule: TRN without a second base copies the bits. -/
def State.derivedElem (s : State) (d : Deriv) (r k : Nat) : Nat × Bool :=
  let (i, j) := if d.rule = 1 then (r, k) else (k, r)
  if d.rule = 0 ∧ d.baseB = 0 then s.baseBits d d.pagesA d.baseA i j
  else
    let (x, p) := s.sourceElem d i j
    (x.convert d.env d.dfmt, p)
/-- The bytes of elements, with their poison. -/
def elemBytes (z : Nat) (es : List (Nat × Bool)) : List Byte × List Bool :=
  (es.flatMap (fun e => leBytes z e.1), es.flatMap (fun e => List.replicate z e.2))
/-- One block of QNT: its 32 bytes of codes and its scale code. -/
def State.quantBlock (s : State) (d : Deriv) (i b : Nat) : (List Byte × List Bool) × (List Byte × List Bool) :=
  let xs := (List.range 64).map (fun k => s.sourceElem d i (64 * b + k))
  let bad := xs.any (·.2)
  let super := recField d.img 416 32
  let c := scaleCode super (blockMax (xs.map (·.1))) 1 255
  let bs := FFmt.f32.val (blockScale super c)
  let codes := xs.map (fun x => quantCode bs x.1)
  (((List.range 32).map (fun k => BitVec.ofNat 8 (codes.getD (2 * k) 0 + 16 * codes.getD (2 * k + 1) 0)),
    List.replicate 32 bad), ([BitVec.ofNat 8 c], [bad]))
/-- The bytes of a tile, run by run, and of its scale codes (the runs of `Deriv.runs` and `Deriv.scaleRuns`). -/
def State.tileBytes (s : State) (d : Deriv) (t : Nat) : List (List Byte × List Bool) × List (List Byte × List Bool) :=
  let c := t / d.gridCols
  let e := t % d.gridCols
  if d.vector then
    let es := (List.range (min (32 * c + 32) d.vlen - 32 * c)).map (fun n =>
      let i := 32 * c + n
      let xs := if d.rule = 2 then (List.range d.cols).map (fun j => s.sourceElem d i j)
        else (List.range d.rows).map (fun r => s.sourceElem d r i)
      (sumElems d.env d.dfmt (xs.map (·.1)), xs.any (·.2)))
    ([elemBytes d.dsize es], [])
  else
    let rows := (List.range (min (32 * c + 32) d.drows - 32 * c)).map (32 * c + ·)
    if d.rule = 5 then
      let bs := rows.map (fun i => s.quantBlock d i e)
      (bs.map (·.1), bs.map (·.2))
    else
      (rows.map (fun r => elemBytes d.dsize ((List.range (min (32 * e + 32) d.dcols - 32 * e)).map (fun n =>
        s.derivedElem d r (32 * e + n)))), [])
/-- The base tiles that a derived tile depends on (R45). -/
def Deriv.needs (d : Deriv) (t : Nat) : List (Nat × Nat) :=
  let c := t / d.gridCols
  let e := t % d.gridCols
  if d.rule = 0 ∨ d.rule = 4 then [(e, c)]
  else if d.rule = 2 then (List.range (ceilDiv d.cols 32)).map (fun b => (c, b))
  else if d.rule = 3 then (List.range (ceilDiv d.rows 32)).map (fun a => (a, c))
  else if d.rule = 5 then [(c, 2 * e), (c, 2 * e + 1)]
  else [(c, e)]
/-- The physical runs of a base tile in every base. -/
def Deriv.baseRuns (d : Deriv) (t : Nat × Nat) : List (Nat × Nat) :=
  let n := (min (32 * t.2 + 32) d.cols - 32 * t.2) * d.bsize
  (List.range (min (32 * t.1 + 32) d.rows - 32 * t.1)).flatMap (fun r =>
    let o := (32 * t.1 + r) * d.bpitch + 32 * t.2 * d.bsize
    ((paOf d.pagesA (d.baseA + o)).toList ++ (if d.baseB = 0 then [] else (paOf d.pagesB (d.baseB + o)).toList)).map
      (fun pa => (pa, n)))

/-! ## RECOMPUTE_COMPLETE (R50 to R52) -/

/-- A step that answers a read from a recompute, with the reads that share its line request (04 R74): their bytes, whatever the
state of the tile named. -/
def State.answerStep (s : State) (h t id : Nat) : State :=
  match SMap.find? s.reqs id with
  | none => s
  | some r => match r.op, r.tgt with
    | .read _, .dev _ =>
      let ms := s.stepReads id r
      if s.mayPerform id r && ms.all (fun e => match e.2.tgt with
          | .dev pa => (s.notValid pa e.2.op.width).all (fun x => x.1.handle == h && x.2 == t)
          | _ => true) then
        ms.foldl (fun s e => match e.2.tgt with
          | .dev pa => s.finishRead e.1 e.2 pa e.2.op.width
          | _ => s) s
      else s
    | _, _ => s
/-- A read that a recompute answers: where its line request has parts in both halves of the line, in two steps (01 R13). -/
def State.answerRead (s : State) (h t id : Nat) : State := (s.answerStep h t id).answerStep h t id
/-- A tile has been VALID: DV.WARM and DV.UNREG wait for it no longer. -/
def State.noteValid (s : State) (h t : Nat) : State :=
  { s with
    ops := s.ops.map (fun (e : Nat × Op) => match e.2.kind with
      | .warm k _ _ => if k = h then (e.1, { e.2 with left := e.2.left.filter (· ≠ t) }) else e
      | _ => e)
    paths := s.paths.map (fun (e : Nat × Path) => match e.2.wait with
      | .derive k left => if k = h then (e.1, { e.2 with wait := .derive k (left.filter (· ≠ t)) }) else e
      | _ => e) }
/-- The tile's bytes written; the tiles further down its chain are marked, and the monitors on its lines wake. -/
def State.writeTile (s : State) (d : Deriv) (t : Nat) : State :=
  let (body, codes) := s.tileBytes d t
  let put (ps : List PageMap) (s : State) (x : (Nat × Nat) × (List Byte × List Bool)) : State :=
    match paOf ps x.1.1 with
    | some pa => s.writeAt (.dev pa) x.2.1 x.2.2
    | none => s
  let s := ((d.runs t).zip body).foldl (put d.pagesD) s
  ((d.scaleRuns t).zip codes).foldl (put d.pagesS) s
/-- The recompute of a tile that can finish: the tile is written and its reads are answered. One that starts again at once, as a
marking asks, counts for the function whose read started the first (R61 names no other; DESIGN CHOICE, log 70). -/
def State.finishTile (s : State) (d : Deriv) (r : Recompute) : State :=
  let st := s.tileState r.handle r.tile
  let held := s.heldReads r.handle r.tile
  let s := s.writeTile d r.tile
  let s := { s with recomputes := s.recomputes.filter (fun x => !(x.handle == r.handle && x.tile == r.tile)) }
  if st = some .computingStale then
    let s := r.served.foldl (fun s id => s.answerRead r.handle r.tile id) s
    s.startRecompute r.handle r.tile r.fn
  else
    let s := (s.setTile r.handle r.tile (some .valid)).noteValid r.handle r.tile
    held.foldl (fun s id => s.answerRead r.handle r.tile id) s
/-- RECOMPUTE_COMPLETE: a recompute whose bases are all there, and whose versions have not moved, writes its tile and
answers the reads held for it; at the fourth try it holds the writes to its bases. -/
def execRecomputeComplete (h t : Nat) (s : State) : Host.Outcome State Fault Refusal :=
  .next (match s.recomputes.find? (fun r => r.handle == h && r.tile == t), s.derivs.find? (fun d => d.handle == h) with
  | some r, some d =>
    let bases := (d.needs t).flatMap d.baseRuns
    let waits := bases.flatMap (fun b => s.notValid b.1 b.2)
    if !waits.isEmpty then bases.foldl (fun s b => s.startStale b.1 b.2 r.fn) s
    else if r.moved && s.tileState h t != some .exclusive then
      let s' := s.modRecompute h t (fun r => { r with moved := false, tries := r.tries + 1 })
      if r.tries = 3 then s'.setTile h t (some .exclusive) else s'
    else s.finishTile d r
  | _, _ => s)

/-! ## Registration (R42, R43, R46) -/

/-- Two lists of pages share a byte. -/
def pagesMeet (ps qs : List PageMap) : Bool :=
  ps.any (fun p => qs.any (fun q => decide (p.pa < q.pa + 2 ^ q.log) && decide (q.pa < p.pa + 2 ^ p.log)))
/-- The base pages of a record. -/
def Deriv.bases (d : Deriv) : List PageMap := d.pagesA ++ d.pagesB
/-- The derived and scale-code pages of a record. -/
def Deriv.outs (d : Deriv) : List PageMap := d.pagesD ++ d.pagesS
/-- The bytes of a tensor in the address space: where they begin, bytes from a row to the next and of a row, and rows. -/
structure Span where
  base : Nat
  pitch : Nat
  row : Nat
  rows : Nat
  deriving DecidableEq, Repr
/-- The address after the last byte. -/
def Span.stop (t : Span) : Nat := t.base + (t.rows - 1) * t.pitch + t.row
/-- The first byte of the tensor at or after an address past its base: the bytes between two rows are none of it. -/
def Span.next (t : Span) (va : Nat) : Nat :=
  let o := (va - t.base) % t.pitch
  if o < t.row then va else va + (t.pitch - o)
/-- The leaves that map the bytes of a tensor (R42), from the tables. An error is a page that R42 does not take, or an entry in a
derived tile that is not VALID, at which the walk is held (R49). -/
def State.captureFrom (s : State) (ctx : Nat) (write : Bool) (t : Span) : Nat → Nat → Except (Option Nat) (List PageMap)
  | 0, _ => .ok []
  | k + 1, va =>
    if t.stop ≤ va then .ok []
    else if s.isShared ctx va then .error none
    else match s.walkWaits ctx va with
    | some pte => .error (some pte)
    | none => match s.walkTables ctx va with
      | .refused _ => .error none
      | .found leaf base pte =>
        let inMemory : Bool := match placeOf leaf.frame with
          | some (.near, _) => true
          | some (.far, _) => true
          | _ => false
        if leaf.tgt ≠ 0 ∨ leaf.cw ∨ !inMemory ∨ (write ∧ !leaf.w) then .error none
        else (s.captureFrom ctx write t k (t.next (base + 2 ^ leaf.log))).map (⟨base, leaf.frame, leaf.log, pte⟩ :: ·)
/-- The pages of a tensor. -/
def State.capture (s : State) (ctx : Nat) (t : Span) (write : Bool) : Except (Option Nat) (List PageMap) :=
  if 2 ^ 57 < t.stop ∨ spadOwn < t.stop then .error none
  else s.captureFrom ctx write t ((t.stop - t.base) / 4096 + 2) t.base
/-- Bytes of a row of a base. -/
def Deriv.brow (d : Deriv) : Nat := d.cols * d.bsize
/-- Bytes of a row of the derived tensor. -/
def Deriv.drow (d : Deriv) : Nat := if d.rule = 5 then d.cols / 2 else d.dcols * d.dsize
/-- The checks of R42 on a record's fields. -/
def Deriv.fieldsOk (d : Deriv) : Bool :=
  let super := recField d.img 416 32
  recField d.img 448 64 == 0 && recField d.img 404 12 == 0 && recField d.img 388 4 == 0 &&
  decide (d.rule ≤ 5) && decide (d.bfmt ≤ 7) && decide (d.dfmt ≤ 8) &&
  (if d.rule = 0 then d.dfmt == d.bfmt
    else if d.rule = 1 ∨ d.rule = 4 then decide (d.dfmt ≤ 7)
    else if d.vector then (if tensorInt d.bfmt then d.dfmt == 5 else decide (d.dfmt ≤ 2))
    else d.dfmt == 8 && decide (d.bfmt ≤ 4) && d.cols % 64 == 0) &&
  decide (1 ≤ d.rows) && decide (d.rows ≤ 2 ^ 20) && decide (1 ≤ d.cols) && decide (d.cols ≤ 2 ^ 20) &&
  d.bpitch % 128 == 0 && decide (d.brow ≤ d.bpitch) &&
  (if d.vector then d.dpitch == 0 else d.dpitch != 0 && d.dpitch % 128 == 0 && decide (d.drow ≤ d.dpitch)) &&
  d.baseA % 128 == 0 && d.baseB % 128 == 0 && d.daddr % 128 == 0 && d.saddr % 128 == 0 &&
  (if d.rule = 5 then d.saddr != 0 && decide (0x00800000 ≤ super) && decide (super < 0x7F800000)
    else d.saddr == 0 && super == 0)
/-- The bytes of a base, of the derived tensor, and of the scale codes. -/
def Deriv.spans (d : Deriv) : Span × Span × Span × Span :=
  let out : Span :=
    if d.vector then ⟨d.daddr, d.vlen * d.dsize, d.vlen * d.dsize, 1⟩ else ⟨d.daddr, d.dpitch, d.drow, d.drows⟩
  let n := d.rows * (d.cols / 64)
  (⟨d.baseA, d.bpitch, d.brow, d.rows⟩, ⟨d.baseB, d.bpitch, d.brow, d.rows⟩, out, ⟨d.saddr, n, n, 1⟩)
/-- The record with its pages captured; an error where a page fails R42, or its walk is held. -/
def State.captureRecord (s : State) (d : Deriv) : Except (Option Nat) Deriv := do
  let (ta, tb, td, ts) := d.spans
  let a ← s.capture d.ctx ta false
  let b ← if d.baseB = 0 then pure [] else s.capture d.ctx tb false
  let c ← s.capture d.ctx td true
  let e ← if d.rule = 5 then s.capture d.ctx ts true else pure []
  pure { d with pagesA := a, pagesB := b, pagesD := c, pagesS := e }
/-- Records that take a record's outputs as a base. -/
def State.downstream (s : State) (d : Deriv) : List Deriv := s.derivs.filter (fun o => pagesMeet o.bases d.outs)
/-- A chain downstream of a record reaches some pages, within `k` records. -/
def State.reaches (s : State) (goal : List PageMap) : Nat → Deriv → Bool
  | 0, _ => false
  | k + 1, d => (s.downstream d).any (fun o => pagesMeet o.outs goal || s.reaches goal k o)
/-- Derivations below a record, at most `k`. -/
def State.depthDown (s : State) : Nat → Deriv → Nat
  | 0, _ => 0
  | k + 1, d => (s.downstream d).foldl (fun n o => max n (1 + s.depthDown k o)) 0
/-- Derivations down to a record, itself included, at most `k`. -/
def State.depthUp (s : State) : Nat → Deriv → Nat
  | 0, _ => 0
  | k + 1, d => 1 + (s.derivs.filter (fun o => pagesMeet o.outs d.bases)).foldl (fun n o => max n (s.depthUp k o)) 0
/-- The entries that map a captured page: the 16 of a 64 KiB page, else one (01 R24). -/
def PageMap.ptes (p : PageMap) : List Nat :=
  if p.log = 16 then (List.range 16).map (fun k => p.pte / 128 * 128 + 8 * k) else [p.pte]
/-- A bit of the leaf of a captured page set or cleared, in every entry that maps it. -/
def State.modPte (s : State) (p : PageMap) (bit : Nat) (on : Bool) : State :=
  p.ptes.foldl (fun s a => s.setPteBit a bit on) s
/-- Accesses in flight to some pages. -/
def State.flyingTo (s : State) (ps : List PageMap) : List Nat :=
  s.flying (fun r => match r.tgt with
    | .dev pa => inPages ps pa
    | _ => false)
/-- Cached translations of some pages removed from every TLB, whatever the context that reached their entries (01 R25). -/
def State.dropPages (s : State) (ps : List PageMap) : State := s.tlbDropPtes (ps.flatMap PageMap.ptes)
/-- A record added: DER on derived and scale-code pages, DEP on base pages, cached translations removed. -/
def State.addDeriv (s : State) (d : Deriv) : State :=
  let s := d.outs.foldl (fun s p => s.modPte p 11 true) s
  let s := d.bases.foldl (fun s p => s.modPte p 10 true) s
  { (s.dropPages (d.outs ++ d.bases)) with derivs := s.derivs ++ [d] }
/-- A captured page is among those of a list: an entry maps both. -/
def PageMap.isIn (p : PageMap) (ps : List PageMap) : Bool := ps.any (fun q => p.ptes.any q.ptes.contains)
/-- A record removed: DER cleared, DEP cleared on base pages that no other record names (R56, R61). -/
def State.removeDeriv (s : State) (d : Deriv) : State :=
  let s := { s with
    derivs := s.derivs.filter (fun o => o.handle != d.handle)
    tiles := s.tiles.filter (fun x => x.handle != d.handle)
    recomputes := s.recomputes.filter (fun x => x.handle != d.handle) }
  let s := d.outs.foldl (fun s p => s.modPte p 11 false) s
  let s := (d.bases.filter (fun p => !s.derivs.any (fun o => p.isIn o.bases))).foldl (fun s p => s.modPte p 10 false) s
  s.dropPages (d.outs ++ d.bases)
/-- The group held until accesses have taken effect. -/
def State.holdGroup (s : State) (grp : Nat) (ids : List Nat) : State :=
  { s with paths := s.paths.map (fun (e : Nat × Path) =>
      if e.2.grp == grp then (e.1, { e.2 with hold := e.2.hold ++ ids }) else e) }
/-- Stores and atomics of lanes in flight to some pages. -/
def State.storesTo (s : State) (ps : List PageMap) : List Nat :=
  s.flying (fun r => r.isLG && r.writes && match r.tgt with
    | .dev pa => inPages ps pa
    | _ => false)
/-- An operation that writes memory, here or at a peer. -/
def OpKind.writesMemory : OpKind → Bool
  | .lane .. => true
  | .bulk .. => true
  | .mcast .. => true
  | .stamp .. => true
  | .put .. => true
  | .get _ => true
  | .red .. => true
  | .ata _ => true
  | .cmb .. => true
  | _ => false
/-- The writes of a group that have not taken effect, and its operations that make some (13 R242). -/
def State.writesOf (s : State) (grp : Nat) : List Nat :=
  s.flying (fun r => r.grp == grp && r.writes) ++ (s.ops.filter (fun o => o.2.grp == grp && o.2.kind.writesMemory)).map (·.1)
/-- A free handle (R55: 0 to 4,095): the lowest (DESIGN CHOICE, log 45). -/
def State.freeHandle (s : State) : Option Nat := (List.range 4096).find? (fun h => !s.derivs.any (fun d => d.handle == h))

/-! ## DV (R54 to R58) -/

/-- DV.REG: the record is read at issue and checked; once the group's earlier writes, and the stores in flight to the derived
pages, have taken effect, it is registered in one step, and the group is held until cached translations of its pages are
out of use. -/
def execDvReg (w : FmtA (Fin 64) IntPair Unit Unit Unit) (s : State) : Host.Outcome State Fault Refusal :=
  onPath s (fun x =>
    let a := x.intPair w.a
    let bad := x.raise .recordInvalid a 0 1
    if !x.guardOn w.g then (x.retire w.q .none).commit
    else x.withTable .l a 64 64 (fun bs =>
      let d : Deriv := ⟨0, x.e.fn, x.e.ctx, leNat bs, [], [], [], []⟩
      if !d.fieldsOk then bad
      else match x.s.captureRecord d with
        | .error none => bad
        | .error (some pte) => x.s.startWalk pte x.e.ctx
        | .ok d =>
          if pagesMeet d.outs d.bases || x.s.derivs.any (fun o => pagesMeet d.outs o.outs) then bad
          else if x.s.reaches d.bases 4096 d then x.raise .cyclicDerivation a 0 0
          else if 4 < x.s.depthUp 6 d + x.s.depthDown 6 d then bad
          else match x.s.freeHandle with
            | none =>
              (({ x with g := x.g.setS w.d.val 0xFFFFFFFF, p := { x.p with wait := .none } }).retire w.q .none).commit
            | some h =>
              let first := x.s.writesOf x.gid ++ x.s.storesTo d.outs
              if !first.isEmpty then { x with p := { x.p with wait := .register first } }.commit
              else
                let ids := x.s.flyingTo (d.outs ++ d.bases)
                ((({ x with g := x.g.setS w.d.val (BitVec.ofNat 32 h), p := { x.p with wait := .none } }).retire w.q
                  .none).commit.addDeriv { d with handle := h }).holdGroup x.gid ids))
/-- The record of a handle, where it is the function's own. -/
def View.deriv (x : View) (h : Word) : Option Deriv := x.s.derivs.find? (fun d => d.handle == h.toNat && d.fn == x.e.fn)
/-- The record removed and 0 written; the group is held as at registration. -/
def View.unregister (x : View) (d : Deriv) (dst : Nat) (q : Bool) : State :=
  let ids := x.s.flyingTo (d.outs ++ d.bases)
  let y := { x with g := x.g.setS dst 0, p := { x.p with wait := .none } }
  ((y.retire q .none).commit.removeDeriv d).holdGroup x.gid ids
/-- DV.UNREG: recomputes every tile that is not VALID, holding the group, then removes the record. -/
def execDvUnreg (w : FmtA (Fin 64) IntSrc Unit Unit Unit) (s : State) : Host.Outcome State Fault Refusal :=
  onPath s (fun x =>
    if !x.guardOn w.g then (x.retire w.q .none).commit
    else match x.deriv (x.int w.a) with
      | none => x.raise .recordInvalid 0 0 1
      | some d => match x.p.wait with
        | .derive _ [] => x.unregister d w.d.val w.q
        | .derive _ _ => x.s
        | _ =>
          let (s, left) := x.s.warm x.e.fn d.handle 0 d.tiles
          if left.isEmpty then x.unregister d w.d.val w.q
          else { x with s := s, p := { x.p with wait := .derive d.handle left } }.commit)
/-- State code of a tile (R51). -/
def tileCode : Option TileState → Nat
  | some .valid => 0
  | none => 1
  | some .computing => 2
  | some .computingStale => 3
  | some .exclusive => 4
/-- DV.QRY: a snapshot. -/
def execDvQry (w : FmtA (Fin 64) IntSrc IntSrc Unit Unit) (s : State) : Host.Outcome State Fault Refusal :=
  onPath s (fun x =>
    if !x.guardOn w.g then (x.retire w.q .none).commit
    else match x.deriv (x.int w.a) with
      | none => x.raise .recordInvalid 0 0 1
      | some d =>
        let t := (x.int w.b).toNat
        let tries := match x.s.recomputes.find? (fun r => r.handle == d.handle && r.tile == t) with
          | some r => r.tries
          | none => 0
        let v := if d.tiles ≤ t then 7 else tileCode (x.s.tileState d.handle t) + 8 * tries
        (({ x with g := x.g.setS w.d.val (BitVec.ofNat 32 v) }).retire w.q .none).commit)
/-- DV.WARM: an operation under a tag. -/
def execDvWarm (w : FmtX IntSrc IntSrc IntSrc Unit) (s : State) : Host.Outcome State Fault Refusal :=
  tagWord w (fun x => match x.deriv (x.int w.a) with
    | none => x.raise .recordInvalid 0 0 1
    | some d => x.oneOp w (.warm d.handle (x.int w.b).toNat (x.int w.cc).toNat) []) s

end Sys2Proof.Machine
end

