-- ==== Sys2Proof/Machine/Fabric.lean ====
section
/-! DEFINITION. Class FB and the fabric's events (18 R300 to R310, 24 R370, R371). Packets to other peers leave to the
environment; those to the package itself are delivered inside. -/
namespace Sys2Proof.Machine
open Sys2Proof

/-! ## Lane forms (R300 to R303) -/

/-- The device address of an entry of the function's multicast table (24 R371). -/
def View.mcgEntry (x : View) (g : Nat) : Nat := (x.s.fn x.e.fn).mcgBase.toNat + 128 * g
/-- A number of `n` bytes of the multicast table, from the blocks that the word has read; what carries poison there is used as it
stands (DESIGN CHOICE, log 62). -/
def View.mcgNum (x : View) (a n : Nat) : Nat :=
  leNat ((List.range n).map (fun i =>
    match x.p.tables.find? (fun t => t.addr.toNat == (a + i) / 64 * 64) with
    | some t => SMap.getD t.data ((a + i) % 64) 0
    | none => 0))
/-- The members of a multicast group, none where it is empty (24 R371). -/
def View.members (x : View) (g : Nat) : List Nat :=
  let a := x.mcgEntry g
  let n := x.mcgNum a 2
  let ps := (List.range n).map (fun k => x.mcgNum (a + 2 + 2 * k) 2)
  if 256 ≤ g ∨ n = 0 ∨ 63 < n ∨ ps.any (fun p => decide (x.s.domsize ≤ p)) then [] else ps
/-- The 64-byte blocks of the multicast table that a word reads, each in a step of its own (01 R13), and has not read yet. -/
def View.mcgBlocks (x : View) (m : Lanes) (c : Src) : List Nat :=
  (distinct ((lanesBelow x.w m).flatMap (fun i =>
    let ctl := (x.lane c i).toNat
    let a := x.mcgEntry (ctl % 4096)
    if ctl / 4096 = 0 ∨ 256 ≤ ctl % 4096 then [] else [a / 64 * 64, (a + 127) / 64 * 64]))).filter (fun a =>
      !x.p.tables.any (fun t => t.addr.toNat == a))
/-- One block of the table read, before the word issues; held while it lies in a derived tile that is not VALID, which starts its
recompute (02 R49). -/
def View.readMcg (x : View) (a : Nat) : State :=
  if !(x.s.notValid a 64).isEmpty then x.s.startStale a 64 x.e.fn
  else
    let t := Gather.mk (BitVec.ofNat 64 a) 64 ((x.s.mem.bytes a 64).zipIdx.map (fun b => (b.2, b.1))) [] [] false
    { x with p := { x.p with tables := x.p.tables ++ [t] } }.commit
/-- The contributing lanes of a word, with their control words split (R300): lane and its work. -/
def View.fbLanes (x : View) (m : Lanes) (a b : Base) (c : Src) (mc : Bool) : List (Nat × FbLane) :=
  (lanesBelow x.w m).filterMap (fun i =>
    let ctl := (x.lane c i).toNat
    let p := ctl % 4096
    let ps := if mc then x.members p else if p < x.s.domsize then [p] else []
    if ctl / 4096 = 0 then none else some (i, ⟨x.base a i, x.base b i, ctl / 4096, ps⟩))
/-- A precise fault of the lanes that meet a check; ADDR as computed for the lowest. -/
def View.fbFault (x : View) (c : Code) (ls : List (Nat × FbLane)) (p : FbLane → Bool) (addr : FbLane → DWord)
    (detail : Nat) : Option State :=
  let hits := (ls.filter (fun l => p l.2)).map (fun l => (l.1, addr l.2))
  if hits.isEmpty then none else some (x.raiseAt c false hits detail)
/-- The shape of PUT, GET and RED: the checks of R302 in order over every contributing lane, then one operation that
reads after the group's earlier L and G accesses. `far`: bytes of the remote range; `near`: of the local one; `align`:
of the remote address. -/
def fbWord {μ : Type} (w : FmtX Base Base Src μ) (mc sp st : Bool) (near far : FbLane → Nat) (align : Nat)
    (kind : List FbLane → OpKind) (s : State) : Host.Outcome State Fault Refusal :=
  onPath s (fun x =>
    let y := x.sample (Src.isClk w.cc && x.guardOn w.g)
    let ls := y.fbLanes (y.active w.g) w.a w.b w.cc mc
    let remote (l : FbLane) : Nat := if sp then (loWord l.rem).toNat else l.rem.toNat
    let mis (l : FbLane) : Bool := decide (l.loc.toNat % 4 ≠ 0) || decide (remote l % align ≠ 0) || decide (l.size % 4 ≠ 0)
    let out (l : FbLane) : Bool := x.rangeOutside l.loc (near l) ||
      (!sp && decide (2 ^ 57 ≤ l.rem.toNat + far l - 1))
    let top := ls.drop (ls.length - 1)
    let tests : List (Option State) :=
      [x.fbFault .fabric ls (fun l => l.peers.isEmpty) (fun _ => 0) 0x7F,
       x.fbFault .misaligned ls mis (fun l => if l.loc.toNat % 4 ≠ 0 then l.loc else l.rem) 0,
       x.fbFault .address ls out (fun l => if x.rangeOutside l.loc (near l) then l.loc else l.rem) 0,
       if st then x.fbFault .illegalOperand top (fun l => l.size != 8) (fun _ => 0) 0 else none,
       if st then x.fbFault .misaligned top (fun l => l.loc.toNat % 8 != 0 || remote l % 8 != 0)
         (fun l => if l.loc.toNat % 8 ≠ 0 then l.loc else l.rem) 0 else none]
    if ls.isEmpty then (y.retire w.q .none).commit
    else if !x.tagRoom w.tag.val 1 then x.s
    else match (if mc then y.mcgBlocks (y.active w.g) w.cc else []) with
    | a :: _ => x.readMcg a
    | [] => match tests.findSome? (fun t => t) with
      | some s => s
      | none =>
        ((y.launchOp (kind (ls.map (·.2))) w.tag.val (w.trig.map (·.val)) (lanesMask (ls.map (fun l => (l.1, l.2.loc))))
          (x.s.flying (fun r => r.grp == x.gid && r.isLG))).retire w.q .none).commit)
/-- FB.PUT. -/
def execFbPut (w : FmtX Base Base Src PutMod) (s : State) : Host.Outcome State Fault Refusal :=
  fbWord w w.mod.mc w.mod.sp w.mod.st (·.size) (·.size) 4 (.put w.mod) s
/-- FB.GET. -/
def execFbGet (w : FmtX Base Base Src Unit) (s : State) : Host.Outcome State Fault Refusal :=
  fbWord w false false false (·.size) (·.size) 4 .get s
/-- FB.RED: under RS the residuals lie directly after the local range; under XC each element has a cell. -/
def execFbRed (w : FmtX Base Base Src FbRedMod) (s : State) : Host.Outcome State Fault Refusal :=
  fbWord w false false false (fun l => if w.mod.rs then 2 * l.size else l.size)
    (fun l => if w.mod.ty = .xc then 16 * l.size else l.size) (if w.mod.ty = .xc then 64 else 4) (.red w.mod) s

/-! ## FB.ATA, FB.CMB and FB.ARRV -/

/-- An order whose first RANK entries are a permutation of the axes and whose other bits are zero. -/
def orderOk (m ord : Nat) : Bool :=
  let as := (List.range (mapRank m)).map (ordAxis ord)
  (List.range (mapRank m)).all as.contains && decide (ord < 4 ^ mapRank m)
/-- A layout map that meets R306. -/
def mapOk (m domsize peerid : Nat) : Bool :=
  let base := recField m 384 16
  recField m 640 384 == 0 && recField m 400 48 == 0 && recField m 40 88 == 0 && recField m 16 8 == 0 &&
  [2, 4, 8, 16].contains (mapEsize m) && decide (1 ≤ mapRank m) && decide (mapRank m ≤ 4) &&
  orderOk m (recField m 24 8) && orderOk m (recField m 32 8) &&
  (List.range 4).all (fun a =>
    let n := mapExt m a
    let p := mapSgrid m a
    let q := mapDgrid m a
    if a < mapRank m then
      decide (1 ≤ n) && decide (n ≤ 2 ^ 24) && p != 0 && q != 0 && n % p == 0 && n % q == 0
    else n == 1 && p == 1 && q == 1) &&
  mapRanks m == ((List.range 4).map (mapDgrid m)).foldl (· * ·) 1 &&
  decide (base + mapRanks m ≤ domsize) && decide (base ≤ peerid) && decide (peerid < base + mapRanks m) &&
  recField m 448 64 % mapEsize m == 0 && recField m 512 64 % mapEsize m == 0 && recField m 576 64 % 8 == 0
/-- FB.ATA: the map is read and checked at issue. -/
def execFbAta (w : FmtX (Fin 32) Unit Unit Unit) (s : State) : Host.Outcome State Fault Refusal :=
  tagWord w (fun x =>
    let a := x.g.spair (2 * w.a.val)
    x.withTable .f a 128 8 (fun bs =>
      let m := leNat bs
      if mapOk m x.s.domsize x.s.peerid then
        x.oneOp w (.ata m) (x.s.flying (fun r => r.grp == x.gid && r.isLG))
      else x.raise .recordInvalid a 0 2)) s
/-- Bytes of an element of a combine format. -/
def combineBytes (c : Nat) : Nat := if c = 0 then 4 else 2
/-- A combine record that meets R308. -/
def cmbOk (r : Nat) : Bool :=
  recField r 320 192 == 0 && recField r 56 8 == 0 && recField r 256 64 % 4 == 0 &&
  decide (recField r 48 8 ≤ 2) && decide (recField r 40 8 ≤ 2) && decide (1 ≤ cmbK r) && decide (cmbK r ≤ 16) &&
  decide (1 ≤ cmbTok r) && decide (cmbTok r ≤ 2 ^ 20) && decide (1 ≤ cmbHid r) && decide (cmbHid r ≤ 65536) &&
  recField r 96 32 % 4 == 0 && decide (cmbHid r * combineBytes (recField r 48 8) ≤ recField r 96 32)
/-- Slot entries that meet R308. -/
def slotsOk (r domsize : Nat) (slot : List Byte) : Bool :=
  (List.range (cmbTok r * cmbK r)).all (fun i =>
    let (p, a) := cmbSlot slot i
    leNat ((slot.drop (16 * i + 2)).take 6) == 0 &&
      (p == 0xFFFF || (decide (p < domsize) && a % combineBytes (recField r 40 8) == 0)))
/-- FB.CMB: the record and its gate and slot tables are read and checked at issue. -/
def execFbCmb (w : FmtX (Fin 32) Unit Unit Unit) (s : State) : Host.Outcome State Fault Refusal :=
  tagWord w (fun x =>
    let a := x.g.spair (2 * w.a.val)
    x.withTable .f a 64 64 (fun bs =>
      let r := leNat bs
      if !cmbOk r then x.raise .recordInvalid a 0 3
      else x.withTable .f (BitVec.ofNat 64 (recField r 128 64)) (4 * (cmbTok r * cmbK r)) 1 (fun gate =>
        x.withTable .f (BitVec.ofNat 64 (recField r 192 64)) (16 * (cmbTok r * cmbK r)) 1 (fun slot =>
          if slotsOk r x.s.domsize slot then
            x.oneOp w (.cmb r gate slot) (x.s.flying (fun q => q.grp == x.gid && q.isLG))
          else x.raise .recordInvalid a 0 3)))) s
/-- FB.ARRV. -/
def execFbArrv (w : FmtX USrc USrc USrc Unit) (s : State) : Host.Outcome State Fault Refusal :=
  tagWord w (fun x =>
    let y := x.sample (USrc.isClk w.a || USrc.isClk w.b || USrc.isClk w.cc)
    let p := (y.uni w.a).toNat
    let b := (y.uni w.cc).toNat
    if x.s.domsize ≤ p then x.raise .fabric 0 0 0x7F
    else if 15 < b then x.raise .illegalOperand 0 0 0
    else y.oneOp w (.fbArrive p (y.uni w.b) b) []) s

/-! ## Packets from other peers (R302, R303, R310) -/

/-- A request that a packet makes at this module. -/
def Packet.req (k : Packet) (op : ReqOp) (pa : Nat) : Req :=
  { src := 1536 + k.src, arm := 0, served := 0, path := .f, fn := k.fn, entry := 0, team := 0, grp := 0, lanes := 0, named := 0, pc := 0,
    va := 0, ctx := 0, op := op, tgt := .dev pa, after := [], ret := .peer k.src k.op, acquire := false, noFill := true,
    value := none, doneAt := 0, mesh := false, half := none, part := [], born := 0 }
/-- A packet's request joins those in flight, and takes effect at once where it may; an address that this module does
not have is answered with status ADDRESS. -/
def State.packetReq (s : State) (k : Packet) (op : ReqOp) (pa : Nat) : State :=
  if (placeOf pa).isNone then s.reply k.src k.op k.fn [4] [false]
  else (s.addReq (Packet.req k op pa)).performNow s.nextId
/-- A delivery or an arrival that a packet brings stands before its slot. -/
def State.packetDelivery (s : State) (k : Packet) (h : Word) (data : Option (Nat × List Byte × List Bool)) (bar : Nat) :
    State :=
  { s with
    deliveries := SMap.put s.deliveries s.nextId ⟨k.fn, 0, h, data, bar, .peer k.src k.op, []⟩
    nextId := s.nextId + 1 }
/-- The answer to a request of this module: data for one that reads, a status for every other. Bytes refused at the
peer fault as ADDRESS at a peer, and an atomic or a delivery to a cell that met poison there as POISON (01 R21, R36). -/
def State.acknowledge (s : State) (id : Nat) (data : List Byte) (bad : List Bool) : State :=
  match SMap.find? s.reqs id with
  | none => s
  | some r => match r.tgt with
    | .peer _ _ =>
      if r.doneAt ≠ 1 ∨ r.value.isSome then s
      else
        let reads : Bool := match r.op with
          | .read _ => true
          | op => op.returns && r.ret != .none
        if reads then
          (s.acquireDone r).answer id r data (r.spoiled bad)
        else
          let poisoned := r.op.modifies && (r.mesh || bad.any (fun b => b))
          let st := match data with
            | b :: _ => if r.op.returns || poisoned then 0 else b.toNat
            | [] => 0
          let s := if poisoned then s.reqFault id r .poison 2
            else if st = 4 then s.reqFault id r .address 5
            else s
          let s := s.finishReq id r st
          match r.ret with
          | .op o _ => (s.pump o).settle o
          | _ => s
    | _ => s
/-- FABRIC_PACKET_RECEIVE: a packet for this package lands, or joins what its owner holds. -/
def execFabricPacketReceive (k : Packet) (s : State) : Host.Outcome State Fault Refusal :=
  .next (if k.dst ≠ s.peerid ∨ !s.up then s
  else match k.body with
  | .put pa d => s.packetReq k (.write d k.poison) pa
  | .red ty pa d => s.packetReq k (.red ty d k.poison) pa
  | .get pa n => s.packetReq k (.read n) pa
  | .atomic op wide pa x y rm => s.packetReq k (.atomic op wide x y rm) pa
  | .xadd f pa x => s.packetReq k (.xadd f x) pa
  | .xrd c pa => s.packetReq k (.xrd c) pa
  | .spad h off d => s.packetDelivery k h (some (off, d, k.poison)) 0
  | .arrive h b => s.packetDelivery k h none b
  | .reply d => s.acknowledge k.op d k.poison)
/-- FABRIC_ACKNOWLEDGE: the answer to a request of this module; the operation whose last it was completes. -/
def execFabricAcknowledge (id : Nat) (data : List Byte) (bad : List Bool) (s : State) : Host.Outcome State Fault Refusal :=
  .next (s.acknowledge id data bad)

/-! ## Links (24 R370) -/

/-- LINK_RETRAINED: the link carries packets again. -/
def execLinkRetrained (port : Nat) (s : State) : Host.Outcome State Fault Refusal :=
  .next { s with linksDown := s.linksDown.filter (· ≠ port) }
/-- A request without its answer whose packet left through a port. -/
def State.leftThrough (s : State) (port id : Nat) (r : Req) : Bool :=
  r.value.isNone && r.doneAt == 1 && s.fabricOut.any (fun k => k.1 == port && k.2.op == id &&
    match k.2.body with
    | .reply _ => false
    | _ => true)
/-- LINK_DOWN: the packets on the link are discarded, and each launch that had one faults with FABRIC, imprecisely, with
the port in DETAIL. -/
def execLinkDown (port : Nat) (s : State) : Host.Outcome State Fault Refusal :=
  let s' := { s with
    linksDown := insertNat s.linksDown port
    reqs := s.reqs.map (fun (e : Nat × Req) => if s.leftThrough port e.1 e.2 then (e.1, { e.2 with doneAt := 2 }) else e) }
  .next (((s.reqs.filter (fun e => s.leftThrough port e.1 e.2)).foldl (fun (a : State × List Nat) e =>
    if a.2.contains e.2.entry then a else (a.1.reqFault e.1 e.2 .fabric port, e.2.entry :: a.2)) (s', [])).1)

end Sys2Proof.Machine
end

