-- ==== Sys2Proof/Machine/Fetch.lean ====
section
/-! DEFINITION. The instruction buffer, instruction fetch, and class IC (10 R194 to R196; 08 R138; 21 R327 to R330). -/
namespace Sys2Proof.Machine
open Sys2Proof

/-! ## Lines (R327, R329) -/

/-- A line of a context in the core's buffer. -/
def Core.codeLine (c : Core) (ctx line : Nat) : Option CodeLine :=
  c.code.find? (fun l => l.ctx == ctx && l.line == line && !l.bytes.isEmpty)
/-- A word of a line is uncorrectable in the buffer. -/
def CodeLine.lost (l : CodeLine) (word : Nat) : Bool :=
  decide (2 ≤ (distinct ((l.flips.filter (fun f => f.1 == word)).map (·.2))).length)
/-- A word fetched from a line, with its poison. -/
def lineWord (bytes : List Byte) (bad : List Bool) (k : Nat) : BitVec 64 × Bool :=
  (BitVec.ofNat 64 (leNat ((bytes.drop (8 * k)).take 8)), ((bad.drop (8 * k)).take 8).any (fun b => b))
/-- The word at an address as a path would fetch it: from the buffer, or from its group's fallback slot. -/
def View.wordAt (x : View) (a : Nat) : Option (BitVec 64 × Bool) :=
  let k := a % 256 / 8
  match (x.s.core x.g.core).codeLine x.e.ctx (a / 256) with
  | some l => if l.lost k then none else some (lineWord l.bytes l.bad k)
  | none => match x.g.fallback with
    | none => none
    | some f =>
      if f.arm ≠ x.pid then none
      else (f.lines.find? (fun l => l.line == a / 256)).map (fun l => lineWord l.bytes l.bad k)
/-- The words of the chain at an address, as far as they are there, with the first address that is missing. -/
def View.chainWords (x : View) : Nat → Nat → List (BitVec 64 × Bool) × Option Nat
  | 0, _ => ([], none)
  | k + 1, a => match x.wordAt a with
    | none => ([], some a)
    | some w =>
      if cBit w.1 ∧ k ≠ 0 then
        let (ws, m) := x.chainWords k (a + 8)
        (w :: ws, m)
      else if qBit w.1 then match x.wordAt (a + 8) with
        | none => ([], some (a + 8))
        | some l => ([w, l], none)
      else ([w], none)
/-- The lines in which the arm's next fetch lies: beyond its decoded chain; or at its PC, with the line into which the chain
there crosses until it is decoded (R329). -/
def View.nextLines (x : View) : List Nat :=
  let a := x.p.pc.toNat
  if x.p.chain.isEmpty then
    let (ws, missing) := x.chainWords 8 a
    [a / 256, (a + 8 * (ws.length - 1)) / 256] ++ (missing.map (· / 256)).toList
  else [(a + 8 * x.p.chain.length + (if x.p.live = 0 then 0 else 8)) / 256]
/-- An arm's next fetch lies in a line of a core (R329). -/
def State.lineUsed (s : State) (core ctx line : Nat) : Bool :=
  s.paths.any (fun e => match s.viewOf e.1 with
    | none => false
    | some x => x.g.core == core && x.t.place == .resident && x.e.ctx == ctx && x.nextLines.contains line)
/-- The line that makes room: the least recently filled or hit among those that no arm and no lock holds. -/
def State.victim (s : State) (core : Nat) : Option CodeLine :=
  ((s.core core).code.filter (fun l => l.locks.isEmpty && !s.lineUsed core l.ctx l.line)).foldl (fun v l =>
    match v with
    | none => some l
    | some u => if l.age < u.age then some l else some u) none
/-- The lines of a core's buffer changed. -/
def State.setCode (s : State) (core : Nat) (ls : List CodeLine) : State := s.setCore core { s.core core with code := ls }
/-- A hit: the line was used last. -/
def State.touchLine (s : State) (core ctx line : Nat) : State :=
  let n := s.nextId
  { (s.setCode core ((s.core core).code.map (fun l =>
      if l.ctx == ctx && l.line == line then { l with age := n } else l))) with nextId := n + 1 }

/-! ## Fills (R328, R330) -/

/-- The bytes of a fill and their poison. -/
def Gather.line (t : Gather) : List Byte × List Bool := (t.bytes, (List.range t.n).map (fun i => t.bad.contains i))
/-- A line put into the group's fallback slot, beside the line before it; a slot whose arm has not yet issued its next
chain is not taken from it. -/
def Group.fallbackFill (g : Group) (arm line : Nat) (bytes : List Byte) (bad : List Bool) : Group :=
  let old := match g.fallback with
    | some f => if f.arm = arm then f.lines.filter (fun l => l.line + 1 == line) else []
    | none => []
  let free := match g.fallback with
    | some f => f.arm == arm || f.used
    | none => true
  if free then { g with fallback := some ⟨arm, old ++ [⟨line, bytes, bad, false⟩], false⟩ } else g
/-- LINE_FILL: the line's bytes are all there, and it enters the buffer, or the fallback slot where no line can be
allocated. -/
def execLineFill (id : Nat) (s : State) : Host.Outcome State Fault Refusal :=
  .next (match SMap.find? s.fills id with
  | none => s
  | some f =>
    if !f.got.left.isEmpty then s
    else
      let (bytes, bad) := f.got.line
      let n := s.nextId
      let s := { s with fills := SMap.del s.fills id, nextId := n + 1 }
      let c := s.core f.core
      let grp := match SMap.find? s.paths f.arm with
        | some p => p.grp
        | none => 0
      let leave (s : State) : State := s.modGroup grp (fun g => match g.fallback with
        | some b => if b.arm = f.arm then { g with fallback := none } else g
        | none => g)
      let fresh : CodeLine := ⟨f.ctx, f.line, bytes, bad, [], n, []⟩
      if c.code.any (fun l => l.ctx == f.ctx && l.line == f.line) then
        leave (s.setCode f.core (c.code.map (fun l =>
          if l.ctx == f.ctx && l.line == f.line then { fresh with locks := l.locks } else l)))
      else if c.code.length < 256 then leave (s.setCode f.core (c.code ++ [fresh]))
      else match s.victim f.core with
        | some v => leave (s.setCode f.core (c.code.filter (· ≠ v) ++ [fresh]))
        | none => s.modGroup grp (fun g => g.fallbackFill f.arm f.line bytes bad))
/-- A line's fill begins: four reads of 64 bytes, which belong to no access path. -/
def View.startFill (x : View) (line : Nat) (t : Target) : State :=
  let id := x.s.nextId
  let s := { x.s with
    fills := SMap.put x.s.fills id ⟨x.g.core, x.e.ctx, line, x.pid, ⟨BitVec.ofNat 64 (256 * line), 256, [], [], [], false⟩⟩
    nextId := id + 1 }
  (List.range 4).foldl (fun s k =>
    let shift (t : Target) : Target := match t with
      | .dev a => .dev (a + 64 * k)
      | .host a => .host (a + 64 * k)
      | .peer p a => .peer p (a + 64 * k)
      | u => u
    let r := { x.req .h (.read 64) (shift t) (BitVec.ofNat 64 (256 * line + 64 * k)) 0 (.line id (64 * k)) with pc := x.p.pc }
    let rid := s.nextId
    ({ s with fills := SMap.mod s.fills id (fun f => { f with got := { f.got with left := f.got.left ++ [rid] } }) }).issue r) s
/-- A fetch fails: at the branch that brought the path here, or at the word that could not be fetched (R178, R328). -/
def View.fetchFault (x : View) (a detail : Nat) : State :=
  let pc := if a = x.p.pc.toNat then x.p.branch.getD x.p.pc else BitVec.ofNat 64 a
  ({ x with p := { x.p with pc := pc } }).raise .address (BitVec.ofNat 64 a) 0 detail
/-- The path's next words lie in a line that it does not have: the line is translated and its fill begins. `a` is the
first address that is missing. -/
def View.wantLine (x : View) (a : Nat) : State :=
  let base := a / 256 * 256
  match x.refusedAt (BitVec.ofNat 64 base) with
  | some d => x.fetchFault a d
  | none => match x.s.translate x.g.core x.e.ctx none base .fetch with
    | .fault d => x.fetchFault a d
    | .miss kind => x.awaitWalk (BitVec.ofNat 64 base) kind
    | .hit t _ => { x with s := x.s.tlbPromote x.g.core x.e.ctx base }.startFill (a / 256) t

/-! ## A chain (R138, R144) -/

/-- The fault code of a decode fault. -/
def decodeCode : DecodeFault → Code
  | .illegalInstruction => .illegalInstruction
  | .illegalOperand => .illegalOperand
  | .registerRange => .registerRange
  | .latchInvalid => .latchInvalid
/-- The first word that is poisoned. -/
def firstPoison (ws : List (BitVec 64 × Bool)) : Option Nat := (ws.zipIdx.find? (fun w => w.1.2)).map (·.2)
/-- The fallback slot after an arm has issued a word: its own slot is used once a chain of it has ended; the slot of another
arm is flushed once used (R330). -/
def Group.issueFrom (g : Group) (arm : Nat) (ended : Bool) : Group :=
  match g.fallback with
  | none => g
  | some f => if f.arm = arm then { g with fallback := some { f with used := f.used || ended } }
    else if f.used then { g with fallback := none } else g
/-- A fetch of the path's next chain: the chain stands decoded, or the path faults at the word that a fault names, or a
line is missing and its fill or its walk begins. -/
def View.fetch (x : View) : State :=
  let a := x.p.pc.toNat
  let (ws, miss) := x.chainWords 8 a
  let r := decodeChain x.w x.regs 8 [] (ws.map (·.1))
  let bad (k : Nat) (c : Code) (detail : Nat) : State :=
    ({ x with p := { x.p with pc := x.p.pc + BitVec.ofNat 64 (8 * k) } }).raise c 0 0 detail
  let err := match r with
    | .error (k, e) => if k < ws.length then some (k, e) else none
    | .ok _ => none
  match firstPoison ws, err with
  | some k, none => bad k .poison 3
  | some k, some (j, e) => if k ≤ j then bad k .poison 3 else bad j (decodeCode e) 0
  | none, some (j, e) => bad j (decodeCode e) 0
  | none, none => match miss, r with
    | some m, _ => x.wantLine m
    | none, .ok is =>
      let live := (ws.getD is.length (0, false)).1
      let last := (a + 8 * ws.length - 8) / 256
      let s := x.s.touchLine x.g.core x.e.ctx (a / 256)
      let s := if last = a / 256 then s else s.touchLine x.g.core x.e.ctx last
      s.modPath x.pid (fun p => { p with chain := is, pos := 0, latches := [], live := live })
    | none, .error _ => x.s

/-! ## IC (R194 to R196) -/

/-- The lines that a count of bytes from an address covers: the first and the number. -/
def icLines (a : DWord) (b : Word) : Nat × Nat :=
  if b = 0 then (0, 0) else (a.toNat / 256, (a.toNat + b.toNat - 1) / 256 + 1 - a.toNat / 256)
/-- A line of a context lies among those covered. -/
def icCovers (r : Nat × Nat) (line : Nat) : Bool := decide (r.1 ≤ line) && decide (line < r.1 + r.2)
/-- The first address of page k of an IC.LOCK's range. -/
def lockPage (a : DWord) (k : Nat) : DWord := if k = 0 then a else BitVec.ofNat 64 ((a.toNat / 4096 + k) * 4096)
/-- Pages that a count of bytes from an address covers. -/
def lockPages (a : DWord) (b : Word) : Nat := if b = 0 then 0 else (a.toNat + b.toNat - 1) / 4096 + 1 - a.toNat / 4096
/-- IC.LOCK: every line translates with X = 1, which is found out page after page; absent lines are fetched before the word goes
on; more than 64 locked lines are refused. -/
def execIcLock (w : FmtA (Fin 16) (Fin 32) USrc Unit Unit) (s : State) : Host.Outcome State Fault Refusal :=
  onPath s (fun x =>
    let y := x.sample (USrc.isClk w.b)
    let a := x.g.spair (2 * w.a.val)
    let b := y.uni w.b
    let r := icLines a b
    let c := x.s.core x.g.core
    let others := (c.code.filter (fun l => !l.locks.isEmpty && !(l.ctx == x.e.ctx && icCovers r l.line))).length
    if !x.guardOn w.g then (x.retire w.q .none).commit
    else if x.p.locking < lockPages a b then
      match y.check 1 .fetch true false (fun _ => false) [(0, lockPage a x.p.locking)] with
      | .stop s => s
      | .ok z _ => { z with p := { z.p with locking := z.p.locking + 1 } }.commit
    else if 64 < others + r.2 then (({ y with g := y.g.setQ w.d.val false }).retire w.q .none).commit
    else
      let lines := (List.range r.2).map (fun k => r.1 + k)
      let absent := lines.filter (fun l => (c.codeLine x.e.ctx l).isNone)
      if absent.isEmpty then
        let s := y.s.setCode x.g.core (c.code.map (fun l =>
          if l.ctx == x.e.ctx && icCovers r l.line && !l.locks.contains x.gid then
            { l with locks := l.locks ++ [x.gid] }
          else l))
        (({ y with s := s, g := y.g.setQ w.d.val true }).retire w.q .none).commit
      else
        match y.check 1 .fetch true false (fun _ => false)
          (absent.map (fun l => (0, if l * 256 < a.toNat then a else BitVec.ofNat 64 (l * 256)))) with
        | .stop s => s
        | .ok z as =>
          (absent.zip as).foldl (fun s e =>
            let back (pa : Nat) : Nat := pa - e.2.2.1.toNat % 256
            { z with s := s }.startFill e.1 (match e.2.2.2.1 with
              | .dev pa => .dev (back pa)
              | .host pa => .host (back pa)
              | .peer p pa => .peer p (back pa)
              | t => t)) z.s)
/-- IC.UNLK. -/
def execIcUnlk (w : FmtA Unit (Fin 32) USrc Unit Unit) (s : State) : Host.Outcome State Fault Refusal :=
  onPath s (fun x =>
    let y := x.sample (USrc.isClk w.b)
    let r := icLines (x.g.spair (2 * w.a.val)) (y.uni w.b)
    if !x.guardOn w.g then (x.retire w.q .none).commit
    else
      let c := x.s.core x.g.core
      let s := x.s.setCode x.g.core (c.code.map (fun l =>
        if l.ctx == x.e.ctx && icCovers r l.line then { l with locks := l.locks.filter (· ≠ x.gid) } else l))
      ({ y with s := s }.retire w.q .none).commit)
/-- The lines of a context on a core that a condition names leave its buffer and fallback slots, with their locks and
fills. -/
def State.dropCode (s : State) (core ctx : Nat) (p : Nat → Bool) : State :=
  let s := s.setCode core ((s.core core).code.filter (fun l => !(l.ctx == ctx && p l.line)))
  { s with
    fills := s.fills.filter (fun e => !(e.2.core == core && e.2.ctx == ctx && p e.2.line))
    groups := s.groups.map (fun (e : Nat × Group) =>
      let mine : Bool := e.2.core == core && match SMap.find? s.teams e.2.team with
        | none => false
        | some t => match SMap.find? s.entries t.entry with
          | none => false
          | some n => n.ctx == ctx
      match e.2.fallback with
      | none => e
      | some f => if mine then (e.1, { e.2 with fallback := some { f with lines := f.lines.filter (fun l => !p l.line) } }) else e) }
/-- IC.INV: the lines leave the issuing core's buffer; the chain being executed goes on. -/
def execIcInv (w : FmtA Unit (Fin 32) USrc Unit Unit) (s : State) : Host.Outcome State Fault Refusal :=
  onPath s (fun x =>
    let y := x.sample (USrc.isClk w.b)
    let r := icLines (x.g.spair (2 * w.a.val)) (y.uni w.b)
    if !x.guardOn w.g then (x.retire w.q .none).commit
    else (y.retire w.q .none).commit.dropCode x.g.core x.e.ctx (icCovers r))
/-- The locks of a group are dropped (R195). -/
def State.dropLocks (s : State) (grp : Nat) : State :=
  match SMap.find? s.groups grp with
  | none => s
  | some g => s.setCode g.core ((s.core g.core).code.map (fun l => { l with locks := l.locks.filter (· ≠ grp) }))

end Sys2Proof.Machine
end

