-- ==== Sys2Proof/Machine/Translate.lean ====
section
/-! DEFINITION. Answers to translations and invalidations (01 R25 to R31; 24 R367). -/
namespace Sys2Proof.Machine
open Sys2Proof

/-! ## The answer of a walk (R25, R27) -/

/-- The core number under which the device translates what it reads for its queues. -/
def queueUnit : Nat := 16384
/-- The address that a piece's read uses, and the one that its write uses. -/
def Source.va : Source → Option DWord
  | .given => none
  | .mem a => some a
  | .peer _ a => some a
/-- The address that a piece's write translates. -/
def Sink.va : Sink → Option DWord
  | .mem a => some a
  | .peer _ a => some a
  | .red _ a _ => some a
  | .count _ a => some a
  | _ => none
/-- A page of an operation is refused: every piece that waits for it ends with ADDRESS. -/
def State.opRefused (s : State) (id page detail : Nat) : State :=
  match SMap.find? s.ops id with
  | none => s
  | some o => (o.pieces.zipIdx).foldl (fun s p =>
      let va := if !p.1.asked then p.1.src.va else if !p.1.put && p.1.data.isSome then p.1.dst.va else none
      match va with
      | some a => if a.toNat / 4096 = page then s.opAddress id p.2 o a detail else s
      | none => s) s
/-- The waiting misses of a page of a context, for one die: they wait on one walk. -/
def State.waiters (s : State) (w : Walk) : SMap Walk :=
  s.walks.filter (fun e => e.2.core / 64 == w.core / 64 && e.2.ctx == w.ctx && e.2.page == w.page && e.2.kind == w.kind)
/-- Those misses are answered. -/
def State.dropWalks (s : State) (ws : SMap Walk) : State :=
  { s with walks := s.walks.filter (fun e => !ws.any (fun w => w.1 == e.1)) }
/-- Started operations of a die go on. -/
def State.pumpDie (s : State) (die : Nat) : State :=
  (s.ops.filter (fun e => e.2.started && !e.2.kind.onM && e.2.core / 64 == die)).foldl (fun s e => s.pump e.1) s
/-- The place of an entry of a translation that no table of the device gave: beyond every address. -/
def noPte : Nat := 2 ^ 64
/-- A translation that grants nothing, for the queues' own reads. -/
def Leaf.none_ : Leaf := ⟨3, 0, 0, 12, false, false, false, false, false, noPte⟩
/-- A page is refused to everything that waits for it. -/
def State.refuse (s : State) (ws : SMap Walk) (detail : Nat) : State :=
  ws.foldl (fun s e =>
    if e.2.core = queueUnit then s.tlbFillBoth queueUnit e.2.ctx (e.2.page * 4096) Leaf.none_
    else match SMap.find? s.paths e.2.arm with
      | some p => s.setPath e.2.arm { p with refused := p.refused ++ [(e.2.page, detail)] }
      | none => s.opRefused e.2.arm e.2.page detail) (s.dropWalks ws)
/-- A translation reaches the TLBs of everything that waits for it. -/
def State.grant (s : State) (ws : SMap Walk) (base : Nat) (leaf : Leaf) (die : Nat) : State :=
  (ws.foldl (fun s e => s.tlbFillBoth e.2.core e.2.ctx base leaf) (s.dropWalks ws)).pumpDie die
/-- PAGE_WALK_COMPLETE. A walk that reads an entry in a derived tile which is not VALID is held there, and starts the recompute
of a STALE one (02 R49). -/
def execPageWalkComplete (id : Nat) (s : State) : Host.Outcome State Fault Refusal :=
  .next (match SMap.find? s.walks id with
  | none => s
  | some w =>
    if w.kind ≠ 0 then s
    else match s.walkWaits w.ctx (w.page * 4096) with
    | some pte => s.startWalk pte w.ctx
    | none => match s.walkTables w.ctx (w.page * 4096) with
      | .refused d => s.refuse (s.waiters w) d
      | .found leaf base pte => (s.setAccessed pte).grant (s.waiters w) base leaf (w.core / 64))

/-! ## ATS and PRI (R29, R30) -/

/-- Walks of a kind of a page of a context. -/
def State.walksAt (s : State) (ctx va kind : Nat) : SMap Walk :=
  s.walks.filter (fun e => e.2.ctx == ctx && e.2.page == va / 4096 && e.2.kind == kind)
/-- The kind of some walks changed. -/
def State.rekind (s : State) (ws : SMap Walk) (kind : Nat) : State :=
  { s with walks := s.walks.map (fun (e : Nat × Walk) =>
      if ws.any (fun w => w.1 == e.1) then (e.1, { e.2 with kind := kind }) else e) }
/-- Distinct pages of a function with a page request outstanding. -/
def State.pagesAsked (s : State) (fn : Nat) : Nat :=
  (distinct ((s.walks.filter (fun e => e.2.kind == 2 && (s.context e.2.ctx).fn == fn)).map
    (fun e => e.2.ctx * 2 ^ 52 + e.2.page))).length
/-- A page request leaves when the function's allocation has room; else the miss stalls (kind 3). -/
def State.requestPage (s : State) (ctx va : Nat) (ws : SMap Walk) : State :=
  let fn := (s.context ctx).fn
  if !(s.walksAt ctx va 2).isEmpty ∨ s.pagesAsked fn < (s.fn fn).priAlloc then s.rekind ws 2 else s.rekind ws 3
/-- ATS_TRANSLATION_COMPLETION: the grant fills the TLBs; an address inside the device's own BARs is ADDRESS with DETAIL 4;
no access is a page request of a PRI-enabled context, else the same fault. -/
def execAtsTranslationCompletion (ctx va : Nat) (a : Option AtsGrant) (s : State) : Host.Outcome State Fault Refusal :=
  let ws := s.walksAt ctx va 1
  .next (if ws.isEmpty then s
    else match a with
      | some g =>
        if Config.inOwnBars (g.frame * 4096) then s.refuse ws 4
        else (List.range 5).foldl (fun s die => s.pumpDie die) (ws.foldl (fun s e =>
          s.tlbFillBoth e.2.core ctx (va / 4096 * 4096) ⟨2, 0, g.frame * 4096, 12, false, false, false, g.w, g.x, noPte⟩)
          (s.dropWalks ws))
      | none => if (s.context ctx).pri then s.requestPage ctx va ws else s.refuse ws 4)
/-- What a miss is for still waits: a word, an operation or a queue. Page requests of work that was discarded stay
outstanding until they are answered (R30). -/
def State.missLives (s : State) (w : Walk) : Bool :=
  w.core == queueUnit || (SMap.find? s.paths w.arm).isSome || (SMap.find? s.ops w.arm).isSome
/-- PAGE_REQUEST_RESPONSE: Success retries the access, the other answers raise ADDRESS with DETAIL 3; a stalled miss
of the function then sends its request. -/
def execPageRequestResponse (ctx va : Nat) (r : PriResponse) (s : State) : Host.Outcome State Fault Refusal :=
  let ws := s.walksAt ctx va 2
  .next (if ws.isEmpty then s
    else
      let s := match r with
        | .success => (s.dropWalks (ws.filter (fun e => !s.missLives e.2))).rekind ws 1
        | _ => s.refuse ws 3
      match s.walks.find? (fun e => e.2.kind == 3 && (s.context e.2.ctx).fn == (s.context ctx).fn) with
      | some (_, w) => s.requestPage w.ctx (w.page * 4096) (s.walksAt w.ctx (w.page * 4096) 3)
      | none => s)

/-! ## Invalidations (R28, R31, R367) -/

/-- Translations of some contexts in a range removed; what waits for the accesses that used them is listed. -/
def State.invalidate (s : State) (kind : Nat) (mine : Nat → Bool) (lo hi : Nat) : State :=
  let gone := s.tlb.filter (fun e => mine e.ctx && decide (e.base < hi) && decide (lo < e.base + 2 ^ e.leaf.log))
  let ids := s.flying (fun r => mine r.ctx && (decide (lo ≤ r.va.toNat) && decide (r.va.toNat < hi) ||
    gone.any (fun e => e.ctx == r.ctx && decide (e.base ≤ r.va.toNat) && decide (r.va.toNat < e.base + 2 ^ e.leaf.log))))
  { s with
    tlb := s.tlb.filter (fun e => !gone.contains e)
    invals := s.invals ++ [⟨kind, ids⟩] }
/-- BUSY of INVCMD. -/
def State.invBusy (s : State) : Bool := s.invcmd.getLsbD 63
/-- A write to INVCMD with BUSY clear. -/
def State.startInval (s : State) (kind ctx pages lo hi : Nat) : State :=
  if s.invBusy ∨ !s.up then s
  else { (s.invalidate 0 (· == ctx) lo hi) with
    invcmd := BitVec.ofNat 64 (2 ^ 63 + kind * 2 ^ 58 + ctx % 2048 * 2 ^ 47 + pages % 2 ^ 47) }
/-- INVALIDATE_CONTEXT. -/
def execInvalidateContext (ctx : Nat) (s : State) : Host.Outcome State Fault Refusal :=
  .next (s.startInval 0 ctx 0 0 (2 ^ 57))
/-- INVALIDATE_PAGE: the page at INVADDR. -/
def execInvalidatePage (ctx : Nat) (s : State) : Host.Outcome State Fault Refusal :=
  let a := s.invaddr.toNat / 4096 * 4096
  .next (s.startInval 1 ctx 0 a (a + 4096))
/-- INVALIDATE_RANGE: pages from INVADDR. -/
def execInvalidateRange (ctx pages : Nat) (s : State) : Host.Outcome State Fault Refusal :=
  let a := s.invaddr.toNat / 4096 * 4096
  .next (s.startInval 2 ctx pages a (a + 4096 * (pages % 2 ^ 47)))
/-- INVALIDATION_COMPLETE: the accesses that used what was removed have taken effect, and BUSY clears. -/
def execInvalidationComplete (s : State) : Host.Outcome State Fault Refusal :=
  let ended := s.invals.filter (fun i => s.allDone i.ids)
  .next (if ended.isEmpty then s
    else { s with
      invals := s.invals.filter (fun i => !s.allDone i.ids)
      invcmd := if ended.any (fun i => i.kind == 0) then s.invcmd &&& 0x7FFFFFFFFFFFFFFF#64 else s.invcmd })
/-- ATS_INVALIDATION_REQUEST: the host takes back translations of a PASID. -/
def execAtsInvalidationRequest (pasid va pages : Nat) (s : State) : Host.Outcome State Fault Refusal :=
  let a := va / 4096 * 4096
  .next (if !s.up then s else s.invalidate 1 (fun c => (s.context c).svm && (s.context c).pasid.toNat == pasid) a
    (min (2 ^ 56) (a + 4096 * pages)))

end Sys2Proof.Machine
end

