-- ==== Sys2Proof/Machine/Launch.lean ====
section
/-! DEFINITION. From a queue's ring to a placed team, and from its groups to the completion stamp: entries, admission,
placement, retirement, completion (03 R64 to R66; 22 R332 to R342). -/
namespace Sys2Proof.Machine
open Sys2Proof

/-! ## Entries (R332, R333) -/

/-- The fields of 128 bytes. -/
def entryOf (m : Nat) : EntryRec :=
  { ty := recField m 848 4, prio := recField m 846 2, coop := recField m 845 1 == 1, twin := recField m 844 1 == 1
    gw := recField m 841 3, regs := recField m 832 9, image := BitVec.ofNat 32 (recField m 800 32)
    wdog := recField m 768 32, spad := recField m 736 32, acc := recField m 720 8
    tdx := recField m 672 16, tdy := recField m 688 16, tdz := recField m 704 16
    gx := recField m 576 32, gy := recField m 608 32, gz := recField m 640 32
    w1val := BitVec.ofNat 64 (recField m 512 64), w1addr := BitVec.ofNat 64 (recField m 448 64)
    w0val := BitVec.ofNat 64 (recField m 384 64), w0addr := BitVec.ofNat 64 (recField m 320 64)
    csval := BitVec.ofNat 64 (recField m 256 64), csaddr := BitVec.ofNat 64 (recField m 192 64)
    argp := BitVec.ofNat 64 (recField m 128 64), trappc := BitVec.ofNat 64 (recField m 64 64)
    pc := BitVec.ofNat 64 (recField m 0 64) }
/-- Teams of a launch. -/
def EntryRec.total (b : EntryRec) : Nat := b.gx * b.gy * b.gz
/-- Lanes on each core (R65). -/
def EntryRec.coreLanes (b : EntryRec) : Nat := if b.twin then ceilDiv b.lanes 2 else b.lanes
/-- Register granules for each lane-set (R65). -/
def EntryRec.regg (b : EntryRec) : Nat := ceilDiv (ceilDiv b.regs 8 * 8) 128
/-- Lane-sets on each core (R65). -/
def EntryRec.lsets (b : EntryRec) : Nat := ceilDiv b.coreLanes 32
/-- The partition word of a launch (R64): ACCT, SPADG, REGG, LSETS and TWIN. -/
def EntryRec.partWord (b : EntryRec) : DWord :=
  BitVec.ofNat 64 (b.acc % 256 * 2 ^ 40 + b.spadg % 256 * 2 ^ 32 + b.regg % 4 * 2 ^ 24 + b.lsets % 64 * 2 ^ 12 +
    (if b.twin then 1 else 0))
/-- Granules of each kind on each core: registers, scratchpad, accumulator (R65). -/
def EntryRec.kinds (b : EntryRec) : Nat × Nat × Nat := (b.lsets * b.regg, b.spadg, b.acc)
/-- Granules on each core (R65). -/
def EntryRec.need (b : EntryRec) : Nat := b.lsets * b.regg + b.spadg + b.acc
/-- Groups on each core. -/
def EntryRec.coreGroups (b : EntryRec) : Nat := if b.twin then b.groups / 2 else b.groups
/-- The checks of R333 that need no translation. -/
def entryOk (m : Nat) : Bool :=
  let b := entryOf m
  recField m 852 172 == 0 && recField m 728 8 == 0 && decide (b.ty ≤ 3) &&
  (if b.ty = 0 then
    decide (b.gw ≤ 3) && decide (1 ≤ b.regs) && decide (b.regs ≤ 256) && decide (b.acc ≤ 192) &&
    decide (b.spad ≤ 3145728) && decide (1 ≤ b.total) && decide (b.total ≤ 2 ^ 32) && decide (1 ≤ b.lanes) &&
    b.lanes % b.width == 0 && decide (b.lanes ≤ (if b.twin then 2048 else 1024)) &&
    !(b.twin && b.groups % 2 == 1) && b.pc.toNat % 8 == 0 && b.trappc.toNat % 8 == 0
  else recField m 576 272 == 0 && recField m 0 192 == 0) &&
  b.csaddr.toNat % 8 == 0 && b.w0addr.toNat % 8 == 0 && b.w1addr.toNat % 8 == 0

/-- A translation that the device makes for its queues: a fresh walk, or an ATS request in shared-virtual mode. -/
inductive QTrans where
  | at_ (t : Target) (leaf : Leaf) (pte : Option Nat)
  | refused
  | wait (va : Nat)
  /-- Its walk is held at an entry in a derived tile that is not VALID (02 R49). -/
  | held (pte : Nat)
  deriving DecidableEq, Repr
/-- The translation of an address of a context. -/
def State.queueTrans (s : State) (ctx va : Nat) (k : AccessKind) : QTrans :=
  let use (leaf : Leaf) (pte : Option Nat) : QTrans := match s.useLeaf leaf va k with
    | .hit t _ => .at_ t leaf pte
    | _ => .refused
  if spadOwn ≤ va then .refused
  else if s.isShared ctx va then match s.tlbFind queueUnit ctx va with
    | some leaf => if leaf.tgt = 3 then .refused else use leaf none
    | none => .wait va
  else match s.walkWaits ctx va with
    | some pte => .held pte
    | none => match s.walkTables ctx va with
      | .found leaf _ pte => use leaf (some pte)
      | .refused _ => .refused
/-- A target in near memory, far memory or the window of this module. -/
def isLocal : Target → Bool
  | .dev _ => true
  | _ => false
/-- The address of a target in device memory. -/
def Target.pa : Target → Nat
  | .dev pa => pa
  | _ => 0
/-- The address of a translation to device memory. -/
def QTrans.pa : QTrans → Nat
  | .at_ (.dev pa) _ _ => pa
  | _ => 0
/-- The translations of an entry: each with whether it is good. -/
def State.entryTrans (s : State) (ctx : Nat) (b : EntryRec) : List (QTrans × Bool) :=
  let one (va : DWord) (k : AccessKind) (near : Bool) : List (QTrans × Bool) :=
    let t := s.queueTrans ctx va.toNat k
    [(t, match t with | .at_ u _ _ => !near || isLocal u | _ => false)]
  let opt (va : DWord) (k : AccessKind) (near : Bool) : List (QTrans × Bool) := if va = 0 then [] else one va k near
  (if b.ty = 0 then one b.pc .fetch false ++ opt b.trappc .fetch false else []) ++
    opt b.csaddr .write true ++ opt b.w0addr .read true ++ opt b.w1addr .read true

/-! ## The pool (R62, R66) -/

/-- Granules of a pool, and the words of one. -/
def poolGranules : Nat := 192
/-- Words of a granule. -/
def granuleWords : Nat := 4096
/-- The bank and row of a pool word. -/
def poolPlace (w : Nat) : Nat × Nat := (w % 48, w / 48)
/-- The pool word of a byte of a scratchpad half. -/
def Runs.spadWord (r : Runs) (off : Nat) : Nat := granuleWords * r.spad + off / 4
/-- The granule of the pool that holds an accumulator row. -/
def Runs.rowGranule (r : Runs) (row : Nat) : Nat := r.acc + row / 64
/-- A run of n granules is free beside runs that are taken, each a first granule and a length. -/
def runFree (used : List (Nat × Nat)) (start n : Nat) : Bool :=
  decide (start + n ≤ poolGranules) &&
    used.all (fun u => u.2 == 0 || decide (u.1 + u.2 ≤ start) || decide (start + n ≤ u.1))
/-- Where a run of n granules may begin; a run of none stands at 0. -/
def runStarts (used : List (Nat × Nat)) (n : Nat) : List Nat :=
  if n = 0 then [0] else (List.range poolGranules).filter (fun a => runFree used a n)
/-- Runs of the given lengths have room, one after another. -/
def runsFit (used : List (Nat × Nat)) : List Nat → Bool
  | [] => true
  | n :: ns => (runStarts used n).any (fun a => runsFit (used ++ [(a, n)]) ns)
/-- Where a run may begin so that the later ones have room too. -/
def runChoices (used : List (Nat × Nat)) (n : Nat) (later : List Nat) : List Nat :=
  (runStarts used n).filter (fun a => runsFit (used ++ [(a, n)]) later)
/-- The runs of a team's share on one core. -/
def Runs.taken (r : Runs) (b : EntryRec) : List (Nat × Nat) := [(r.regs, b.kinds.1), (r.spad, b.kinds.2.1), (r.acc, b.kinds.2.2)]

/-! ## What fits on a core (R65, R66, R340) -/

/-- What teams hold on a core: runs of granules, lanes, lanes of each issue slot. -/
structure CoreUse where
  runs : List (Nat × Nat)
  lanes : Nat
  slots : List Nat
  deriving DecidableEq, Repr
/-- An empty core. -/
def CoreUse.empty : CoreUse := ⟨[], 0, [0, 0, 0, 0]⟩
/-- The issue slot with the fewest resident lanes, the lowest on a tie. -/
def leastSlot (slots : List Nat) : Nat :=
  (List.range 4).foldl (fun b i => if slots.getD i 0 < slots.getD b 0 then i else b) 0
/-- The issue slot of each of n groups, with the slots' lanes after them: 32/W groups to a lane-set. -/
def layGroups : Nat → Nat → Nat → List Nat → Option (List Nat × List Nat)
  | 0, _, _, slots => some ([], slots)
  | k + 1, n, w, slots =>
    if n = 0 then some ([], slots)
    else
      let m := min n (max 1 (32 / w))
      let i := leastSlot slots
      if 256 < slots.getD i 0 + m * w then none
      else (layGroups k (n - m) w (slots.set i (slots.getD i 0 + m * w))).map (fun r => (List.replicate m i ++ r.1, r.2))
/-- Granules that teams hold on a core. -/
def CoreUse.gran (u : CoreUse) : Nat := (u.runs.map (·.2)).sum
/-- A team's share fits: enough granules, one run of each kind, lanes, and issue slots: the slots of its groups, and the slots
after it. -/
def CoreUse.fit (u : CoreUse) (b : EntryRec) : Option (List Nat × List Nat) :=
  if poolGranules < u.gran + b.need ∨ 1024 < u.lanes + b.coreLanes ∨
      !runsFit u.runs [b.kinds.1, b.kinds.2.1, b.kinds.2.2] then none
  else layGroups b.coreGroups b.coreGroups b.width u.slots
/-- What resident teams hold on a core. -/
def State.coreUse (s : State) (c : Nat) : CoreUse :=
  let u := s.teams.foldl (fun (u : CoreUse) e => match SMap.find? s.entries e.2.entry with
    | none => u
    | some n =>
      let add (r : Runs) : CoreUse := { u with runs := u.runs ++ r.taken n.body, lanes := u.lanes + n.body.coreLanes }
      if e.2.place ≠ .resident then u
      else if e.2.core = c then add e.2.runs0
      else if n.body.twin ∧ e.2.core + 1 = c then add e.2.runs1
      else u) CoreUse.empty
  s.groups.foldl (fun (u : CoreUse) e =>
    if e.2.core ≠ c then u
    else match SMap.find? s.teams e.2.team with
      | none => u
      | some t => match SMap.find? s.entries t.entry with
        | none => u
        | some n =>
          if t.place = .resident then
            { u with slots := u.slots.set e.2.slot (u.slots.getD e.2.slot 0 + n.body.width) }
          else u) u
/-- How many teams fit on an empty core at once, packed one after another: 32 have their home there. -/
def teamsPerCore (b : EntryRec) : Nat → CoreUse → Nat
  | 0, _ => 0
  | k + 1, u => match u.fit b with
    | none => 0
    | some (_, slots) => 1 + teamsPerCore b k ⟨u.runs ++ [(u.gran, b.need)], u.lanes + b.coreLanes, slots⟩
/-- The cores of a function's partition. -/
def State.coresOf (s : State) (fn : Nat) : List Nat := (List.range 256).filter (fun c => (s.fn fn).part.getLsbD (c / 2))
/-- TOO-LARGE (R65, R333). -/
def State.tooLarge (s : State) (fn : Nat) (b : EntryRec) : Bool :=
  decide (192 < b.need) || decide (1024 < b.coreLanes) ||
    (b.coop && decide (teamsPerCore b 32 CoreUse.empty *
      ((s.coresOf fn).length / (if b.twin then 2 else 1)) < b.total))

/-! ## ENTRY_FETCH (R333, R334) -/

/-- The entries of a queue that have not ended. -/
def State.entriesOf (s : State) (fn q : Nat) : SMap Entry := s.entries.filter (fun e => e.2.fn == fn && e.2.q == q)
/-- An entry fails at its check: the queue stops with its status. -/
def State.stopQueue (s : State) (fn q status : Nat) : State :=
  let x := s.queue fn q
  s.setQueue fn q { x with state := if x.state = 0 then 1 else x.state, status := status, got := none, half := none }
/-- What the queue's own translations held is dropped: each entry is translated anew. -/
def State.dropQueueTlb (s : State) : State :=
  { s with tlb := s.tlb.filter (fun e => e.unit != queueUnit && e.unit != dieTlb queueUnit) }
/-- A translation that an entry waits for is asked for: a request for the page, or the recompute that holds the walk. -/
def State.askQueue (s : State) (ctx : Nat) (t : QTrans) : State :=
  match t with
  | .wait va =>
    if s.walks.any (fun w => w.2.core == queueUnit && w.2.ctx == ctx && w.2.page == va / 4096) then s
    else s.queueWalk queueUnit ctx va 0 1
  | .held pte => s.startWalk pte ctx
  | _ => s
/-- A translation that is on its way. -/
def QTrans.onWay : QTrans → Bool
  | .wait _ => true
  | .held _ => true
  | _ => false
/-- The entry at the head of a queue has been read and checked. LAUNCHNO is the entry's place in the ring as QHEAD counts it,
entries of every type counted (06 R115 does not say what it numbers; DESIGN CHOICE, log 69). -/
def State.takeEntry (s : State) (fn q m : Nat) : State :=
  let x := s.queue fn q
  let b := entryOf m
  let ts := s.entryTrans x.ctx b
  match if entryOk m then ts.find? (fun t => t.1.onWay) else none with
  | some t => (s.askQueue x.ctx t.1).setQueue fn q { x with got := some m, half := none }
  | none =>
    let s := (ts.foldl (fun s t => match t.1 with
      | .at_ _ _ (some pte) => s.setAccessed pte
      | _ => s) s).dropQueueTlb.setQueue fn q { x with head := x.head + 1, got := none, half := none }
    if !entryOk m || ts.any (fun t => !t.2) then s.stopQueue fn q 2
    else if b.ty = 0 ∧ s.tooLarge fn b then s.stopQueue fn q 1
    else
      let pa (va : DWord) (k : AccessKind) : Nat := if va = 0 then 0 else (s.queueTrans x.ctx va.toNat k).pa
      let e : Entry :=
        { fn := fn, q := q, seq := x.head, ctx := x.ctx, body := b, phase := .waiting, order := 0
          csPa := pa b.csaddr .write, w0Pa := pa b.w0addr .read, w1Pa := pa b.w1addr .read
          w0ok := b.w0addr == 0, w1ok := b.w1addr == 0
          placed := 0, retired := 0, wdLeft := b.wdog, wdPhase := 0, wdOn := false, keyCtr := []
          faults := [], fault := none, faultAt := 0, nfault := 0, pendSince := 0 }
      { s.setEntry s.nextId e with nextId := s.nextId + 1 }
/-- A queue reads its next entry: it runs, entries are visible, and every entry read before has started. -/
def State.mayFetch (s : State) (fn q : Nat) : Bool :=
  let x := s.queue fn q
  x.enable && x.state == 0 && decide (x.head < x.tail) && (s.fn fn).reset == 0 &&
    (s.entriesOf fn q).all (fun e => e.2.phase == .started)
/-- One 64-byte half of the entry at the head of a queue has been read (01 R13). -/
def State.gotHalf (s : State) (fn q m : Nat) : State :=
  let x := s.queue fn q
  match x.half with
  | none => s.setQueue fn q { x with half := some m }
  | some lo => s.takeEntry fn q (lo + 2 ^ 512 * m)
/-- ENTRY_FETCH: the ring slot is read once, in two steps of 64 bytes, the lower half first (01 R13), and kept while a
translation that the check needs is on its way; a read of a derived tile that is not VALID is held and starts its recompute
(02 R49); a slot that does not translate to readable memory, or carries poison, fails with RECORD-INVALID. -/
def execEntryFetch (fn q : Nat) (s : State) : Host.Outcome State Fault Refusal :=
  let x := s.queue fn q
  let a := (x.base + BitVec.ofNat 64 (128 * (x.head % 2 ^ x.log2n) + if x.half.isSome then 64 else 0)).toNat
  let bad (s : State) : State := (s.dropQueueTlb.setQueue fn q { x with head := x.head + 1 }).stopQueue fn q 2
  .next (if !s.mayFetch fn q then s
  else match x.got with
    | some m => s.takeEntry fn q m
    | none => match s.queueTrans x.ctx a .read with
      | .refused => bad s
      | .at_ t _ pte =>
        let held := match t with
          | .dev pa => !(s.notValid pa 64).isEmpty
          | _ => false
        if held then s.startStale t.pa 64 fn
        else
          let s := match pte with
            | some p => s.setAccessed p
            | none => s
          match t with
          | .peer _ _ => bad s
          | t =>
            let (bs, ps) := s.readAt t 64
            if ps.any (fun b => b) then bad s else s.gotHalf fn q (leNat bs)
      | t => s.askQueue x.ctx t)

/-! ## Starting (R335 to R337) -/

/-- STAMP_WAIT_HOLDS: an 8-byte read with an acquire at sys scope returns at least the wait's value. A read of a derived
tile that is not VALID is held, and starts its recompute. -/
def execStampWaitHolds (id : Nat) (second : Bool) (s : State) : Host.Outcome State Fault Refusal :=
  .next (match SMap.find? s.entries id with
  | none => s
  | some e =>
    let pa := if second then e.w1Pa else e.w0Pa
    let v := if second then e.body.w1val else e.body.w0val
    if e.phase ≠ .waiting then s
    else if !(s.notValid pa 8).isEmpty then s.startStale pa 8 e.fn
    else if v.toNat ≤ leNat (s.devRead pa 8).1 then
      s.setEntry id (if second then { e with w1ok := true } else { e with w0ok := true })
    else s)
/-- An entry may start: the queue runs, every earlier entry has started, earlier BARRIER and FLUSH entries have
completed, and its waits hold. -/
def State.mayStartEntry (s : State) (id : Nat) (e : Entry) : Bool :=
  e.phase == .waiting && (s.queue e.fn e.q).state == 0 && (s.fn e.fn).reset == 0 && e.w0ok && e.w1ok &&
    (s.entriesOf e.fn e.q).all (fun x => decide (id ≤ x.1) || (x.2.phase == .started && x.2.body.ty == 0))
/-- LAUNCH: the teams become pending. -/
def execLaunch (id : Nat) (s : State) : Host.Outcome State Fault Refusal :=
  .next (match SMap.find? s.entries id with
  | none => s
  | some e =>
    if e.body.ty = 0 ∧ s.mayStartEntry id e then
      { s.setEntry id { e with phase := .started, order := s.nextId, pendSince := s.cycle } with nextId := s.nextId + 1 }
    else s)
/-- An entry's stamp: an 8-byte write of CSVAL at CSADDR. -/
def State.stampEntry (s : State) (e : Entry) : State :=
  if e.body.csaddr = 0 then s
  else
    let (s, refused) := s.guardedStore e.csPa (leBytes 8 e.body.csval.toNat) (clean 8)
    if refused then s else s.wake (.dev e.csPa) 8
/-- The stamp may be written: no exclusive recompute holds writes there (02 R50). -/
def State.mayStamp (s : State) (e : Entry) : Bool := decide (e.body.csaddr = 0) || !s.writesHeld e.csPa 8
/-- An entry that has ended is no longer listed, nor are its teams, groups and paths. -/
def State.endEntry (s : State) (id : Nat) : State :=
  let ts := (s.teams.filter (fun t => t.2.entry == id)).map (·.1)
  let gs := (s.groups.filter (fun g => ts.contains g.2.team)).map (·.1)
  { s with
    entries := SMap.del s.entries id
    teams := s.teams.filter (fun t => t.2.entry != id)
    groups := s.groups.filter (fun g => !ts.contains g.2.team)
    paths := s.paths.filter (fun p => !gs.contains p.2.grp)
    ops := s.ops.filter (fun o => o.2.entry != id) }
/-- An entry completes with status OK: its stamp is written. -/
def State.completeEntry (s : State) (id : Nat) (e : Entry) : State := (s.stampEntry e).endEntry id
/-- Every earlier entry of the queue has completed. -/
def State.firstInQueue (s : State) (id : Nat) (e : Entry) : Bool := (s.entriesOf e.fn e.q).all (fun x => decide (id ≤ x.1))
/-- A BARRIER or FLUSH entry starts, and completes once the entries before it have and `extra` holds. -/
def State.runWaiter (s : State) (id : Nat) (e : Entry) (extra : Bool) : State :=
  if s.mayStartEntry id e then s.setEntry id { e with phase := .started }
  else if e.phase = .started ∧ e.faults.isEmpty ∧ (s.fn e.fn).reset = 0 ∧ s.firstInQueue id e ∧ s.mayStamp e ∧ extra then
    s.completeEntry id e
  else s
/-- BARRIER: completes after every earlier entry. -/
def execBarrier (id : Nat) (s : State) : Host.Outcome State Fault Refusal :=
  .next (match SMap.find? s.entries id with
  | none => s
  | some e => if e.body.ty = 1 then s.runWaiter id e true else s)
/-- Writes of the queue's earlier entries that have not taken effect: none once they have completed, since a launch
completes with its own flush and a fault drains its work (R342, R351). -/
def State.unflushed (s : State) (e : Entry) : Bool :=
  s.reqs.any (fun r => r.2.value.isNone && r.2.writes && r.2.entry != 0 && (s.entriesOf e.fn e.q).any (fun x => x.1 == r.2.entry))
/-- FLUSH: as BARRIER, once the writes of those entries are visible at sys scope. -/
def execFlush (id : Nat) (s : State) : Host.Outcome State Fault Refusal :=
  .next (match SMap.find? s.entries id with
  | none => s
  | some e => if e.body.ty = 2 then s.runWaiter id e (!s.unflushed e) else s)
/-- STAMP: at once. -/
def execStamp (id : Nat) (s : State) : Host.Outcome State Fault Refusal :=
  .next (match SMap.find? s.entries id with
  | none => s
  | some e => if e.body.ty = 3 ∧ s.mayStartEntry id e ∧ s.mayStamp e then s.completeEntry id e else s)

/-! ## Placement (R337 to R340) -/

/-- Something to place: a saved team, a launch's next team, or every team of a co-operative launch. -/
structure Pending where
  prio : Nat
  saved : Bool
  order : Nat
  /-- Place of the team in the grid. -/
  grid : Nat
  entry : Nat
  /-- The saved teams; none for teams that have never been placed. -/
  teams : List Nat
  count : Nat
  coop : Bool
  since : Nat
  deriving DecidableEq, Repr
/-- The order of R337. -/
def Pending.before (a b : Pending) : Bool :=
  if a.prio ≠ b.prio then decide (b.prio < a.prio)
  else if a.saved ≠ b.saved then a.saved
  else if a.order ≠ b.order then decide (a.order < b.order)
  else decide (a.grid < b.grid)
/-- Put in its place. -/
def Pending.insert (a : Pending) : List Pending → List Pending
  | [] => [a]
  | b :: l => if a.before b then a :: b :: l else b :: Pending.insert a l
/-- A launch whose teams may be placed. -/
def Entry.placeable (e : Entry) : Bool := e.phase == .started && e.body.ty == 0 && e.faults.isEmpty && e.fault.isNone
/-- A team's place in its grid. -/
def Team.grid (t : Team) (b : EntryRec) : Nat := t.x + b.gx * (t.y + b.gy * t.z)
/-- What a function has pending, in the order of R337. A team stopped by SY.BKPT is pending once it is resumed. -/
def State.pendings (s : State) (fn : Nat) : List Pending :=
  let es := s.entries.filter (fun e => e.2.fn == fn && e.2.placeable)
  let fresh := es.filterMap (fun e =>
    if e.2.placed < e.2.body.total then
      some (Pending.mk e.2.body.prio false e.2.order e.2.placed e.1 []
        (if e.2.body.coop then e.2.body.total - e.2.placed else 1) e.2.body.coop e.2.pendSince)
    else none)
  let outs (id : Nat) : SMap Team := s.teams.filter (fun t => t.2.entry == id && t.2.place == .saved)
  let saved := es.flatMap (fun e =>
    let ts := outs e.1
    if e.2.body.coop then
      (if ts.isEmpty ∨ ts.any (fun t => t.2.debug) then []
        else [Pending.mk e.2.body.prio true e.2.order 0 e.1 (ts.map (·.1)) ts.length true
          (ts.foldl (fun m t => min m t.2.pendSince) s.cycle)])
    else (ts.filter (fun t => !t.2.debug)).map (fun t =>
      Pending.mk e.2.body.prio true e.2.order (t.2.grid e.2.body) e.1 [t.1] 1 false t.2.pendSince))
  (fresh ++ saved).foldl (fun l a => a.insert l) []
/-- A free handle slot of a core: the lowest (DESIGN CHOICE, log 18). -/
def Core.freeSlot (c : Core) : Option Nat :=
  (List.range 32).find? (fun k => (SMap.getD c.handles k HandleSlot.free).team.isNone)
/-- The first core from the cursor that takes a team; `home`: it must have a free handle slot. -/
def State.spot (s : State) (fn : Nat) (b : EntryRec) (home : Bool) : Option Nat :=
  let cs := (s.coresOf fn).filter (fun c => !b.twin || c % 2 == 0)
  let cur := (s.fn fn).cursor
  (cs.filter (fun c => decide (cur ≤ c)) ++ cs.filter (fun c => decide (c < cur))).find? (fun c =>
    ((s.coreUse c).fit b).isSome && (!b.twin || ((s.coreUse (c + 1)).fit b).isSome) &&
      (!home || ((s.core c).freeSlot).isSome))
/-- Core and issue slot of each group of a team on a core. -/
def State.groupSlots (s : State) (c : Nat) (b : EntryRec) : List (Nat × Nat) :=
  let lay (c : Nat) : List Nat := match (s.coreUse c).fit b with
    | some (l, _) => l
    | none => []
  if b.twin then
    (List.range b.groups).map (fun k =>
      if k % 2 = 0 then (c, (lay c).getD (k / 2) 0) else (c + 1, (lay (c + 1)).getD (k / 2) 0))
  else (lay c).map (fun i => (c, i))
/-- Where a team's runs begin on a core: any place where each kind has one run free (R66). -/
def State.pickRuns (s : State) (c : Nat) (b : EntryRec) : State × Runs :=
  let used := (s.coreUse c).runs
  let (nr, ns, na) := b.kinds
  let pick (s : State) (l : List Nat) : State × Nat :=
    let (s, i) := s.draw l.length
    (s, l.getD i 0)
  let (s, r) := pick s (runChoices used nr [ns, na])
  let used := used ++ [(r, nr)]
  let (s, p) := pick s (runChoices used ns [na])
  let (s, a) := pick s (runChoices (used ++ [(p, ns)]) na [])
  (s, ⟨r, p, a⟩)
/-- A team's runs on its core, and for a twin pair on the second. -/
def State.pickBoth (s : State) (c : Nat) (b : EntryRec) : State × Runs × Runs :=
  let (s, r0) := s.pickRuns c b
  if b.twin then
    let (s, r1) := s.pickRuns (c + 1) b
    (s, r0, r1)
  else (s, r0, ⟨0, 0, 0⟩)
/-- The load buffers of the cores on which a team is placed are emptied: it sees what happened before its start or its resume
(13 R254, R255; 22 R336; 23 R356). -/
def State.freshCores (s : State) (c : Nat) (b : EntryRec) : State :=
  if b.twin then (s.dropLoads c).dropLoads (c + 1) else s.dropLoads c
/-- The placement cursor moves to the core after the one taken. -/
def State.moveCursor (s : State) (fn c : Nat) : State := s.setFn fn { s.fn fn with cursor := c + 1 }
/-- A group at its start (06 R109). -/
def Group.start (team idx core slot : Nat) (b : EntryRec) : Group :=
  { team := team, idx := idx, core := core, slot := slot, v := [], p := [], s := [], q := 0, k := [], f := [],
    abase := 0, alimit := b.accRows, exited := 0, keys := [], tops := [], monitor := ⟨none, false⟩, clk := 0,
    shtlCount := 0, shtl := [], bad := [], flips := [], due := [], later := [], xf := [], fallback := none, halted := false, retired := false, turn := (0, 0) }
/-- The path of a group at its start: every slice is undivided, and they go together. -/
def Path.start (grp : Nat) (b : EntryRec) : Path :=
  { grp := grp, pc := b.pc, mask := lowLanes b.width, exec := lowLanes b.width, fmt := 0, fstat := 0, frames := [],
    wait := .none, chain := [], pos := 0, latches := [], branch := none, trapCode := 0, trapPc := 0, trapArg := 0,
    bindAddr := 0, inHandler := false, trapQ := false, entry := 0, acquires := [], fresh := false, hold := [], live := 0, safe := none,
    refused := [], tables := [], locking := 0, waited := 0, nextChain := 0 }
/-- A launch's next team is placed on a core: it receives a handle slot, and its groups start. -/
def State.placeNew (s : State) (id : Nat) (e : Entry) (c : Nat) : State :=
  let b := e.body
  let k := e.placed
  let slots := s.groupSlots c b
  let (s, r0, r1) := (s.freshCores c b).pickBoth c b
  let core := s.core c
  let h := core.freeSlot.getD 0
  let gen := ((SMap.getD core.handles h HandleSlot.free).gen + 1) % 65536
  let tid := s.nextId
  let t : Team :=
    { entry := id, x := k % b.gx, y := k / b.gx % b.gy, z := k / (b.gx * b.gy), home := c, slot := h, gen := gen, core := c,
      place := .resident, runs0 := r0, runs1 := r1, placedAt := s.cycle, placedOrd := tid, pendSince := 0,
      side0 := Side.zero, side1 := Side.zero, bars := [], resumes := 0, droop0 := 0, droop1 := 0, save := none, debug := false, halted := false }
  let s := s.setCore c { core with handles := SMap.set core.handles h ⟨gen, some tid⟩ HandleSlot.free }
  let s := { s.setTeam tid t with nextId := tid + 1 }
  let s := slots.zipIdx.foldl (fun s g =>
    let n := s.nextId
    { (s.setGroup n (Group.start tid g.2 g.1.1 g.1.2 b)).setPath (n + 1) (Path.start n b) with nextId := n + 2 }) s
  (s.setEntry id { e with placed := k + 1, wdOn := e.wdOn || (k == 0 && b.wdog != 0) }).moveCursor e.fn c
/-- A saved team is placed again (23 R356): its image is read back, which corrects what its code corrects; its groups go on where
they stopped, MWAIT returns code 2, the launch's key counter on each core stays above the keys restored. -/
def State.placeSaved (s : State) (tid : Nat) (e : Entry) (c : Nat) : State :=
  match SMap.find? s.teams tid with
  | none => s
  | some t =>
    let slots := s.groupSlots c e.body
    let gs := s.groupsOf tid
    let (s, r0, r1) := (s.freshCores c e.body).pickBoth c e.body
    let s := s.setTeam tid { t with
      core := c, place := .resident, runs0 := r0, runs1 := r1, placedAt := s.cycle, placedOrd := s.nextId
      resumes := t.resumes + 1 }
    let s := { s with
      nextId := s.nextId + 1
      errs := s.errs.filter (fun e => match e.1 with
        | .bar u _ => u != tid
        | _ => true) }
    let s := gs.foldl (fun s g =>
      let p := slots.getD g.2.idx (c, 0)
      let top := (List.range 16).foldl (fun m j => max m (g.2.key j)) 0
      let s := s.modGroup g.1 (fun g => { g with core := p.1, slot := p.2, flips := g.flips.filter (fun f => f.1 < 65536) })
      let s := (s.pathsOf g.1).foldl (fun s q => s.endWait g.1 q.1 q.2 2) s
      s.modEntry t.entry (fun e =>
        if SMap.getD e.keyCtr p.1 1 ≤ top then
          { e with keyCtr := SMap.set e.keyCtr p.1 (if top = 65535 then 1 else top + 1) 1 }
        else e)) s
    s.moveCursor e.fn c
/-- Teams of a launch that have never been placed, placed one after another; none where one does not fit. `home`: each needs
a free handle slot. -/
def State.placeFresh (s : State) (home : Bool) (id : Nat) : Nat → Option State
  | 0 => some s
  | n + 1 => match SMap.find? s.entries id with
    | none => none
    | some e => match s.spot e.fn e.body home with
      | none => none
      | some c => State.placeFresh (s.placeNew id e c) home id n
/-- Saved teams of a launch, placed one after another; none where one does not fit. -/
def State.placeBack (s : State) (id : Nat) : List Nat → Option State
  | [] => some s
  | t :: ts => match SMap.find? s.entries id with
    | none => none
    | some e => match s.spot e.fn e.body false with
      | none => none
      | some c => State.placeBack (s.placeSaved t e c) id ts
/-- Something pending placed whole, or not at all. -/
def State.placeOne (s : State) (p : Pending) : Option State :=
  if p.teams.isEmpty then s.placeFresh true p.entry p.count else s.placeBack p.entry p.teams
/-- The first in order that can be placed: a co-operative launch that cannot holds back nothing, any other team does. -/
def State.placeNext (s : State) : List Pending → Option State
  | [] => none
  | p :: ps => match s.placeOne p with
    | some s' => some s'
    | none => if p.coop then s.placeNext ps else none
/-- TEAM_PLACE. -/
def execTeamPlace (fn : Nat) (s : State) : Host.Outcome State Fault Refusal :=
  .next (if (s.fn fn).reset ≠ 0 then s else (s.placeNext (s.pendings fn)).getD s)

/-! ## Retirement and completion (10 R189, R190; 22 R342) -/

/-- The handle slot of a team is free. -/
def State.freeHandleSlot (s : State) (t : Team) : State :=
  let c := s.core t.home
  s.setCore t.home { c with handles := SMap.set c.handles t.slot ⟨t.gen, none⟩ HandleSlot.free }
/-- A group may retire: its last lane has exited and every COUNT is 0. -/
def State.mayRetire (s : State) (grp : Nat) (g : Group) : Bool :=
  !g.retired && (s.pathsOf grp).isEmpty && (List.range 8).all (fun n => (g.tag n).count == 0) &&
    match SMap.find? s.teams g.team with
    | none => false
    | some t => match SMap.find? s.entries t.entry with
      | none => false
      | some e => e.phase == .started && (lowLanes e.body.width &&& ~~~ g.exited) == 0
/-- GROUP_RETIRE: a partner that waits at CL.SHTL receives 0 (11 R224); with its last group the team frees its granules, its lanes and its handle slot; with the last team the
watchdog stops. -/
def execGroupRetire (grp : Nat) (s : State) : Host.Outcome State Fault Refusal :=
  .next (match SMap.find? s.groups grp with
  | none => s
  | some g =>
    if !s.mayRetire grp g then s
    else
      let s := (s.setGroup grp { g with retired := true, monitor := ⟨none, false⟩, fallback := none }).dropLocks grp
      let s := match SMap.find? s.teams g.team with
        | none => s
        | some t => match SMap.find? s.entries t.entry with
          | none => s
          | some e => s.shtlRetired grp e.body.width
      if (s.groupsOf g.team).any (fun e => !e.2.retired) then s
      else match SMap.find? s.teams g.team with
        | none => s
        | some t =>
          ((s.setTeam g.team { t with place := .ended, save := none }).freeHandleSlot t).modEntry t.entry (fun e =>
            { e with retired := e.retired + 1, wdOn := e.wdOn && decide (e.retired + 1 < e.body.total) }))
/-- Work of a launch that has not taken effect: requests and deliveries. -/
def State.unfinished (s : State) (id : Nat) : Bool :=
  s.reqs.any (fun r => r.2.entry == id && r.2.value.isNone) || s.deliveries.any (fun d => d.2.entry == id)
/-- LAUNCH_COMPLETE: the last team has retired and every write of the launch has taken effect; the stamp is written. -/
def execLaunchComplete (id : Nat) (s : State) : Host.Outcome State Fault Refusal :=
  .next (match SMap.find? s.entries id with
  | none => s
  | some e =>
    if e.placeable ∧ e.retired = e.body.total ∧ !s.unfinished id ∧ s.mayStamp e then s.completeEntry id e else s)

end Sys2Proof.Machine
end

