-- ==== Sys2Proof/Machine/Faults.lean ====
section
/-! DEFINITION. The watchdog, fatal faults and their record, pre-emption, and the function-level reset (22 R343 to R346;
23 R350 to R361). -/
namespace Sys2Proof.Machine
open Sys2Proof

/-! ## Recording (R350, R351) -/

/-- The fault that is recorded: the lowest CORENO, then the lowest code. -/
def firstFault : List FaultEv → Option FaultEv
  | [] => none
  | f :: fs => match firstFault fs with
    | none => some f
    | some g => if g.first f then some g else some f
/-- The operations of some launches leave their engines, with what was to follow them; nothing reports. -/
def State.dropOps (s : State) (mine : Op → Bool) : State :=
  let ids := (s.ops.filter (fun o => mine o.2)).map (·.1)
  { s with
    ops := s.ops.filter (fun o => !mine o.2)
    reqs := s.reqs.filter (fun r => !r.2.after.any ids.contains)
    cores := s.cores.map (fun (c : Nat × Core) => (c.1, { c.2 with mxOrder := c.2.mxOrder.filter (fun i => !ids.contains i) })) }
/-- A launch's first fault is recorded: no group of it issues again, its pre-emptions are abandoned, its operations are
discarded (steps 1 and 2). Its watchdog runs on until the record is written. -/
def State.recordFault (s : State) (id : Nat) (e : Entry) : State :=
  match e.fault, firstFault e.faults with
  | none, some f =>
    let s := s.setEntry id { e with
      phase := .draining, fault := some f, faultAt := s.cycle, nfault := min 255 (e.faults.length - 1), faults := [] }
    let s := { s with teams := s.teams.map (fun (t : Nat × Team) =>
      if t.2.entry == id then (t.1, { t.2 with save := none }) else t) }
    s.dropOps (fun o => o.entry == id)
  | _, _ => s
/-- FAULT_RECORDED. -/
def execFaultRecorded (id : Nat) (s : State) : Host.Outcome State Fault Refusal :=
  .next (match SMap.find? s.entries id with
  | none => s
  | some e => if e.phase = .started ∧ (s.fn e.fn).reset = 0 then s.recordFault id e else s)
/-- WATCHDOG (R343): the count reached 0 in an earlier cycle and the last team has not retired. It is recorded, or counted in
NFAULT after another fault (R350). -/
def execWatchdog (id : Nat) (s : State) : Host.Outcome State Fault Refusal :=
  .next (match SMap.find? s.entries id with
  | none => s
  | some e =>
    if e.wdOn ∧ e.wdLeft = 0 ∧ 1 ≤ e.wdPhase ∧ e.phase ≠ .waiting ∧ (s.fn e.fn).reset = 0 then
      let e := { e with wdOn := false }.takeFault s.cycle
        { code := .watchdog, precise := false, addr := 0, pc := 0, lanes := 0, detail := 0, teamh := 0, x := 0, y := 0,
          z := 0, core := 0, grpid := 0, word := (0, 0) }
      (s.setEntry id e).recordFault id e
    else s)

/-- The 64 bytes of a record as a number (R353). -/
def faultRecord (e : Entry) (f : FaultEv) : Nat :=
  f.addr.toNat * 2 ^ 448 + f.pc.toNat * 2 ^ 384 + f.lanes.toNat * 2 ^ 320 + f.detail.toNat * 2 ^ 288 +
    e.body.image.toNat * 2 ^ 256 + f.teamh.toNat * 2 ^ 224 + f.z % 2 ^ 32 * 2 ^ 192 + f.y % 2 ^ 32 * 2 ^ 160 +
    f.x % 2 ^ 32 * 2 ^ 128 + e.seq % 2 ^ 32 * 2 ^ 96 + f.core % 256 * 2 ^ 88 + f.grpid % 256 * 2 ^ 80 +
    e.nfault % 256 * 2 ^ 72 + (if f.lanes = 0 then 0 else lowestLane f.lanes) * 2 ^ 66 +
    (if f.precise then 1 else 0) * 2 ^ 64 + e.q * 2 ^ 48 + e.fn * 2 ^ 40 + f.code.num
/-- Where a function's share of the coherent window begins (24 R362). -/
def shareBase (fn : Nat) : Nat := if fn = 0 then windowBase else windowBase + 0x80000 * (fn - 1)
/-- Packets of some requests are out at a peer. -/
def State.atPeers (s : State) (mine : Req → Bool) : Bool :=
  s.reqs.any (fun r => mine r.2 && r.2.value.isNone && r.2.doneAt == 1 && match r.2.tgt with | .peer _ _ => true | _ => false)
/-- Requests and deliveries that had not reached their owners are discarded. -/
def State.discard (s : State) (req : Req → Bool) (del : Delivery → Bool) : State :=
  { s with
    reqs := s.reqs.filter (fun r => !req r.2)
    deliveries := s.deliveries.filter (fun d => !del d.2) }
/-- The teams of a launch are freed: their handle slots, and what walks and fills their paths wait for. A page request that
has left stays outstanding until it is answered (01 R30). -/
def State.freeTeams (s : State) (id : Nat) : State :=
  let ts := s.teams.filter (fun t => t.2.entry == id)
  let gs := (s.groups.filter (fun g => ts.any (fun t => t.1 == g.2.team))).map (·.1)
  let ps := (s.paths.filter (fun p => gs.contains p.2.grp)).map (·.1)
  let s := ts.foldl (fun s t => if t.2.place = .ended then s else s.freeHandleSlot t.2) s
  let s := gs.foldl (fun s g => s.dropLocks g) s
  { s with
    walks := s.walks.filter (fun w => w.2.kind == 2 || !ps.contains w.2.arm)
    fills := s.fills.filter (fun f => !ps.contains f.2.arm) }
/-- FAULT_DRAIN_DONE: every marker has returned. Work that had not reached its owner is discarded, the teams are freed,
the record is written as one 64-byte step, and the queue reports FAULTED (steps 3 to 6). -/
def execFaultDrainDone (id : Nat) (s : State) : Host.Outcome State Fault Refusal :=
  .next (match SMap.find? s.entries id with
  | none => s
  | some e => match e.fault with
    | none => s
    | some f =>
      let pa := shareBase e.fn + (s.queue e.fn e.q).fault
      if e.phase ≠ .draining ∨ (s.fn e.fn).reset ≠ 0 ∨ s.atPeers (fun r => r.entry == id) ∨ s.writesHeld pa 64 then s
      else
        let s := ((s.discard (fun r => r.entry == id) (fun d => d.entry == id)).freeTeams id).endEntry id
        let s := (s.guardedStore pa (leBytes 64 (faultRecord e f)) (clean 64)).1
        (s.wake (.dev pa) 64).stopQueue e.fn e.q 3)

/-! ## Pre-emption: units and the save area (R344, R355) -/

/-- Bytes of a team's image at most. -/
def EntryRec.imageBytes (b : EntryRec) : Nat :=
  4096 + (if b.twin then 2 else 1) * (b.spadg * 16384 + b.acc * 16896) +
    b.groups * (4 * b.width * (ceilDiv b.regs 8 * 8) + 12 * b.width + 1024)
/-- The teams of the unit that a team belongs to: itself, or every team of its co-operative launch. -/
def State.unit (s : State) (tid : Nat) : List Nat :=
  match SMap.find? s.teams tid with
  | none => []
  | some t => match SMap.find? s.entries t.entry with
    | none => []
    | some e =>
      if e.body.coop then (s.teams.filter (fun u => u.2.entry == t.entry && u.2.place != .ended)).map (·.1) else [tid]
/-- Bytes of the images of some teams. -/
def State.imagesOf (s : State) (ts : List Nat) : Nat :=
  (ts.map (fun i => match SMap.find? s.teams i with
    | none => 0
    | some t => match SMap.find? s.entries t.entry with
      | none => 0
      | some e => e.body.imageBytes)).sum
/-- The teams of a function that are not over. -/
def State.teamsOf (s : State) (fn : Nat) : SMap Team :=
  s.teams.filter (fun t => t.2.place != .ended && match SMap.find? s.entries t.2.entry with
    | none => false
    | some e => e.fn == fn)
/-- The images of some teams fit in the free save area of their function. -/
def State.imagesFit (s : State) (fn : Nat) (ts : List Nat) : Bool :=
  let held := ((s.teamsOf fn).filter (fun t => t.2.place == .saved || t.2.save.isSome)).map (·.1)
  decide (s.imagesOf held + s.imagesOf ts ≤ (s.fn fn).saveSize.toNat)
/-- A unit's save is requested. -/
def State.requestUnit (s : State) (ts : List Nat) : State := ts.foldl (fun s t => s.requestSave t false false) s
/-- Resident teams of a function whose launch goes on and whose save nobody has requested. -/
def State.savable (s : State) (fn : Nat) : SMap Team :=
  (s.teamsOf fn).filter (fun t => t.2.place == .resident && t.2.save.isNone && !t.2.halted &&
    match SMap.find? s.entries t.2.entry with
    | none => false
    | some e => e.placeable)
/-- The priority of a team. -/
def State.prioOf (s : State) (t : Team) : Nat :=
  match SMap.find? s.entries t.entry with
  | none => 0
  | some e => e.body.prio
/-- A request is being served for a function. -/
def State.saving (s : State) (fn : Nat) : Bool := (s.teamsOf fn).any (fun t => t.2.save.isSome && !t.2.debug)
/-- Something pending would fit but for handle slots: it makes no request (R339). -/
def State.lacksSlotOnly (s : State) (p : Pending) : Bool :=
  !p.saved && (s.placeFresh false p.entry p.count).isSome && (s.placeFresh true p.entry p.count).isNone
/-- What cannot be placed, in order: what does not fit, and what a team that does not fit holds back (R337). -/
def State.blocked (s : State) : List Pending → List Pending
  | [] => []
  | p :: ps =>
    if (s.placeOne p).isSome then s.blocked ps
    else p :: (if p.coop then s.blocked ps else ps)
/-- The first of those that meets a condition and makes a request. -/
def State.blockedBy (s : State) (ok : Pending → Bool) (ps : List Pending) : Option Pending :=
  (s.blocked ps).find? (fun p => ok p && !s.lacksSlotOnly p)
/-- The team of a list that is best by a comparison. -/
def bestTeam (better : Team → Team → Bool) : SMap Team → Option (Nat × Team)
  | [] => none
  | t :: ts => match bestTeam better ts with
    | none => some t
    | some u => if better u.2 t.2 then some u else some t
/-- PREEMPT_REQUEST: the most recently placed unit of the lowest priority present, for a pending team of higher
priority; one request at a time. -/
def execPreemptRequest (fn : Nat) (s : State) : Host.Outcome State Fault Refusal :=
  let lower (p : Pending) : SMap Team := (s.savable fn).filter (fun t => decide (s.prioOf t.2 < p.prio))
  .next (if s.saving fn ∨ (s.fn fn).reset ≠ 0 then s
  else match s.blockedBy (fun p => !(lower p).isEmpty) (s.pendings fn) with
    | none => s
    | some p => match bestTeam (fun u t => decide (s.prioOf u < s.prioOf t) ||
          (s.prioOf u == s.prioOf t && decide (t.placedOrd ≤ u.placedOrd))) (lower p) with
      | none => s
      | some (t, _) => if s.imagesFit fn (s.unit t) then s.requestUnit (s.unit t) else s)
/-- TIME_SLICE_EXPIRE: a team has been pending for longer than the slice; the unit of equal priority that has run
longest is requested. -/
def execTimeSliceExpire (fn : Nat) (s : State) : Host.Outcome State Fault Refusal :=
  let slice := (s.fn fn).tslice.toNat * 4096
  let equal (p : Pending) : SMap Team := (s.savable fn).filter (fun t => decide (s.prioOf t.2 = p.prio))
  .next (if s.saving fn ∨ (s.fn fn).reset ≠ 0 ∨ slice = 0 then s
  else match s.blockedBy (fun p => decide (p.since + slice < s.cycle) && !(equal p).isEmpty) (s.pendings fn) with
    | none => s
    | some p => match bestTeam (fun u t => decide (u.placedOrd < t.placedOrd)) (equal p) with
      | none => s
      | some (t, _) => if s.imagesFit fn (s.unit t) then s.requestUnit (s.unit t) else s)
/-- BUSY of PREEMPT: a team of the last command has not been saved. -/
def State.preemptBusy (s : State) : Bool :=
  s.preemptFor.any (fun i => match SMap.find? s.teams i with
    | some t => t.save.isSome
    | none => false)
/-- A PREEMPT command's fields and result (24 R369). -/
def preemptWord (teamh : Word) (fn kind res : Nat) : DWord :=
  BitVec.ofNat 64 (res * 2 ^ 61 + kind * 2 ^ 40 + fn % 32 * 2 ^ 32 + teamh.toNat)
/-- A host command for some teams: it fails when their images do not fit. -/
def State.preemptTeams (s : State) (fn kind : Nat) (teamh : Word) (ts : List Nat) : State :=
  let new := ts.filter (fun i => (s.savable fn).any (fun t => t.1 == i))
  if !s.imagesFit fn new then { s with preempt := preemptWord teamh fn kind 2, preemptFor := [] }
  else { (s.requestUnit new) with preempt := preemptWord teamh fn kind 0, preemptFor := ts }
/-- PREEMPT_TEAM. -/
def execPreemptTeam (fn : Nat) (teamh : Word) (s : State) : Host.Outcome State Fault Refusal :=
  .next (if s.preemptBusy ∨ !s.up then s
  else match (s.teamsOf fn).find? (fun t => t.2.handle == teamh) with
    | none => { s with preempt := preemptWord teamh fn 0 1, preemptFor := [] }
    | some (i, _) => s.preemptTeams fn 0 teamh (s.unit i))
/-- PREEMPT_FUNCTION. -/
def execPreemptFunction (fn : Nat) (s : State) : Host.Outcome State Fault Refusal :=
  .next (if s.preemptBusy ∨ !s.up then s else s.preemptTeams fn 1 0 ((s.teamsOf fn).map (·.1)))

/-! ## Saving (R345, R346, 08 R147) -/

/-- Cycles after which arms stop at the end of their chains. -/
def saveBound : Nat := 75000
/-- PREEMPT_BOUND_EXPIRE. -/
def execPreemptBoundExpire (tid : Nat) (s : State) : Host.Outcome State Fault Refusal :=
  .next (match SMap.find? s.teams tid with
  | none => s
  | some t => match t.save with
    | none => s
    | some r => if r.since + saveBound ≤ s.cycle then s.setTeam tid { t with save := some { r with bound := true } } else s)
/-- Every arm of a team has stopped and all its work has drained. -/
def State.drained (s : State) (tid : Nat) : Bool :=
  match SMap.find? s.teams tid with
  | none => false
  | some t => match t.save with
    | none => false
    | some r =>
      (s.groupsOf tid).all (fun g => (s.pathsOf g.1).all (fun p => p.2.stoppedFor r)) &&
        !s.reqs.any (fun q => q.2.team == tid && q.2.path != .h) && !s.ops.any (fun o => o.2.team == tid)
/-- The keys of a table that lie in blocks which a mask keeps. -/
def keepKeys {α : Type} (m : SMap α) (p : Nat → Bool) : SMap α := m.filter (fun e => p e.1)
/-- A live mask keeps the state word of a key (R147; the keys of `Group.bad`). -/
def maskKeeps (m : DWord) (k : Nat) : Bool :=
  if k < 65536 then m.getLsbD (24 + k / 64 / 8)
  else if k < 65664 then m.getLsbD (16 + (k - 65536) / 8)
  else if k < 65760 then m.getLsbD (10 + (k - 65664) / 16)
  else if k < 65768 then m.getLsbD 16
  else if k < 65776 then m.getLsbD (2 + (k - 65768))
  else if k < 65784 then m.getLsbD 1
  else true
/-- A group as its live mask keeps it; what no bit keeps reads 0 (R147). A path that waits at SN.MWAIT still has its register to
write. -/
def Group.keep (g : Group) (m : DWord) : Group :=
  { g with
    v := keepKeys g.v (maskKeeps m)
    p := keepKeys g.p (fun n => maskKeeps m (65664 + n))
    s := keepKeys g.s (fun n => maskKeeps m (65536 + n))
    q := if maskKeeps m 65760 then g.q else 0
    k := (keepKeys g.k (fun n => maskKeeps m (65768 + n))).map (fun (e : Nat × Tag) => (e.1, { e.2 with count := 0 }))
    f := keepKeys g.f (fun n => maskKeeps m (65776 + n))
    bad := g.bad.filter (maskKeeps m)
    flips := [], later := [], monitor := ⟨none, false⟩, fallback := none, xf := [] }
/-- A path as it is saved, between chains: what it fetched is not kept. -/
def Path.saved (p : Path) : Path :=
  { p with
    latches := [], chain := [], fresh := false, waited := 0, tables := [], locking := 0, refused := [], acquires := [], hold := []
    safe := none }
/-- The live mask of a group: the union of its arms' masks; all of it where an arm stopped without one, and in a team that
SY.BKPT stopped (10 R193). -/
def groupMask (full : Bool) (ps : SMap Path) : DWord :=
  ps.foldl (fun m p => m ||| p.2.safe.getD (BitVec.allOnes 64)) (if full then BitVec.allOnes 64 else 0)
/-- The accumulator rows of a side that some group keeps; the others read 0. -/
def Side.keepRows (d : Side) (keep : Nat → Bool) : Side :=
  let acc := keepKeys d.acc (fun k => keep (k / 64))
  let rows := (List.range 192).map (fun g => (g, (List.range 64).map (fun c =>
    (64 * g + c, (List.range 64).foldl (fun x r => x ^^^ SMap.getD acc (64 * (64 * g + r) + c) 0) (0 : Word)))))
  { d with
    acc := acc
    accCol := keepKeys d.accCol keep
    accRow := if d.acc = acc then d.accRow else
      (rows.flatMap (fun r => if d.acc.any (fun e => e.1 / 4096 == r.1) then r.2 else [])).filter (fun e => e.2 != 0)
    accBad := d.accBad.filter (fun k => keep (k / 64)) }
/-- A drained team is saved: its groups keep what their masks name, its granules, lanes and slots are freed, its handle
slot stays. -/
def State.saveTeam (s : State) (tid : Nat) : State :=
  match SMap.find? s.teams tid with
  | none => s
  | some t =>
    let b := match SMap.find? s.entries t.entry with
      | some e => e.body
      | none => EntryRec.zero
    let full := match t.save with
      | some r => r.full
      | none => false
    let gs := (s.groupsOf tid).filter (fun g => !g.2.retired)
    let keeps (side row : Nat) : Bool := gs.any (fun g => g.2.side b == side && (groupMask full (s.pathsOf g.1)).getLsbD 0 &&
      decide (g.2.abase ≤ row) && decide (row < g.2.alimit))
    let s' := gs.foldl (fun s g =>
      let ps := s.pathsOf g.1
      let s := (s.setGroup g.1 (g.2.keep (groupMask full ps))).dropLocks g.1
      ps.foldl (fun s p => s.setPath p.1 p.2.saved) s) s
    { s' with preemptFor := s'.preemptFor.filter (· ≠ tid) }.setTeam tid { t with
      place := .saved, save := none, pendSince := s.cycle
      side0 := t.side0.keepRows (keeps 0), side1 := t.side1.keepRows (keeps 1) }
/-- PREEMPT_SAVE: a unit whose teams have all drained is saved. -/
def execPreemptSave (tid : Nat) (s : State) : Host.Outcome State Fault Refusal :=
  let ts := (s.unit tid).filter (fun i => match SMap.find? s.teams i with
    | some t => t.save.isSome
    | none => false)
  .next (if !ts.isEmpty ∧ ts.all s.drained then ts.foldl (fun s i => s.saveTeam i) s else s)

/-! ## Function-level reset (R358 to R361) -/

/-- A bit of VFRST's BUSY or DONE. -/
def fnBit (n : Nat) : BitVec 16 := BitVec.ofNat 16 (2 ^ (n - 1))
/-- The launch of a team is a function's. -/
def State.ofFn (s : State) (fn : Nat) (t : Team) : Bool :=
  match SMap.find? s.entries t.entry with
  | none => false
  | some e => e.fn == fn
/-- A function's requests that an owner, a slice, a bridge or a fabric port, has accepted and not completed (01 R15), once a
reset has discarded the others. -/
def State.counter (s : State) (fn owner : Nat) : Nat :=
  (s.reqs.filter (fun r => r.2.fn == fn && r.2.entry != 0 && r.2.value.isNone && ownerOf r.2.tgt == owner)).length
/-- Every counter of a function is 0. -/
def State.countersZero (s : State) (fn : Nat) : Bool :=
  s.reqs.all (fun r => r.2.fn != fn || r.2.entry == 0 || s.counter fn (ownerOf r.2.tgt) == 0)
/-- A request writes a stamp, a count or an arrival. -/
def State.signals (s : State) (r : Req) : Bool :=
  match r.ret with
  | .op o k => match SMap.find? s.ops o with
    | some x => match x.kind, x.pieces[k]? with
      | .stamp .., _ => true
      | _, some p => p.last
      | _, none => false
    | none => false
  | _ => false
/-- A request that may have reached its owner, or has left through a port, when its function is killed: it is no stamp, count or
arrival of this module, its sluice engine has served it, it waits for nothing that has not taken effect, and no request ahead of
it from its source on its path to its owner stays behind (R14). -/
def State.mayReach (s : State) (kept : List Nat) (id : Nat) (r : Req) : Bool :=
  (match r.tgt with
    | .peer _ _ => r.doneAt == 1
    | _ => !s.signals r) &&
  (!r.atEngine || r.served != 0) && s.allDone r.after &&
    s.reqs.all (fun e => !r.ahead id e || e.2.source != r.source || e.2.path != r.path || e.2.value.isSome ||
      ownerOf e.2.tgt != ownerOf r.tgt || kept.contains e.1)
/-- The place of a request in the order in which its source sends. -/
def sentAt (e : Nat × Req) : Nat := if e.2.atEngine then e.2.served else e.1
/-- A request put into a list in that order. -/
def insertSent (e : Nat × Req) : SMap Req → SMap Req
  | [] => [e]
  | d :: l => if sentAt e < sentAt d then e :: d :: l else d :: insertSent e l
/-- The requests of a killed function that have reached their owners: which ones is open. -/
def State.reached (s : State) (fn : Nat) : List Nat :=
  ((s.reqs.filter (fun r => r.2.fn == fn && r.2.entry != 0 && r.2.value.isNone)).foldl (fun l e => insertSent e l) []).foldl
    (fun kept e =>
    if s.mayReach kept e.1 e.2 && ((match e.2.tgt with | .peer _ _ => true | _ => false) ||
        (Config.pick s.drawn).testBit e.1) then kept ++ [e.1] else kept) []
/-- Steps 1 and 2: nothing of the function is fetched, issued or placed any more; its teams are freed, each freed handle
slot with the next GEN; its operations, and requests that have not reached their owners, are discarded; entries that have not
started are abandoned. -/
def State.killFn (s : State) (fn : Nat) : State :=
  let kept := s.reached fn
  let s := { s with drawn := s.drawn + 1 }
  let ts := (s.teams.filter (fun t => t.2.place != .ended && s.ofFn fn t.2))
  let es := (s.entries.filter (fun e => e.2.fn == fn)).map (·.1)
  let s := es.foldl (fun s e => s.freeTeams e) s
  let s := ts.foldl (fun s t => s.freeHandleSlot { t.2 with gen := (t.2.gen + 1) % 65536 }) s
  let gs := (s.groups.filter (fun g => match SMap.find? s.teams g.2.team with
    | none => false
    | some t => s.ofFn fn t)).map (·.1)
  let s := s.dropOps (fun o => o.fn == fn)
  let s := s.discard (fun _ => false) (fun d => d.fn == fn && d.entry != 0)
  { s with
    reqs := s.reqs.filter (fun r => r.2.fn != fn || r.2.entry == 0 || kept.contains r.1)
    teams := s.teams.filter (fun t => !s.ofFn fn t.2)
    groups := s.groups.filter (fun g => !gs.contains g.1)
    paths := s.paths.filter (fun p => !gs.contains p.2.grp)
    entries := (s.entries.filter (fun e => e.2.fn != fn || e.2.phase != .waiting)).map (fun (e : Nat × Entry) =>
      if e.2.fn == fn then (e.1, { e.2 with phase := .draining, faults := [], fault := none, wdOn := false }) else e)
    walks := s.walks.filter (fun w => (s.context w.2.ctx).fn != fn)
    fills := s.fills.filter (fun f => (s.context f.2.ctx).fn != fn) }
/-- A reset of a virtual function starts; a START while BUSY is set is ignored. -/
def State.startReset (s : State) (n : Nat) : State :=
  if !s.up ∨ n = 0 ∨ 16 < n ∨ (s.vfrstBusy &&& fnBit n) ≠ 0 then s
  else
    let s := (s.killFn n).setFn n { s.fn n with reset := 3, resetAt := s.cycle }
    { s with vfrstBusy := s.vfrstBusy ||| fnBit n }
/-- VFRST_START. -/
def execVfrstStart (n : Nat) (s : State) : Host.Outcome State Fault Refusal := .next (s.startReset n)
/-- FUNCTION_LEVEL_RESET. -/
def execFunctionLevelReset (n : Nat) (s : State) : Host.Outcome State Fault Refusal := .next (s.startReset n)
/-- Step 6: every queue of the function. -/
def State.resetQueues (s : State) (fn : Nat) : State :=
  (List.range 64).foldl (fun s q =>
    let x := s.queue fn q
    s.setQueue fn q { x with
      head := 0, tail := 0, state := 2, got := none, half := none
      status := if (s.entriesOf fn q).isEmpty then x.status else 4 }) s
/-- Accesses in flight that used translations of a function's contexts, or of the pages of its records (R25, R28). -/
def State.usesOf (s : State) (fn : Nat) : List Nat :=
  s.flying (fun r => (s.context r.ctx).fn == fn && r.entry != 0) ++
    (s.derivs.filter (fun d => d.fn == fn)).flatMap (fun d => s.flyingTo (d.outs ++ d.bases))
/-- Steps 4 and 5: the function's answers, load-buffer lines, code lines and records go, with cached translations, whose
accesses are waited for before the step ends (R25, R28). -/
def State.scrubFn (s : State) (fn : Nat) : State :=
  let ids := s.usesOf fn
  let s := s.discard (fun r => r.fn == fn && r.entry != 0) (fun _ => false)
  let s := (s.coresOf fn).foldl (fun s c => (s.setCore c { s.core c with loads := [] }).stopFills c (fun _ => true)) s
  let s := { s with cores := s.cores.map (fun (c : Nat × Core) =>
    (c.1, { c.2 with code := c.2.code.filter (fun l => (s.context l.ctx).fn != fn) })) }
  let s := (s.derivs.filter (fun d => d.fn == fn)).foldl (fun s d => s.removeDeriv d) s
  { (s.setFn fn { s.fn fn with reset := 5 }) with
    tlb := s.tlb.filter (fun e => (s.context e.ctx).fn != fn)
    invals := s.invals ++ [⟨2 + fn, ids⟩] }
/-- Steps 6 and 7. -/
def State.endReset (s : State) (fn : Nat) : State :=
  let s := s.resetQueues fn
  { (s.setFn fn { s.fn fn with reset := 0, cursor := ((s.coresOf fn).head?).getD 0 }) with
    entries := s.entries.filter (fun e => e.2.fn != fn)
    invals := s.invals.filter (fun i => i.kind != 2 + fn)
    vfrstBusy := s.vfrstBusy &&& ~~~ fnBit fn
    vfrstDone := s.vfrstDone ||| fnBit fn }
/-- What a reset invalidated is out of use. -/
def State.resetClean (s : State) (fn : Nat) : Bool := s.invals.all (fun i => i.kind != 2 + fn || s.allDone i.ids)
/-- A reset's drain is done: its counters are 0, and no recompute that its reads started, or on a tile of one of its records,
is in progress (R15; 02 R61). -/
def State.fnDrained (s : State) (fn : Nat) : Bool :=
  s.countersZero fn &&
    !s.recomputes.any (fun r => r.fn == fn || s.derivs.any (fun d => d.handle == r.handle && d.fn == fn))
/-- VF_RESET_DRAIN_DONE: the drain is done and the function is scrubbed; the reset ends once nothing uses what it
invalidated. -/
def execVfResetDrainDone (n : Nat) (s : State) : Host.Outcome State Fault Refusal :=
  .next (if (s.fn n).reset = 0 then s
  else if (s.fn n).reset = 5 then (if s.resetClean n then s.endReset n else s)
  else if s.fnDrained n then
    let t := s.scrubFn n
    if t.resetClean n then t.endReset n else t
  else s)
/-- Cycles in 50 ms of the core clock (00 R1). -/
def drainLimit : Nat := 75000000
/-- A reset's drain has lasted 50 ms. -/
def State.drainOver (s : State) (fn : Nat) : Bool :=
  (s.fn fn).reset != 0 && (s.fn fn).reset != 5 && decide ((s.fn fn).resetAt + drainLimit ≤ s.cycle)
/-- VF_RESET_DRAIN_TIMEOUT: fabric requests still out after 50 ms are abandoned; an answer that arrives later is ignored. -/
def execVfResetDrainTimeout (n : Nat) (s : State) : Host.Outcome State Fault Refusal :=
  .next (if s.drainOver n then
    { s with reqs := s.reqs.filter (fun r => !(r.2.fn == n && r.2.entry != 0 &&
      match r.2.tgt with | .peer _ _ => true | _ => false)) }
  else s)

end Sys2Proof.Machine
end

