-- ==== Sys2Proof/Machine/HostLink.lean ====
section
/-! DEFINITION. The host link: queues, control registers, the coherent window, the device memory aperture, AtomicOps, and
the seal and attestation services (01 R32, R33; 24 R362 to R374). -/
namespace Sys2Proof.Machine
open Sys2Proof

/-- A function of the module: 0 physical, 1 to 16 virtual (R362). -/
def fnOk (fn : Nat) : Bool := decide (fn ≤ 16)
/-- A queue of a function of a running module. -/
def State.queueOk (s : State) (fn q : Nat) : Bool := s.up && fnOk fn && decide (q < 64)

/-! ## Queues (R368, R369, R380) -/

/-- A write to kick page q of BAR 2: 8 bytes at offset 0 are the tail of a queue; one below the last accepted, or past the
ring, is ignored and sets KERR. Other offsets ignore writes. -/
def State.writeKick (s : State) (fn q off n : Nat) (tail : DWord) : State :=
  let x := s.queue fn q
  let t := tail.toNat
  if off ≠ 0 ∨ n ≠ 8 ∨ !s.queueOk fn q ∨ (s.fn fn).reset ≠ 0 then s
  else if t < x.tail ∨ x.head + 2 ^ x.log2n < t then s.setQueue fn q { x with kerr := true }
  else s.setQueue fn q { x with tail := t }
/-- What a read of a kick page returns, at offset 0 too: the spec gives its tail no read value (DESIGN CHOICE, log 30). -/
def readKick (_fn _q _off : Nat) : DWord := 0
/-- KICK. -/
def execKick (fn q : Nat) (tail : DWord) (s : State) : Host.Outcome State Fault Refusal := .next (s.writeKick fn q 0 8 tail)
/-- Bytes of a function's share of the window. -/
def shareBytes (fn : Nat) : Nat := if fn = 0 then 0x800000 else 0x80000
/-- ENABLE may be set: the context is valid and the function's, LOG2N is legal, QFAULT lies 64-aligned in the share. -/
def State.mayEnable (s : State) (fn : Nat) (x : Queue) : Bool :=
  let c := s.context x.ctx
  c.v && c.fn == fn && decide (4 ≤ x.log2n) && decide (x.log2n ≤ 16) && x.fault % 64 == 0 &&
    decide (x.fault + 64 ≤ shareBytes fn)
/-- A write to QCFG. -/
def State.writeQcfg (s : State) (fn q : Nat) (value : DWord) (enable restart : Bool) : State :=
  let x := s.queue fn q
  let y := { x with log2n := value.toNat % 32, ctx := value.toNat / 32 % 2048 }
  if !s.queueOk fn q then s
  else if !(enable && s.mayEnable fn y) then s.setQueue fn q { y with enable := false, state := 3, got := none, half := none }
  else if x.state = 3 then s.setQueue fn q { y with enable := true, state := 0 }
  else if restart && (x.state == 1 || x.state == 2) && (s.fn fn).reset == 0 then
    s.setQueue fn q { y with enable := true, state := 0, status := 0 }
  else s.setQueue fn q { y with enable := true }
/-- QUEUE_ENABLE. -/
def execQueueEnable (fn q : Nat) (value : DWord) (s : State) : Host.Outcome State Fault Refusal :=
  .next (s.writeQcfg fn q value true false)
/-- QUEUE_DISABLE. -/
def execQueueDisable (fn q : Nat) (value : DWord) (s : State) : Host.Outcome State Fault Refusal :=
  .next (s.writeQcfg fn q value false false)
/-- QUEUE_RESTART: ENABLE and RESTART. -/
def execQueueRestart (fn q : Nat) (value : DWord) (s : State) : Host.Outcome State Fault Refusal :=
  .next (s.writeQcfg fn q value true true)

/-! ## Partitions and the other registers (R365 to R371) -/

/-- The function has a team resident, saved or pending. -/
def State.hasTeams (s : State) (fn : Nat) : Bool := !(s.teamsOf fn).isEmpty || !(s.pendings fn).isEmpty
/-- A 128-bit value with one half replaced. -/
def setHalf (x : BitVec 128) (high : Bool) (v : DWord) : BitVec 128 :=
  if high then v ++ x.setWidth 64 else (x >>> 64).setWidth 64 ++ v
/-- PART_WRITE: a partition that overlaps another function's, or of a function with teams, is left as it is; a write that
takes effect sets the placement cursor (22 R338). -/
def execPartWrite (fn : Nat) (high : Bool) (value : DWord) (s : State) : Host.Outcome State Fault Refusal :=
  let f := s.fn fn
  let part := setHalf f.part high value
  let overlaps := (List.range 17).any (fun n => n != fn && ((s.fn n).part &&& part) != 0)
  let s' := s.setFn fn { f with part := part }
  .next (if !s.up ∨ !fnOk fn ∨ overlaps ∨ s.hasTeams fn then s
  else s'.setFn fn { s'.fn fn with cursor := (s'.coresOf fn).headD 0 })
/-- Registers of one queue: QBASE, QHEAD, QSTAT and QFAULT. -/
def State.writeQueueReg (s : State) (fn q off : Nat) (v : DWord) : State :=
  let x := s.queue fn q
  if off = 0 then s.setQueue fn q { x with base := v }
  else if off = 0x10 then (if x.state = 0 then s else s.setQueue fn q { x with head := v.toNat, got := none, half := none })
  else if off = 0x18 then (if v.getLsbD 12 then s.setQueue fn q { x with kerr := false } else s)
  else if off = 0x20 then s.setQueue fn q { x with fault := v.toNat }
  else s
/-- Fields of function n, from the physical function. SAVEBASE and SAVESIZE are left as they are while the function has
teams. -/
def State.writeFnReg (s : State) (n off : Nat) (v : DWord) : State :=
  let f := s.fn n
  if off = 0x10 then (if s.hasTeams n then s else s.setFn n { f with saveBase := v })
  else if off = 0x18 then (if s.hasTeams n then s else s.setFn n { f with saveSize := v })
  else if off = 0x20 then s.setFn n { f with tslice := v }
  else if off = 0x28 then s.setFn n { f with mcgBase := v }
  else s
/-- A context descriptor's half (R366). -/
def State.writeContext (s : State) (c : Nat) (high : Bool) (v : DWord) : State :=
  let x := s.context c
  let y := if high then
      { x with pasid := (v >>> 44).setWidth 20, pri := v.getLsbD 39, svm := v.getLsbD 38, fn := v.toNat / 2 ^ 33 % 32,
               v := v.getLsbD 32 }
    else { x with root := v.toNat / 4096 % 2 ^ 36 }
  { s with contexts := SMap.set s.contexts c y Ctx.zero }
/-- A route's half (R370). -/
def State.writeRoute (s : State) (p : Nat) (high : Bool) (v : DWord) : State :=
  { s with routes := SMap.set s.routes p (setHalf (SMap.getD s.routes p 0) high v) 0 }
/-- A launch has started and not completed. -/
def State.launchOn (s : State) : Bool := s.entries.any (fun e => e.2.phase != .waiting && e.2.body.ty == 0)
/-- Bytes of SEALTAG replaced. -/
def putTag (tag : List Byte) (k : Nat) (v : DWord) : List Byte :=
  tag.take (8 * k) ++ leBytes 8 v.toNat ++ tag.drop (8 * k + 8)
/-- Registers of the physical function from 0x8_0000 up. -/
def State.writeModuleReg (s : State) (off : Nat) (v : DWord) : State :=
  if off = 0x80000 then
    { s with vfrstDone := s.vfrstDone &&& ~~~ ((v >>> 16).setWidth 16) }.startReset (v.toNat % 32)
  else if off = 0x80008 then { s with invaddr := v }
  else if off = 0x80020 then
    (if s.launchOn then s else { s with peerid := v.toNat % 4096, domsize := v.toNat / 2 ^ 16 % 2 ^ 13 })
  else if off = 0x80028 then { s with sealaddr := v }
  else if 0x80040 ≤ off ∧ off < 0x80060 then { s with sealtag := putTag s.sealtag ((off - 0x80040) / 8) v }
  else if off = 0x80060 then { s with attaddr := v }
  else if 0x80100 ≤ off ∧ off < 0x80100 + 64 * 17 then s.writeFnReg ((off - 0x80100) / 64) ((off - 0x80100) % 64) v
  else if 0x90000 ≤ off ∧ off < 0x90000 + 16 * 1088 then s.writeContext ((off - 0x90000) / 16) (off % 16 == 8) v
  else if 0xA0000 ≤ off ∧ off < 0xA0000 + 16 * 4096 then s.writeRoute ((off - 0xA0000) / 16) (off % 16 == 8) v
  else s
/-- REGISTER_WRITE: 64 bits at an offset of a function's BAR 0. Offset 0x10_0000, past the BAR, stands for the page
request allocation in configuration space (01 R30; DESIGN CHOICE, log 30). -/
def execRegisterWrite (fn off : Nat) (value : DWord) (s : State) : Host.Outcome State Fault Refusal :=
  let f := s.fn fn
  .next (if !s.up ∨ !fnOk fn ∨ off % 8 ≠ 0 then s
  else if off = 0x100000 then s.setFn fn { f with priAlloc := value.toNat }
  else if 0x80000 ≤ off then (if fn = 0 then s.writeModuleReg off value else s)
  else if 0x1000 ≤ off ∧ off < 0x1000 + 64 * 64 then
    s.writeQueueReg fn ((off - 0x1000) / 64) ((off - 0x1000) % 64) value
  else if off = 0x10 then s.setFn fn { f with debug := value.getLsbD 0 }
  else if off = 0x28 then s.setFn fn { f with errcnt := f.errcnt &&& ~~~ value }
  else if off = 0x30 then
    s.setFn fn { f with apEnable := value.getLsbD 63, apBase := value &&& 0x01FFFFFFFFFFF000#64 }
  else if off = 0x38 then s.setFn fn { f with apCtx := value.toNat % 2048 }
  else s)

/-! ## What registers read as (00 R4; R358, R365 to R371, R373) -/

/-- A register of one queue (R368). RESTART reads 0. -/
def Queue.read (x : Queue) (off : Nat) : DWord :=
  if off = 0 then x.base
  else if off = 0x8 then BitVec.ofNat 64 (x.log2n + 2 ^ 5 * x.ctx + if x.enable then 2 ^ 16 else 0)
  else if off = 0x10 then BitVec.ofNat 64 x.head
  else if off = 0x18 then BitVec.ofNat 64 (x.state + 2 ^ 8 * x.status + if x.kerr then 2 ^ 12 else 0)
  else if off = 0x20 then BitVec.ofNat 64 x.fault
  else 0
/-- A field of a function (R365). -/
def Fn.read (f : Fn) (off : Nat) : DWord :=
  if off = 0 then f.part.setWidth 64
  else if off = 0x8 then (f.part >>> 64).setWidth 64
  else if off = 0x10 then f.saveBase
  else if off = 0x18 then f.saveSize
  else if off = 0x20 then f.tslice
  else if off = 0x28 then f.mcgBase
  else 0
/-- A half of a context descriptor (R366). -/
def Ctx.read (x : Ctx) (high : Bool) : DWord :=
  if high then BitVec.ofNat 64 (2 ^ 44 * x.pasid.toNat + (if x.pri then 2 ^ 39 else 0) + (if x.svm then 2 ^ 38 else 0) +
    2 ^ 33 * x.fn + if x.v then 2 ^ 32 else 0)
  else BitVec.ofNat 64 (4096 * x.root)
/-- A register of the physical function from 0x8_0000 up. START and ATTCMD read 0. -/
def State.readModule (s : State) (off : Nat) : DWord :=
  if off = 0x80000 then BitVec.ofNat 64 (2 ^ 32 * s.vfrstBusy.toNat + 2 ^ 16 * s.vfrstDone.toNat)
  else if off = 0x80008 then s.invaddr
  else if off = 0x80010 then s.invcmd
  else if off = 0x80018 then s.preempt ||| (if s.preemptBusy then BitVec.ofNat 64 (2 ^ 63) else 0)
  else if off = 0x80020 then BitVec.ofNat 64 (s.peerid + 2 ^ 16 * s.domsize)
  else if off = 0x80028 then s.sealaddr
  else if off = 0x80030 then s.sealcmd
  else if 0x80040 ≤ off ∧ off < 0x80060 then BitVec.ofNat 64 (leNat ((s.sealtag.drop (off - 0x80040)).take 8))
  else if off = 0x80060 then s.attaddr
  else if 0x80100 ≤ off ∧ off < 0x80100 + 64 * 17 then (s.fn ((off - 0x80100) / 64)).read ((off - 0x80100) % 64)
  else if 0x90000 ≤ off ∧ off < 0x90000 + 16 * 1088 then (s.context ((off - 0x90000) / 16)).read (off % 16 == 8)
  else if 0xA0000 ≤ off ∧ off < 0xA0000 + 16 * 4096 then
    let r := SMap.getD s.routes ((off - 0xA0000) / 16) 0
    if off % 16 = 8 then (r >>> 64).setWidth 64 else r.setWidth 64
  else 0
/-- ID: STEPPING and the compatibility mask. -/
def idWord : DWord := BitVec.ofNat 64 (Config.stepping.toNat + 2 ^ 32 * Config.compatMask)
/-- What the host reads at an 8-byte offset of a function's BAR 0: reserved and write-only fields read 0, and a virtual
function reads 0 from 0x8_0000 up. A module that waits for firmware shows ID in the physical function; the rest of it, and
what the spec gives no offset, reads 0 here (DESIGN CHOICE, log 30). -/
def State.readReg (s : State) (fn off : Nat) : DWord :=
  let f := s.fn fn
  if !fnOk fn ∨ s.mode = .powerOff ∨ (s.mode = .waitFirmware ∧ (fn ≠ 0 ∨ off ≠ 0)) then 0
  else if off = 0 then idWord
  else if 0x80000 ≤ off then (if fn = 0 then s.readModule off else 0)
  else if 0x1000 ≤ off ∧ off < 0x1000 + 64 * 64 then (s.queue fn ((off - 0x1000) / 64)).read ((off - 0x1000) % 64)
  else if off = 0x10 then (if f.debug then 1 else 0)
  else if off = 0x18 then f.dbgPc
  else if off = 0x20 then BitVec.ofNat 64 (f.dbgTeam.toNat + if f.dbgValid then 2 ^ 32 else 0)
  else if off = 0x28 then f.errcnt
  else if off = 0x30 then f.apBase ||| (if f.apEnable then BitVec.ofNat 64 (2 ^ 63) else 0)
  else if off = 0x38 then BitVec.ofNat 64 f.apCtx
  else 0
/-- DBGTEAM_RESUME: the team named resumes, and VALID clears (10 R193). -/
def execDbgteamResume (fn : Nat) (s : State) : Host.Outcome State Fault Refusal :=
  let f := s.fn fn
  .next (if !s.up ∨ !fnOk fn ∨ !f.dbgValid then s
  else (s.modTeam f.dbgId (fun t => { t with debug := false })).setFn fn { f with dbgValid := false })

/-! ## BAR 4 (R362, R364; 01 R32, R33) -/

/-- An access of one to 64 bytes within one 64-byte block: one step (01 R13). A larger transfer is several. -/
def oneBlock (off n : Nat) : Bool := decide (1 ≤ n) && decide (off % 64 + n ≤ 64)
/-- The window address of a BAR offset. -/
def windowAt (fn off n : Nat) : Option Nat :=
  if fnOk fn && decide (off + n ≤ shareBytes fn) then some (shareBase fn + off) else none
/-- What a read that reaches nothing returns. -/
def allOnes (n : Nat) : List Byte := List.replicate n 0xFF
/-- HOST_WINDOW_READ. A read of poisoned bytes returns them as they stand, as an AtomicOp does: R36 gives no answer for the host
(DESIGN CHOICE, log 72). -/
def execHostWindowRead (fn off n : Nat) (s : State) : Host.Outcome State Fault Refusal :=
  .next (if !s.up ∨ !oneBlock off n then s
  else match windowAt fn off n with
    | some pa => { s with hostReply := (s.devRead pa n).1 }
    | none => { s with hostReply := allOnes n })
/-- HOST_WINDOW_WRITE. -/
def execHostWindowWrite (fn off : Nat) (data : List Byte) (s : State) : Host.Outcome State Fault Refusal :=
  .next (if !s.up ∨ !oneBlock off data.length then s
  else match windowAt fn off data.length with
    | some pa => s.writeAt (.dev pa) data (clean data.length)
    | none => s)
/-- HOST_ATOMICOP: FetchAdd, Swap and CAS at a naturally aligned window address, in one step; the old value is returned. It
waits while a copy has landed in part in its block (01 R16). Poison leaves the location unchanged (01 R36; log 72). An AtomicOp
elsewhere is an Unsupported Request: no data returns. -/
def execHostAtomicop (fn off : Nat) (op : HostAtomic) (wide : Bool) (operand compare : DWord) (s : State) :
    Host.Outcome State Fault Refusal :=
  let n := if wide then 8 else 4
  let o : AtOp := match op with
    | .fetchAdd => .add
    | .swap => .xchg
    | .cas => .cas
  .next (if !s.up then s
  else match (if off % n = 0 then windowAt fn off n else none) with
    | none => { s with hostReply := [] }
    | some pa =>
      let (old, bad) := s.devRead pa n
      let s' := { s with hostReply := old }
      if s.halfLanded (.dev pa) n then s
      else if bad.any (fun b => b) then s'
      else match atomicNew o wide (BitVec.ofNat 64 (leNat old)) operand compare 0 with
        | some v => s'.writeAt (.dev pa) (leBytes n v.toNat) (clean n)
        | none => s')
/-- The device address that an aperture offset reaches, translated afresh in the aperture's context. An error is an access that is
refused, or an entry in a derived tile that is not VALID, at which the walk is held (02 R49). -/
def State.aperture (s : State) (fn off : Nat) (write : Bool) : Except (Option Nat) (Nat × Nat) :=
  let f := s.fn fn
  let c := s.context f.apCtx
  let va := f.apBase.toNat + (off - 2 ^ 36)
  if !f.apEnable ∨ off < 2 ^ 36 ∨ 2 ^ 37 ≤ off ∨ !c.v ∨ c.fn ≠ fn ∨ spadOwn ≤ va ∨ s.isShared f.apCtx va then .error none
  else match s.walkWaits f.apCtx va with
  | some pte => .error (some pte)
  | none => match s.walkTables f.apCtx va with
    | .refused _ => .error none
    | .found leaf _ pte =>
      if leaf.tgt ≠ 0 ∨ (write ∧ !leaf.w) then .error none else .ok (leaf.frame + va % 2 ^ leaf.log, pte)
/-- A host request on path H to device memory. -/
def State.hostReq (s : State) (fn va pa : Nat) (op : ReqOp) : State :=
  s.addReq
    { src := hostPort, arm := 0, served := 0, path := .h, fn := fn, entry := 0, team := 0, grp := 0, lanes := 0, pc := 0, va := BitVec.ofNat 64 va,
      ctx := (s.fn fn).apCtx, op := op, tgt := .dev pa, after := [], ret := .host, acquire := false, noFill := true,
      named := 0, value := none, doneAt := 0, mesh := false, half := none, part := [], born := s.cycle }
/-- An offset between the window share and the aperture: reads return all ones, writes are ignored. -/
def nowhere (off : Nat) : Bool := decide (off < 2 ^ 36) || decide (2 ^ 37 ≤ off)
/-- APERTURE_READ: the read takes effect at once, or is held as a request while a derived tile is recomputed. -/
def execApertureRead (fn off n : Nat) (s : State) : Host.Outcome State Fault Refusal :=
  .next (if !s.up ∨ !fnOk fn ∨ !oneBlock off n then s
  else if nowhere off then { s with hostReply := allOnes n }
  else match s.aperture fn off false with
    | .error none => { (s.countErr fn) with hostReply := allOnes n }
    | .error (some pte) => s.startWalk pte (s.fn fn).apCtx
    | .ok (pa, pte) =>
      let s' := s.setAccessed pte
      (s'.hostReq fn ((s.fn fn).apBase.toNat + (off - 2 ^ 36)) pa (.read n)).sliceRead s'.nextId)
/-- APERTURE_WRITE: as a device write (02 R47, R48), held while an exclusive recompute holds writes. -/
def execApertureWrite (fn off : Nat) (data : List Byte) (s : State) : Host.Outcome State Fault Refusal :=
  .next (if !s.up ∨ !fnOk fn ∨ !oneBlock off data.length ∨ nowhere off then s
  else match s.aperture fn off true with
    | .error none => s.countErr fn
    | .error (some pte) => s.startWalk pte (s.fn fn).apCtx
    | .ok (pa, pte) =>
      let s' := s.setAccessed pte
      (s'.hostReq fn ((s.fn fn).apBase.toNat + (off - 2 ^ 36)) pa (.write data (clean data.length))).sliceWrite s'.nextId)
/-- A host access that is held before it reaches its owner: an AtomicOp on a block in which a copy has landed in part, an aperture
access whose walk is held. It stays the next of what the host does. -/
def State.hostWaits (s : State) : Instr → Bool
  | .hostAtomicop fn off _ wide _ _ =>
    let n := if wide then 8 else 4
    s.up && off % n == 0 && match windowAt fn off n with
      | some pa => s.halfLanded (.dev pa) n
      | none => false
  | .apertureRead fn off n => s.up && fnOk fn && oneBlock off n && match s.aperture fn off false with
      | .error (some _) => true
      | _ => false
  | .apertureWrite fn off data => s.up && fnOk fn && oneBlock off data.length && match s.aperture fn off true with
      | .error (some _) => true
      | _ => false
  | _ => false

/-! ## Seal and attestation (R373, R374; 09 R168) -/

/-- The TAG of bytes: KMAC256 under the sealing key. -/
def State.tagOf (s : State) (bytes : List Byte) : List Byte :=
  kmac256 (Config.sealingKey s.measurement) bytes sealCustom 32
/-- SEALCMD: length, OP, MISMATCH, BUSY. -/
def sealWord (len op : Nat) (mismatch busy : Bool) : DWord :=
  BitVec.ofNat 64 ((if busy then 2 ^ 63 else 0) + op * 2 ^ 62 + (if mismatch then 2 ^ 61 else 0) + len % 2 ^ 40)
/-- A write to SEALCMD: ignored while BUSY is set; else BUSY is set, and the bytes at SEALADDR are taken. -/
def State.startSeal (s : State) (len op : Nat) : State :=
  if !s.up ∨ s.sealJob.isSome then s
  else { s with sealcmd := sealWord len op false true, sealJob := some s.sealaddr.toNat }
/-- A seal or a check in progress ends: a seal writes the TAG of the host's bytes to SEALTAG; a check sets MISMATCH when it
differs from SEALTAG. -/
def State.sealDone (s : State) : State :=
  match s.sealJob with
  | none => s
  | some a =>
    let len := s.sealcmd.toNat % 2 ^ 40
    let tag := s.tagOf (s.host.bytes a len)
    if s.sealcmd.getLsbD 62 then { s with sealJob := none, sealcmd := sealWord len 1 (tag != s.sealtag) false }
    else { s with sealJob := none, sealcmd := sealWord len 0 false false, sealtag := tag }
/-- SEAL. -/
def execSeal (len : Nat) (s : State) : Host.Outcome State Fault Refusal := .next (s.startSeal len 0)
/-- SEAL_CHECK. -/
def execSealCheck (len : Nat) (s : State) : Host.Outcome State Fault Refusal := .next (s.startSeal len 1)
/-- The first 240 bytes of a report. -/
def State.reportBody (s : State) (nonce : List Byte) : List Byte :=
  [0x58, 0x41, 0x54, 0x00] ++ leBytes 4 Config.stepping.toNat ++ leBytes 8 0 ++
    (List.range 32).map (fun i => nonce.getD i 0) ++ s.measurement ++ shake256 (s.ownerKeys.flatMap (fun k => k)) 64 ++
    (List.range 57).map Config.identityKey ++ leBytes 7 0
/-- A report of 354 bytes, signed by the device identity key. -/
def State.report (s : State) (nonce : List Byte) : List Byte :=
  s.reportBody nonce ++ (List.range 114).map (Config.identitySign (s.reportBody nonce))
/-- ATTCMD: writing 1 reads the nonce at ATTADDR and writes the report at ATTADDR + 64. -/
def execAttcmd (value : DWord) (s : State) : Host.Outcome State Fault Refusal :=
  .next (if !s.up ∨ value ≠ 1 then s
  else s.writeAt (.host (s.attaddr.toNat + 64)) (s.report (s.host.bytes s.attaddr.toNat 32)) (clean 354))

end Sys2Proof.Machine
end

