-- ==== Sys2Proof/Machine/Manage.lean ====
section
/-! DEFINITION. Firmware, management, the monitors, and errors of storage (01 R9, R10, R37; 06 R115; 24 R372, R374,
R375). -/
namespace Sys2Proof.Machine
open Sys2Proof

/-! ## Firmware (R372) -/

/-- An image's signature verifies, against Kregan's key or an owner's. -/
def State.verified (s : State) (img : List Byte) : Bool :=
  let sig := Config.imageSignature img
  Config.kreganSigned img sig || s.ownerKeys.any (fun k => Config.ownerSigned k img sig)
/-- What outlasts a module reset: the host's memory, the image, the owner keys, what left the module, and the model's own
fields. -/
def State.fresh (s : State) : State :=
  { State.reset with
    host := s.host, image := s.image, ownerKeys := s.ownerKeys, fabricOut := s.fabricOut, staged := s.staged
    sched := s.sched, drawn := s.drawn, inbox := s.inbox, nextId := s.nextId }
/-- The boot ROM measures and verifies an image. -/
def State.boot (s : State) (img : List Byte) : State :=
  if s.verified img then { s with image := img, staged := none, measurement := shake256 img 64, mode := .running }
  else { s with image := img, staged := none, mode := .waitFirmware }
/-- MODULE_RESET: an image staged while the module ran takes effect. -/
def execModuleReset (s : State) : Host.Outcome State Fault Refusal :=
  .next (s.fresh.boot (s.staged.getD s.image))
/-- FIRMWARE_STAGE: the image is taken from host memory; a module that waits for one verifies it at once. -/
def execFirmwareStage (addr len : DWord) (s : State) : Host.Outcome State Fault Refusal :=
  let img := s.host.bytes addr.toNat len.toNat
  let s' := { s with stageaddr := addr, stagelen := len }
  .next (match s.mode with
  | .running => { s' with staged := some img }
  | .waitFirmware => s'.boot img
  | .powerOff => s)

/-! ## Management (R37, R372, R374, R375) -/

/-- A command about a key is signed by Kregan's key or by a current owner key. -/
def State.keySigned (s : State) (key sig : List Byte) : Bool :=
  Config.kreganSigned key sig || s.ownerKeys.any (fun k => Config.ownerSigned k key sig)
/-- PLDM_ENROLL_OWNER_KEY: up to four keys. -/
def execPldmEnrollOwnerKey (key sig : List Byte) (s : State) : Host.Outcome State Fault Refusal :=
  .next (if s.mode ≠ .powerOff ∧ s.keySigned key sig ∧ s.ownerKeys.length < 4 ∧ !s.ownerKeys.contains key then
    { s with ownerKeys := s.ownerKeys ++ [key] }
  else s)
/-- PLDM_REMOVE_OWNER_KEY. -/
def execPldmRemoveOwnerKey (key sig : List Byte) (s : State) : Host.Outcome State Fault Refusal :=
  .next (if s.mode ≠ .powerOff ∧ s.keySigned key sig then { s with ownerKeys := s.ownerKeys.filter (· ≠ key) } else s)
/-- PLDM_ATTEST: the report for management's nonce. -/
def execPldmAttest (nonce : List Byte) (s : State) : Host.Outcome State Fault Refusal :=
  .next (if s.up then { s with hostReply := s.report nonce } else s)
/-- PLDM_SET_POWER_LIMIT: 1,200 W to 3,600 W in steps of 25 W. -/
def execPldmSetPowerLimit (watts : Nat) (s : State) : Host.Outcome State Fault Refusal :=
  .next (if s.mode ≠ .powerOff ∧ 1200 ≤ watts ∧ watts ≤ 3600 ∧ watts % 25 = 0 then { s with powerLimit := watts } else s)
/-- PLDM_SET_SCRUB_RATE: it changes timing only. -/
def execPldmSetScrubRate (rate : Nat) (s : State) : Host.Outcome State Fault Refusal :=
  .next (if s.mode ≠ .powerOff then { s with scrubRate := rate } else s)

/-- What management reads of a core's temperature, in the steps of 06 R115, and of ring oscillator k of a die (R375). -/
def State.temperature (s : State) (core : Nat) : BitVec 16 := Config.therm core s.cycle
/-- Ring oscillator k of a die; none past the 16 of each of the four dies. -/
def State.oscillator (s : State) (die k : Nat) : Option Word :=
  if die < 4 ∧ k < 16 then some (Config.oscillator (16 * die + k) s.cycle) else none

/-! ## Heat and power (R375) -/

/-- THERMAL_STOP: every issue stops. -/
def execThermalStop (s : State) : Host.Outcome State Fault Refusal := .next (if s.up then { s with thermalStop := true } else s)
/-- THERMAL_RESUME. -/
def execThermalResume (s : State) : Host.Outcome State Fault Refusal := .next { s with thermalStop := false }
/-- THERMAL_SHUTDOWN: nothing is left running; only a module reset restores the module. -/
def execThermalShutdown (s : State) : Host.Outcome State Fault Refusal := .next { s.fresh with mode := .powerOff }
/-- WITHHOLD_ISSUE_CYCLES: only timing changes. -/
def execWithholdIssueCycles (on : Bool) (s : State) : Host.Outcome State Fault Refusal :=
  .next (if s.up then { s with withheld := on } else s)
/-- A count of 32 bits that saturates. -/
def satSucc (n : Nat) : Nat := min 0xFFFFFFFF (n + 1)
/-- DROOP_EVENT: the core's count, and that of each team resident there since its start (06 R115). -/
def execDroopEvent (core : Nat) (s : State) : Host.Outcome State Fault Refusal :=
  let twin (t : Team) : Bool := match SMap.find? s.entries t.entry with
    | some e => e.body.twin
    | none => false
  let c := s.core core
  .next (if !s.up ∨ 256 ≤ core then s
  else { s.setCore core { c with droop := satSucc c.droop } with
    teams := s.teams.map (fun (e : Nat × Team) =>
      let t := e.2
      if t.place != .resident then e
      else if t.core = core then (e.1, { t with droop0 := satSucc t.droop0 })
      else if twin t && t.core + 1 == core then (e.1, { t with droop1 := satSucc t.droop1 })
      else e) })

/-! ## Errors of storage (01 R9, R10, R36, R37) -/

/-- Flipped bits after more flips: a bit flipped twice is as it was. -/
def flipBits (old new : List Nat) : List Nat :=
  (distinct new).foldl (fun l b => if l.contains b then l.filter (· ≠ b) else insertNat l b) old
/-- A unit of storage that is there: a granule of near or far memory or the window, a word of the pools of a team that is
resident or saved, a word of the image of a saved team. -/
def State.hasUnit (s : State) (u : ErrUnit) : Bool :=
  let team (t side : Nat) : Bool := decide (side < 2) && match SMap.find? s.teams t with
    | some x => x.place != .ended
    | none => false
  let saved (t : Nat) : Bool := match SMap.find? s.teams t with
    | some x => x.place == .saved
    | none => false
  match u with
  | .dev pa => (placeOf pa).isSome && granuleOf pa == pa
  | .spad t side _ => team t side
  | .acc t side _ => team t side
  | .vreg g lane reg => (SMap.find? s.groups g).isSome && decide (lane < 64) && decide (reg < 256)
  | .state g k => (decide (65536 ≤ k) && decide (k < 65600) || decide (65664 ≤ k) && decide (k ≤ 65760) ||
      decide (65768 ≤ k) && decide (k < 65786) || (decide (2 ^ 20 ≤ k) && match SMap.find? s.paths (k - 2 ^ 20) with
        | some p => p.grp == g
        | none => false)) && match SMap.find? s.groups g with
    | some x => saved x.team
    | none => false
  | .bar t n => decide (n < 16) && saved t
  | .line core i _ => decide (i < (s.core core).code.length)
/-- Free bytes, as many as asked for. -/
def State.freeBytes (s : State) (n : Nat) : List Byte := (List.range n).map (fun i => Config.freeByte (s.drawn + i))
/-- The key of a register among those of its group that carry poison or flipped bits. -/
def ErrUnit.regKey : ErrUnit → Nat
  | .vreg _ lane reg => 64 * reg + lane
  | .state _ k => k
  | _ => 0
/-- An error beyond what a unit's code promises, not detected: the unit holds bits that nothing states (log 5). -/
def State.corrupt (s : State) (u : ErrUnit) : State :=
  let n := match u with
    | .dev pa => granuleSize pa
    | .line _ _ _ => 8
    | _ => 4
  let bs := s.freeBytes n
  let w := BitVec.ofNat 32 (leNat bs)
  let s := { s with drawn := s.drawn + n }
  match u with
  | .dev pa => { s with mem := s.mem.stores pa bs }.clearErr u
  | .spad t side k => (s.modTeam t (fun x =>
      let d := x.side side
      x.setSide side { d with spad := d.spad.stores (4 * k) bs })).clearErr u
  | .acc t side k => (s.modTeam t (fun x =>
      let d := x.side side
      x.setSide side { d with acc := SMap.set d.acc k w 0 })).clearErr u
  | .vreg g lane reg => s.modGroup g (fun x => { x with
      v := SMap.set x.v (64 * reg + lane) w 0, flips := x.flips.filter (fun f => f.1 != ErrUnit.regKey u) })
  | .state g k => s.modGroup g (fun x => { x with
      s := SMap.set x.s (k - 65536) w 0, flips := x.flips.filter (fun f => f.1 != k) })
  | .bar _ _ => s
  | .line core i k => s.setCore core { s.core core with
      code := (s.core core).code.modify i (fun l => { l with
        bytes := l.bytes.take (8 * k) ++ bs ++ l.bytes.drop (8 * k + 8), flips := l.flips.filter (fun f => f.1 != k) }) }
/-- The flipped bits of a register. -/
def State.regFlips (s : State) (g key : Nat) : List Nat :=
  match SMap.find? s.groups g with
  | some x => (x.flips.filter (fun f => f.1 == key)).map (·.2)
  | none => []
/-- The flipped bits of a register set: an error that is detected and not corrected is poison. -/
def Group.setFlips (g : Group) (key : Nat) (bits : List Nat) : Group :=
  let rest := g.flips.filter (fun f => f.1 != key)
  if 2 ≤ bits.length then { g with bad := insertNat g.bad key, flips := rest }
  else { g with flips := rest ++ bits.map (fun b => (key, b)) }
/-- The flipped bits of a unit, wherever they are kept. -/
def State.flipsOf (s : State) (u : ErrUnit) : List Nat :=
  match u with
  | .vreg g _ _ => s.regFlips g (ErrUnit.regKey u)
  | .state g k => s.regFlips g k
  | .line core i k => match (s.core core).code[i]? with
    | some l => (l.flips.filter (fun f => f.1 == k)).map (·.2)
    | none => []
  | u => s.flips u
/-- The flipped bits of a unit set; a register whose error is detected and not corrected carries poison. -/
def State.setFlips (s : State) (u : ErrUnit) (bits : List Nat) : State :=
  match u with
  | .vreg g _ _ => s.modGroup g (fun x => x.setFlips (ErrUnit.regKey u) bits)
  | .state g k => s.modGroup g (fun x => x.setFlips k bits)
  | .bar t b =>
    if 2 ≤ bits.length then (s.modTeam t (fun x => x.setBar b { x.bar b with bad := true })).clearErr u
    else { s with errs := s.errs.filter (fun e => e.1 != u) ++ [(u, bits)] }
  | .line core i k => s.setCore core { s.core core with
      code := (s.core core).code.modify i (fun l =>
        { l with flips := l.flips.filter (fun f => f.1 != k) ++ bits.map (fun b => (k, b)) }) }
  | u => if bits.isEmpty then s.clearErr u else { s with errs := s.errs.filter (fun e => e.1 != u) ++ [(u, bits)] }
/-- A word of an image other than a register's: the model takes more than two flipped bits there as detected (log 5). -/
def ErrUnit.surely : ErrUnit → Bool
  | .state _ k => decide (65600 ≤ k)
  | .bar _ _ => true
  | _ => false
/-- SOFT_ERROR: bits of a unit flip. One symbol of a far block, or one bit of a word, is corrected wherever it is read;
two are detected; of more, nothing is stated. -/
def execSoftError (unit : ErrUnit) (bits : List Nat) (s : State) : Host.Outcome State Fault Refusal :=
  let all := flipBits (s.flipsOf unit) bits
  .next (if !s.up ∨ !s.hasUnit unit then s
  else if ErrUnit.weight unit all ≤ 2 then s.setFlips unit all
  else
    let s' := { s with drawn := s.drawn + 1 }
    if ErrUnit.surely unit || Config.freeBit s.drawn then s'.setFlips unit all else s'.corrupt unit)
/-- PATROL_SCRUB: a corrected unit of memory is written back, and the slice counts; no value that a program observes
changes, no tile is marked. The words of the host-coherent window are scrubbed and counted too (R37 names far and near
memory only; DESIGN CHOICE, log 71). -/
def execPatrolScrub (unit : ErrUnit) (s : State) : Host.Outcome State Fault Refusal :=
  .next (match unit with
  | .dev pa =>
    let k := sliceOf pa
    if (s.flips unit).isEmpty then s
    else if s.uncorrectable unit then { s with errUncorrected := SMap.set s.errUncorrected k (SMap.getD s.errUncorrected k 0 + 1) 0 }
    else { s.clearErr unit with errCorrected := SMap.set s.errCorrected k (SMap.getD s.errCorrected k 0 + 1) 0 }
  | _ => s)

end Sys2Proof.Machine
end

