-- ==== Sys2Proof/Machine/Matrix.lean ====
section
/-! DEFINITION. The matrix engine, accumulator rows and their checksums: classes MX and AX (07 R133, R134; 18 R290 to
R299). -/
namespace Sys2Proof.Machine
open Sys2Proof

/-! ## Fragments (05 R105, 18 R291, R292, R296) -/

/-- Products that one group sum adds (R133). -/
def groupOf : MxType → Nat
  | .bf16 => 4
  | .f16 => 4
  | .nq4 => 64
  | .nq4e5 => 64
  | _ => 8
/-- K (R291). -/
def kOf : MxType → Nat
  | .bf16 => 16
  | .f16 => 16
  | .nq4 => 64
  | .nq4e5 => 64
  | _ => 32
/-- Format of A's elements. -/
def fmtA : MxType → FFmt
  | .e4m3 => .fE4m3
  | .e4e5 => .fE4m3
  | .e5e4 => .fE5m2
  | .e5m2 => .fE5m2
  | .bf16 => .bf16
  | .f16 => .f16
  | .nq4 => .fE4m3
  | .nq4e5 => .fE5m2
/-- Format of B's elements; NQ4 codes have none. -/
def fmtB : MxType → FFmt
  | .e4m3 => .fE4m3
  | .e4e5 => .fE5m2
  | .e5e4 => .fE4m3
  | .bf16 => .bf16
  | .f16 => .f16
  | _ => .fE5m2
/-- B holds NQ4 codes. -/
def isNq4 : MxType → Bool
  | .nq4 => true
  | .nq4e5 => true
  | _ => false
/-- Fragment fold words for a group width (R105, R296): A with K = 32, 16, 64; B with K = 32 or NQ4, 16. -/
def fragWords (w : Nat) : List DWord :=
  if w = 8 then [0x54CA, 0x1548A, 0x550A, 0x8D51, 0x18951]
  else if w = 16 then [0x50D2, 0x15092, 0x5112, 0x8D12, 0x18912]
  else if w = 32 then [0x4CDA, 0x14C9A, 0x4D1A, 0x8CD3, 0x188D3]
  else [0x48E2, 0x148A2, 0x4922, 0x8C94, 0x18894]
/-- The folding of A. -/
def fragA (w : Nat) (ty : MxType) : FoldWord :=
  FoldWord.of ((fragWords w).getD (if kOf ty = 32 then 0 else if kOf ty = 16 then 1 else 2) 0)
/-- The folding of B. -/
def fragB (w : Nat) (ty : MxType) : FoldWord := FoldWord.of ((fragWords w).getD (if kOf ty = 16 then 4 else 3) 0)
/-- The elements of a plane, row by row, from every lane (12 R98, R294): an exited lane supplies zero bytes. -/
def View.planeElemsAll (x : View) (f : FoldWord) (base : Nat) : List Nat :=
  (List.range (f.extent .y)).flatMap (fun y => (List.range (f.extent .x)).map (fun c => x.elem f base 0 ⟨c, y, 0, 0⟩))
/-- The 64 block scale codes that follow B's fragment (R292). -/
def View.scaleCodes (x : View) (base : Nat) : List Nat :=
  (List.range 64).map (fun j =>
    let w := j / 4
    (x.laneOf (base + w / x.w) (w % x.w)).toNat / 2 ^ (8 * (j % 4)) % 256)

/-! ## The arithmetic (07 R123, R133, R134) -/

/-- An exact product; zero times infinity is a NaN. -/
def productOf (x y : FVal) : FVal :=
  if x.isNan || y.isNan then .nan false 0 true else (x.times y).getD (.nan false 0 true)
/-- An exact group sum: exactly zero with sign − only when every term is −0.0 (R133, R134). -/
def groupSum : List FVal → FVal
  | [] => .num false 0 0
  | t :: ts => ts.foldl exactSum t
/-- One rounding: acc + p (R133). -/
def accAdd (acc : Nat) (p : FVal) : Nat :=
  match FFmt.f32.nanOf .plain [FFmt.f32.val acc, p] with
  | some r => r.1
  | none => (FFmt.f32.sum .plain (FFmt.f32.val acc) p).1
/-- B's element at row k, column j. An NQ4 element is scaled before the products are summed, as R123 defines its value (DESIGN
CHOICE, log 54). -/
def elemB (ty : MxType) (b codes : List Nat) (scale : Word) (k j : Nat) : FVal :=
  if isNq4 ty then
    let c := b.getD (k / 2 * 64 + j) 0 / 16 ^ (k % 2) % 16
    productOf (nqVal c) (FFmt.f32.val (blockScale scale.toNat (codes.getD j 0)))
  else (fmtB ty).val (b.getD (k * 64 + j) 0)
/-- One element of the tile after the operation: the groups in increasing K. -/
def mmaElem (ty : MxType) (a b codes : List Nat) (scale : Word) (i j acc : Nat) : Nat :=
  let g := groupOf ty
  (List.range (kOf ty / g)).foldl (fun acc n =>
    accAdd acc (groupSum ((List.range g).map (fun t =>
      let k := n * g + t
      productOf ((fmtA ty).val (a.getD (i * kOf ty + k) 0)) (elemB ty b codes scale k j))))) acc

/-! ## Accumulator words and checksums (03 R68, R298) -/

/-- An accumulator word as the engine reads it: a detected uncorrectable error leaves its flipped bits in it. -/
def State.accSeen (s : State) (team side k : Nat) : Word :=
  let u := ErrUnit.acc team side k
  let x := SMap.getD (s.sideOf team side).acc k 0
  if s.uncorrectable u then (s.flips u).foldl (fun a b => a ^^^ BitVec.ofNat 32 (2 ^ b)) x else x
/-- An accumulator word carries poison. -/
def State.accPoison (s : State) (team side k : Nat) : Bool :=
  (s.sideOf team side).accBad.contains k || s.uncorrectable (.acc team side k)
/-- A side of a team changed. -/
def State.modSide (s : State) (team side : Nat) (f : Side → Side) : State :=
  s.modTeam team (fun t => t.setSide side (f (t.side side)))
/-- An accumulator word written: its error and its poison are gone. -/
def State.accWrite (s : State) (team side k : Nat) (x : Word) : State :=
  (s.modSide team side (fun d => { d with acc := SMap.set d.acc k x 0, accBad := d.accBad.filter (· ≠ k) })).clearErr
    (.acc team side k)
/-- XOR of words. -/
def xorAll (ws : List Word) : Word := ws.foldl (· ^^^ ·) 0
/-- XOR of a row's words. -/
def State.rowXor (s : State) (team side r : Nat) : Word :=
  xorAll ((List.range 64).map (fun c => s.accSeen team side (64 * r + c)))
/-- XOR of a column's words in a granule. -/
def State.colXor (s : State) (team side g c : Nat) : Word :=
  xorAll ((List.range 64).map (fun i => s.accSeen team side (64 * (64 * g + i) + c)))
/-- The checksum word of a row recomputed. -/
def State.fixRow (s : State) (team side r : Nat) : State :=
  let x := s.rowXor team side r
  s.modSide team side (fun d => { d with accCol := SMap.set d.accCol r x 0 })
/-- One word of a granule's checksum row recomputed. -/
def State.fixCol (s : State) (team side g c : Nat) : State :=
  let x := s.colXor team side g c
  s.modSide team side (fun d => { d with accRow := SMap.set d.accRow (64 * g + c) x 0 })
/-- A correction counted in the core's management counters. -/
def State.countFix (s : State) (core : Nat) : State :=
  s.setCore core { s.core core with corrected := (s.core core).corrected + 1 }
/-- verify(g) of R298: the state with its correction, or none for ACC-INTEGRITY. -/
def State.verify (s : State) (core team side g : Nat) : Option State :=
  let d := s.sideOf team side
  let rows := ((List.range 64).map (fun i => (64 * g + i, s.rowXor team side (64 * g + i) ^^^ SMap.getD d.accCol (64 * g + i) 0))).filter
    (fun r => r.2 ≠ 0)
  let cols := ((List.range 64).map (fun c => (c, s.colXor team side g c ^^^ SMap.getD d.accRow (64 * g + c) 0))).filter (fun c => c.2 ≠ 0)
  match rows, cols with
  | [], [] => some s
  | [(r, x)], [(c, y)] =>
    if x = y then some ((s.accWrite team side (64 * r + c) (s.accSeen team side (64 * r + c) ^^^ x)).countFix core) else none
  | [(r, _)], [] => some ((s.fixRow team side r).countFix core)
  | [], [(c, _)] => some ((s.fixCol team side g c).countFix core)
  | _, _ => none
/-- Every granule that rows touch verified, in order: the state so far, and whether all are sound. -/
def State.verifyAll (s : State) (core team side : Nat) : List Nat → State × Bool
  | [] => (s, true)
  | g :: gs => match s.verify core team side g with
    | some s => s.verifyAll core team side gs
    | none => (s, false)
/-- Granules of n rows from a row. -/
def rowGranules (row n : Nat) : List Nat := (List.range ((row + n - 1) / 64 - row / 64 + 1)).map (row / 64 + ·)
/-- Words of rows written, row by row, and the checksums of what they touch. -/
def State.setRows (s : State) (team side row n : Nat) (f : Nat → Word) : State :=
  let s := (List.range (64 * n)).foldl (fun s k => s.accWrite team side (64 * row + k) (f k)) s
  let s := (List.range n).foldl (fun s i => s.fixRow team side (row + i)) s
  (rowGranules row n).foldl (fun s g => (List.range 64).foldl (fun s c => s.fixCol team side g c) s) s
/-- A row of n rows carries poison. -/
def State.rowsPoisoned (s : State) (team side row n : Nat) : Bool :=
  (List.range (64 * n)).any (fun k => s.accPoison team side (64 * row + k))

/-! ## The engine's steps (R291, R294, R295, R299) -/

/-- The rows that an operation touches. -/
def OpKind.rows : OpKind → Nat × Nat
  | .mma _ _ _ _ _ r _ => (r, 64)
  | .zero r => (r, 64)
  | .drain _ _ _ r n => (r, n)
  | .fill _ r n => (r, n)
  | .check r n => (r, n)
  | _ => (0, 0)
/-- An operation takes values out of its rows. -/
def OpKind.consumes : OpKind → Bool
  | .mma .. => true
  | .drain .. => true
  | _ => false
/-- A drained word as its cast's image: RNE, FMT ignored; an overflow to E4M3 is the NaN with the sign (R126, R299; log 52). -/
def drainCast (m : DrnMod) (x : Word) : Nat :=
  match m.cvt with
  | .f32 => x.toNat
  | .f16 => (FFmt.f16.ofVal .noFmt m.sat (FFmt.f32.val x.toNat)).1
  | .bf16 => (FFmt.bf16.ofVal .noFmt m.sat (FFmt.f32.val x.toNat)).1
  | .e4m3 => (FFmt.fE4m3.ofVal .noFmt m.sat (FFmt.f32.val x.toNat)).1
  | .e5m2 => (FFmt.fE5m2.ofVal .noFmt m.sat (FFmt.f32.val x.toNat)).1
/-- A's tile, row by row, from the scratchpad, with its poison (R294). -/
def State.tileA (s : State) (team side off : Nat) (ty : MxType) : List Nat × Bool :=
  let z := if kOf ty = 16 then 2 else 1
  let (bs, bad) := s.spadRead team side off (64 * kOf ty * z)
  ((List.range (64 * kOf ty)).map (fun i => leNat ((bs.drop (i * z)).take z)), bad.any (fun b => b))
/-- The effect of an operation on rows that have been verified. -/
def State.matrixEffect (s : State) (o : Op) (side : Nat) : State :=
  match o.kind with
  | .mma ty a b codes spadA row scale =>
    let a := match spadA with
      | some off => (s.tileA o.team side off ty).1
      | none => a
    s.setRows o.team side row 64 (fun k =>
      BitVec.ofNat 32 (mmaElem ty a b codes scale (k / 64) (k % 64) (s.accSeen o.team side (64 * row + k)).toNat))
  | .zero row => s.setRows o.team side row 64 (fun _ => 0)
  | .fill ws row n => s.setRows o.team side row n (fun k => ws.getD k 0)
  | .drain m d w row n =>
    let f := FoldWord.of w
    let s' := s.modGroup o.grp (fun g => (List.range (64 * n)).foldl (fun g k =>
      let (l, e) := f.place ⟨k % 64, k / 64, 0, 0⟩
      g.putElem d l f.ew e (drainCast m (s.accSeen o.team side (64 * row + k))))
      ((List.range (2 ^ (f.gx + f.gy))).foldl (fun g l => g.wipePlane f d l) g))
    if m.clr then s'.setRows o.team side row n (fun _ => 0) else s'
  | _ => s
/-- Poison that an operation would take in: of its rows, or of A's tile. -/
def State.matrixPoison (s : State) (o : Op) (side : Nat) : Bool :=
  (o.kind.consumes && s.rowsPoisoned o.team side o.kind.rows.1 o.kind.rows.2) ||
    (match o.kind with
      | .mma ty _ _ _ (some off) _ _ => (s.tileA o.team side off ty).2
      | _ => false)
/-- MATRIX_OP_COMPLETE: the engine's oldest operation ends. It takes effect whole, or faults without effect
(R298, R311). -/
def execMatrixOpComplete (id : Nat) (s : State) : Host.Outcome State Fault Refusal :=
  .next (match SMap.find? s.ops id with
  | none => s
  | some o =>
    if !o.kind.onM || (s.core o.core).mxOrder.head? != some id then s
    else
      let s := s.setCore o.core { s.core o.core with mxOrder := (s.core o.core).mxOrder.tail }
      let side := match s.opSpad o with
        | some (_, i, _) => i
        | none => 0
      let (t, ok) := s.verifyAll o.core o.team side (rowGranules o.kind.rows.1 o.kind.rows.2)
      if !ok then (t.opFault id 0 o .accIntegrity 0 0).complete id 0
      else if t.matrixPoison o side then (t.opFault id 0 o .poison 0 1).complete id 0
      else (t.matrixEffect o side).complete id 0)

/-! ## MX (R290 to R294) -/

/-- Row origin within the group's window (R117). -/
def View.tileInWindow (x : View) (c : Nat) : Bool := decide (x.g.abase ≤ c) && decide (c + 64 ≤ x.g.alimit)
/-- The checks of R293: a fault, or none. -/
def View.mxCheck (x : View) (ty : MxType) (a : Option Nat) (b : Nat) (cc : USrc) (c : Nat) (off : Option Nat) :
    Option (Code × DWord) :=
  let na := (fragA x.w ty).nreg
  let nb := (fragB x.w ty).nreg + (if isNq4 ty then 2 else 0)
  let pairOk : Bool := match cc with
    | .s n => n.val % 2 == 0
    | _ => false
  let size := 64 * kOf ty * (if kOf ty = 16 then 2 else 1)
  if isNq4 ty ∧ !pairOk then some (.illegalOperand, 0)
  else if (match a with | some a => decide (x.regs < a + na) | none => false) || decide (x.regs < b + nb) then
    some (.registerRange, 0)
  else if !x.tileInWindow c then some (.accWindow, 0)
  else match off with
    | none => none
    | some o =>
      if o % 128 ≠ 0 then some (.misaligned, BitVec.ofNat 64 o)
      else if x.e.body.spadBytes < o + size then some (.address, BitVec.ofNat 64 o)
      else none
/-- The shape of MMA and MMAS. -/
def mxWord {α : Type} (w : FmtX α (Fin 256) USrc MxType) (reads : Bool) (a : View → Option Nat) (off : View → Option Nat)
    (s : State) : Host.Outcome State Fault Refusal :=
  onPath s (fun x =>
    let y := x.sample (USrc.isClk w.cc || reads)
    let c := (y.uni w.cc).toNat
    if !x.guardOn w.g then (x.retire w.q .none).commit
    else match y.mxCheck w.mod (a y) w.b.val w.cc c (off y) with
      | some (f, addr) => x.raise f addr 0 0
      | none =>
        if !x.tagRoom w.tag.val 1 then x.s
        else
          let fb := fragB x.w w.mod
          let ea := match a y with
            | some r => y.planeElemsAll (fragA x.w w.mod) r
            | none => []
          let codes := if isNq4 w.mod then y.scaleCodes (w.b.val + fb.nreg) else []
          let scale := match w.cc with
            | .s n => x.g.sreg (n.val + 1)
            | _ => 0
          y.oneOp w (.mma w.mod ea (y.planeElemsAll fb w.b.val) codes (off y) c scale) [])
/-- MX.MMA. -/
def execMxMma (w : FmtX (Fin 256) (Fin 256) USrc MxType) (s : State) : Host.Outcome State Fault Refusal :=
  mxWord w false (fun _ => some w.a.val) (fun _ => none) s
/-- MX.MMAS. -/
def execMxMmas (w : FmtX USrc (Fin 256) USrc MxType) (s : State) : Host.Outcome State Fault Refusal :=
  mxWord w (USrc.isClk w.a) (fun _ => none) (fun x => some (x.uni w.a).toNat) s
/-- MX.ZERO. -/
def execMxZero (w : FmtX Unit Unit USrc Unit) (s : State) : Host.Outcome State Fault Refusal :=
  onPath s (fun x =>
    let y := x.sample (USrc.isClk w.cc)
    let c := (y.uni w.cc).toNat
    if !x.guardOn w.g then (x.retire w.q .none).commit
    else if !x.tileInWindow c then x.raise .accWindow 0 0 0
    else if !x.tagRoom w.tag.val 1 then x.s
    else y.oneOp w (.zero c) [])

/-! ## AX (R297 to R299) -/

/-- AX.WIN: the leader sets windows; they hold for the targets' next accumulator words (06 R117). -/
def execAxWin (w : FmtA Unit USrc USrc USrc Unit) (s : State) : Host.Outcome State Fault Refusal :=
  onPath s (fun x =>
    let y := x.sample (USrc.isClk w.a || USrc.isClk w.b || USrc.isClk w.cc)
    let a := (y.uni w.a).toNat
    let b := (y.uni w.b).toNat
    let c := (y.uni w.cc).toNat
    if !x.guardOn w.g then (x.retire w.q .none).commit
    else if x.g.idx ≠ 0 then x.raise .illegalInstruction 0 0 0
    else if (a ≠ 0xFFFFFFFF ∧ x.e.body.groups ≤ a) ∨ c < b ∨ x.e.body.accRows < c then x.raise .illegalOperand 0 0 0
    else
      let t := (y.retire w.q .none).commit
      { t with groups := t.groups.map (fun (e : Nat × Group) =>
          if e.2.team == x.tid && (a == 0xFFFFFFFF || e.2.idx == a) then (e.1, { (e.2.wipe 65784).wipe 65785 with abase := b, alimit := c }) else e) })
/-- Rows within the group's window. -/
def View.rowsInWindow (x : View) (b n : Nat) : Bool := n != 0 && decide (x.g.abase ≤ b) && decide (b + n ≤ x.g.alimit)
/-- EW that a cast needs. -/
def castEw : AxCvt → Nat
  | .f32 => 2
  | .f16 => 1
  | .bf16 => 1
  | .e4m3 => 0
  | .e5m2 => 0
/-- The checks of R299. -/
def View.axCheck (x : View) (w : DWord) (cvt : AxCvt) (d b n : Nat) : Option Code :=
  let f := FoldWord.of w
  if !x.rowsInWindow b n then some .accWindow
  else if f.extent .x ≠ 64 ∨ f.extent .y ≠ n ∨ f.s0 ≠ 0 ∨ f.s1 ≠ 0 ∨ 2 ^ (f.gx + f.gy) ≠ x.w ∨ f.ew ≠ castEw cvt then
    some .foldInvalid
  else if x.regs < d + f.nreg then some .registerRange
  else none
/-- The shape of DRN and FIL. -/
def axWord {α μ : Type} (w : FmtX α USrc USrc μ) (chk : View → Nat → Nat → Option Code) (kind : View → Nat → Nat → OpKind)
    (s : State) : Host.Outcome State Fault Refusal :=
  onPath s (fun x =>
    let y := x.sample (USrc.isClk w.b || USrc.isClk w.cc)
    let b := (y.uni w.b).toNat
    let n := (y.uni w.cc).toNat
    if !x.guardOn w.g then (x.retire w.q .none).commit
    else match chk y b n with
      | some c => x.raise c 0 0 0
      | none => if !x.tagRoom w.tag.val 1 then x.s else y.oneOp w (kind y b n) [])
/-- AX.DRN. -/
def execAxDrn (w : FmtX (Fin 256) USrc USrc DrnMod) (s : State) : Host.Outcome State Fault Refusal :=
  axWord w (fun x b n => x.axCheck (x.g.fold w.mod.freg.val) w.mod.cvt w.a.val b n)
    (fun x b n => .drain w.mod w.a.val (x.g.fold w.mod.freg.val) b n) s
/-- An element widened exactly to FP32; a NaN keeps its sign and fraction (log 52). -/
def fillCast (c : AxCvt) (x : Nat) : Word :=
  match c with
  | .f32 => BitVec.ofNat 32 x
  | .f16 => BitVec.ofNat 32 (FFmt.f32.ofVal .noFmt false (FFmt.f16.val x)).1
  | .bf16 => BitVec.ofNat 32 (FFmt.f32.ofVal .noFmt false (FFmt.bf16.val x)).1
  | .e4m3 => BitVec.ofNat 32 (FFmt.f32.ofVal .noFmt false (FFmt.fE4m3.val x)).1
  | .e5m2 => BitVec.ofNat 32 (FFmt.f32.ofVal .noFmt false (FFmt.fE5m2.val x)).1
/-- AX.FIL. -/
def execAxFil (w : FmtX (Fin 256) USrc USrc FilMod) (s : State) : Host.Outcome State Fault Refusal :=
  axWord w (fun x b n => x.axCheck (x.g.fold w.mod.freg.val) w.mod.cvt w.a.val b n)
    (fun x b n => .fill ((x.planeElemsAll (FoldWord.of (x.g.fold w.mod.freg.val)) w.a.val).map (fillCast w.mod.cvt)) b n) s
/-- AX.CHK. -/
def execAxChk (w : FmtX Unit USrc USrc Unit) (s : State) : Host.Outcome State Fault Refusal :=
  axWord w (fun x b n => if x.rowsInWindow b n then none else some .accWindow) (fun _ b n => .check b n) s

end Sys2Proof.Machine
end

