-- ==== Sys2Proof/Machine/Dispatch.lean ====
section
/-! DEFINITION. One arm for every constructor of Instr: a direct call of its meaning. -/
namespace Sys2Proof.Machine
open Sys2Proof

/-- The meaning of an instruction word on the selected path, or of an operation or event on the module. -/
def exec (i : Instr) (s : State) : Host.Outcome State Fault Refusal :=
  match i with
  | .syNop w => Sys2Proof.Machine.execSyNop w s
  | .syExit w => Sys2Proof.Machine.execSyExit w s
  | .syTrap w => Sys2Proof.Machine.execSyTrap w s
  | .syTret w => Sys2Proof.Machine.execSyTret w s
  | .syYield w => Sys2Proof.Machine.execSyYield w s
  | .sySleep w => Sys2Proof.Machine.execSySleep w s
  | .syBkpt w => Sys2Proof.Machine.execSyBkpt w s
  | .syGets w => Sys2Proof.Machine.execSyGets w s
  | .sySets w => Sys2Proof.Machine.execSySets w s
  | .sySfmt w => Sys2Proof.Machine.execSySfmt w s
  | .sySetx w => Sys2Proof.Machine.execSySetx w s
  | .syGetx w => Sys2Proof.Machine.execSyGetx w s
  | .syHalt w => Sys2Proof.Machine.execSyHalt w s
  | .brBra w => Sys2Proof.Machine.execBrBra w s
  | .brBrv w => Sys2Proof.Machine.execBrBrv w s
  | .brJoin w => Sys2Proof.Machine.execBrJoin w s
  | .brRegang w => Sys2Proof.Machine.execBrRegang w s
  | .brCall w => Sys2Proof.Machine.execBrCall w s
  | .brCallv w => Sys2Proof.Machine.execBrCallv w s
  | .brRet w => Sys2Proof.Machine.execBrRet w s
  | .brBrx w => Sys2Proof.Machine.execBrBrx w s
  | .siAdd w => Sys2Proof.Machine.execSiAdd w s
  | .siSub w => Sys2Proof.Machine.execSiSub w s
  | .siMul w => Sys2Proof.Machine.execSiMul w s
  | .siMulh w => Sys2Proof.Machine.execSiMulh w s
  | .siMad w => Sys2Proof.Machine.execSiMad w s
  | .siAnd w => Sys2Proof.Machine.execSiAnd w s
  | .siOr w => Sys2Proof.Machine.execSiOr w s
  | .siXor w => Sys2Proof.Machine.execSiXor w s
  | .siShl w => Sys2Proof.Machine.execSiShl w s
  | .siShr w => Sys2Proof.Machine.execSiShr w s
  | .siSra w => Sys2Proof.Machine.execSiSra w s
  | .siMin w => Sys2Proof.Machine.execSiMin w s
  | .siMax w => Sys2Proof.Machine.execSiMax w s
  | .siMinu w => Sys2Proof.Machine.execSiMinu w s
  | .siMaxu w => Sys2Proof.Machine.execSiMaxu w s
  | .siClz w => Sys2Proof.Machine.execSiClz w s
  | .siPopc w => Sys2Proof.Machine.execSiPopc w s
  | .siSel w => Sys2Proof.Machine.execSiSel w s
  | .siAdd64 w => Sys2Proof.Machine.execSiAdd64 w s
  | .siSub64 w => Sys2Proof.Machine.execSiSub64 w s
  | .siMul64 w => Sys2Proof.Machine.execSiMul64 w s
  | .siCmp w => Sys2Proof.Machine.execSiCmp w s
  | .smMov w => Sys2Proof.Machine.execSmMov w s
  | .smMovi w => Sys2Proof.Machine.execSmMovi w s
  | .smMovh w => Sys2Proof.Machine.execSmMovh w s
  | .smQand w => Sys2Proof.Machine.execSmQand w s
  | .smQor w => Sys2Proof.Machine.execSmQor w s
  | .smQxor w => Sys2Proof.Machine.execSmQxor w s
  | .smQnot w => Sys2Proof.Machine.execSmQnot w s
  | .smQmov w => Sys2Proof.Machine.execSmQmov w s
  | .viAdd w => Sys2Proof.Machine.execViAdd w s
  | .viSub w => Sys2Proof.Machine.execViSub w s
  | .viMul w => Sys2Proof.Machine.execViMul w s
  | .viMulh w => Sys2Proof.Machine.execViMulh w s
  | .viMulhu w => Sys2Proof.Machine.execViMulhu w s
  | .viMad w => Sys2Proof.Machine.execViMad w s
  | .viMad64 w => Sys2Proof.Machine.execViMad64 w s
  | .viAnd w => Sys2Proof.Machine.execViAnd w s
  | .viOr w => Sys2Proof.Machine.execViOr w s
  | .viXor w => Sys2Proof.Machine.execViXor w s
  | .viNot w => Sys2Proof.Machine.execViNot w s
  | .viShl w => Sys2Proof.Machine.execViShl w s
  | .viShr w => Sys2Proof.Machine.execViShr w s
  | .viSra w => Sys2Proof.Machine.execViSra w s
  | .viMin w => Sys2Proof.Machine.execViMin w s
  | .viMax w => Sys2Proof.Machine.execViMax w s
  | .viMinu w => Sys2Proof.Machine.execViMinu w s
  | .viMaxu w => Sys2Proof.Machine.execViMaxu w s
  | .viAbs w => Sys2Proof.Machine.execViAbs w s
  | .viNeg w => Sys2Proof.Machine.execViNeg w s
  | .viAdds w => Sys2Proof.Machine.execViAdds w s
  | .viSubs w => Sys2Proof.Machine.execViSubs w s
  | .viClz w => Sys2Proof.Machine.execViClz w s
  | .viPopc w => Sys2Proof.Machine.execViPopc w s
  | .viBfe w => Sys2Proof.Machine.execViBfe w s
  | .viBfi w => Sys2Proof.Machine.execViBfi w s
  | .viSel w => Sys2Proof.Machine.execViSel w s
  | .viDot4 w => Sys2Proof.Machine.execViDot4 w s
  | .viDot2 w => Sys2Proof.Machine.execViDot2 w s
  | .viAdd64 w => Sys2Proof.Machine.execViAdd64 w s
  | .viSub64 w => Sys2Proof.Machine.execViSub64 w s
  | .vjAddi w => Sys2Proof.Machine.execVjAddi w s
  | .vjAndi w => Sys2Proof.Machine.execVjAndi w s
  | .vjOri w => Sys2Proof.Machine.execVjOri w s
  | .vjXori w => Sys2Proof.Machine.execVjXori w s
  | .vjShli w => Sys2Proof.Machine.execVjShli w s
  | .vjMovi w => Sys2Proof.Machine.execVjMovi w s
  | .vfAdd w => Sys2Proof.Machine.execVfAdd w s
  | .vfSub w => Sys2Proof.Machine.execVfSub w s
  | .vfMul w => Sys2Proof.Machine.execVfMul w s
  | .vfFma w => Sys2Proof.Machine.execVfFma w s
  | .vfMin w => Sys2Proof.Machine.execVfMin w s
  | .vfMax w => Sys2Proof.Machine.execVfMax w s
  | .vfMinn w => Sys2Proof.Machine.execVfMinn w s
  | .vfMaxn w => Sys2Proof.Machine.execVfMaxn w s
  | .vfFloor w => Sys2Proof.Machine.execVfFloor w s
  | .vfCeil w => Sys2Proof.Machine.execVfCeil w s
  | .vfTrunc w => Sys2Proof.Machine.execVfTrunc w s
  | .vfRint w => Sys2Proof.Machine.execVfRint w s
  | .vfFract w => Sys2Proof.Machine.execVfFract w s
  | .vfLdexp w => Sys2Proof.Machine.execVfLdexp w s
  | .vfGetexp w => Sys2Proof.Machine.execVfGetexp w s
  | .vfGetmant w => Sys2Proof.Machine.execVfGetmant w s
  | .vhAdd w => Sys2Proof.Machine.execVhAdd w s
  | .vhSub w => Sys2Proof.Machine.execVhSub w s
  | .vhMul w => Sys2Proof.Machine.execVhMul w s
  | .vhFma w => Sys2Proof.Machine.execVhFma w s
  | .vhMin w => Sys2Proof.Machine.execVhMin w s
  | .vhMax w => Sys2Proof.Machine.execVhMax w s
  | .vhDot2 w => Sys2Proof.Machine.execVhDot2 w s
  | .vdAdd w => Sys2Proof.Machine.execVdAdd w s
  | .vdSub w => Sys2Proof.Machine.execVdSub w s
  | .vdMul w => Sys2Proof.Machine.execVdMul w s
  | .vdFma w => Sys2Proof.Machine.execVdFma w s
  | .vdMin w => Sys2Proof.Machine.execVdMin w s
  | .vdMax w => Sys2Proof.Machine.execVdMax w s
  | .vdRint w => Sys2Proof.Machine.execVdRint w s
  | .cvCvt w => Sys2Proof.Machine.execCvCvt w s
  | .cvPack w => Sys2Proof.Machine.execCvPack w s
  | .cvUnpk w => Sys2Proof.Machine.execCvUnpk w s
  | .cvQnt w => Sys2Proof.Machine.execCvQnt w s
  | .cvDqnt w => Sys2Proof.Machine.execCvDqnt w s
  | .cvQf8 w => Sys2Proof.Machine.execCvQf8 w s
  | .cvSrnd w => Sys2Proof.Machine.execCvSrnd w s
  | .vcCmp w => Sys2Proof.Machine.execVcCmp w s
  | .vcClass w => Sys2Proof.Machine.execVcClass w s
  | .vcTest w => Sys2Proof.Machine.execVcTest w s
  | .clShfl w => Sys2Proof.Machine.execClShfl w s
  | .clShfx w => Sys2Proof.Machine.execClShfx w s
  | .clRfl w => Sys2Proof.Machine.execClRfl w s
  | .clRdl w => Sys2Proof.Machine.execClRdl w s
  | .clWrl w => Sys2Proof.Machine.execClWrl w s
  | .clRed w => Sys2Proof.Machine.execClRed w s
  | .clScan w => Sys2Proof.Machine.execClScan w s
  | .clBallot w => Sys2Proof.Machine.execClBallot w s
  | .clAny w => Sys2Proof.Machine.execClAny w s
  | .clAll w => Sys2Proof.Machine.execClAll w s
  | .clShtl w => Sys2Proof.Machine.execClShtl w s
  | .prAnd w => Sys2Proof.Machine.execPrAnd w s
  | .prOr w => Sys2Proof.Machine.execPrOr w s
  | .prXor w => Sys2Proof.Machine.execPrXor w s
  | .prNot w => Sys2Proof.Machine.execPrNot w s
  | .prMov w => Sys2Proof.Machine.execPrMov w s
  | .prSet w => Sys2Proof.Machine.execPrSet w s
  | .prCnt w => Sys2Proof.Machine.execPrCnt w s
  | .sfRcp w => Sys2Proof.Machine.execSfRcp w s
  | .sfRsq w => Sys2Proof.Machine.execSfRsq w s
  | .sfSqrt w => Sys2Proof.Machine.execSfSqrt w s
  | .sfExp2 w => Sys2Proof.Machine.execSfExp2 w s
  | .sfLog2 w => Sys2Proof.Machine.execSfLog2 w s
  | .sfSin w => Sys2Proof.Machine.execSfSin w s
  | .sfCos w => Sys2Proof.Machine.execSfCos w s
  | .sfTanh w => Sys2Proof.Machine.execSfTanh w s
  | .plShf w => Sys2Proof.Machine.execPlShf w s
  | .plRot w => Sys2Proof.Machine.execPlRot w s
  | .plSpr w => Sys2Proof.Machine.execPlSpr w s
  | .plFld w => Sys2Proof.Machine.execPlFld w s
  | .plScn w => Sys2Proof.Machine.execPlScn w s
  | .plTrn w => Sys2Proof.Machine.execPlTrn w s
  | .plRfd w => Sys2Proof.Machine.execPlRfd w s
  | .fdSet w => Sys2Proof.Machine.execFdSet w s
  | .fdGet w => Sys2Proof.Machine.execFdGet w s
  | .fdChk w => Sys2Proof.Machine.execFdChk w s
  | .ld w => Sys2Proof.Machine.execLd w s
  | .ldu w => Sys2Proof.Machine.execLdu w s
  | .ldp w => Sys2Proof.Machine.execLdp w s
  | .st w => Sys2Proof.Machine.execSt w s
  | .stu w => Sys2Proof.Machine.execStu w s
  | .stp w => Sys2Proof.Machine.execStp w s
  | .atAdd w => Sys2Proof.Machine.execAtAdd w s
  | .atSub w => Sys2Proof.Machine.execAtSub w s
  | .atMin w => Sys2Proof.Machine.execAtMin w s
  | .atMax w => Sys2Proof.Machine.execAtMax w s
  | .atMinu w => Sys2Proof.Machine.execAtMinu w s
  | .atMaxu w => Sys2Proof.Machine.execAtMaxu w s
  | .atAnd w => Sys2Proof.Machine.execAtAnd w s
  | .atOr w => Sys2Proof.Machine.execAtOr w s
  | .atXor w => Sys2Proof.Machine.execAtXor w s
  | .atXchg w => Sys2Proof.Machine.execAtXchg w s
  | .atCas w => Sys2Proof.Machine.execAtCas w s
  | .atFadd w => Sys2Proof.Machine.execAtFadd w s
  | .atXadd w => Sys2Proof.Machine.execAtXadd w s
  | .atXrd w => Sys2Proof.Machine.execAtXrd w s
  | .snFence w => Sys2Proof.Machine.execSnFence w s
  | .snXf w => Sys2Proof.Machine.execSnXf w s
  | .snBinit w => Sys2Proof.Machine.execSnBinit w s
  | .snBar w => Sys2Proof.Machine.execSnBar w s
  | .snBara w => Sys2Proof.Machine.execSnBara w s
  | .snBarw w => Sys2Proof.Machine.execSnBarw w s
  | .snMarm w => Sys2Proof.Machine.execSnMarm w s
  | .snMwait w => Sys2Proof.Machine.execSnMwait w s
  | .snFlush w => Sys2Proof.Machine.execSnFlush w s
  | .snInv w => Sys2Proof.Machine.execSnInv w s
  | .cpLane w => Sys2Proof.Machine.execCpLane w s
  | .cpBulk w => Sys2Proof.Machine.execCpBulk w s
  | .cpMcast w => Sys2Proof.Machine.execCpMcast w s
  | .cpStamp w => Sys2Proof.Machine.execCpStamp w s
  | .cpArrv w => Sys2Proof.Machine.execCpArrv w s
  | .tkWait w => Sys2Proof.Machine.execTkWait w s
  | .tkTst w => Sys2Proof.Machine.execTkTst w s
  | .tkCan w => Sys2Proof.Machine.execTkCan w s
  | .tkCnt w => Sys2Proof.Machine.execTkCnt w s
  | .mxMma w => Sys2Proof.Machine.execMxMma w s
  | .mxMmas w => Sys2Proof.Machine.execMxMmas w s
  | .mxZero w => Sys2Proof.Machine.execMxZero w s
  | .axWin w => Sys2Proof.Machine.execAxWin w s
  | .axDrn w => Sys2Proof.Machine.execAxDrn w s
  | .axFil w => Sys2Proof.Machine.execAxFil w s
  | .axChk w => Sys2Proof.Machine.execAxChk w s
  | .fbPut w => Sys2Proof.Machine.execFbPut w s
  | .fbGet w => Sys2Proof.Machine.execFbGet w s
  | .fbRed w => Sys2Proof.Machine.execFbRed w s
  | .fbAta w => Sys2Proof.Machine.execFbAta w s
  | .fbCmb w => Sys2Proof.Machine.execFbCmb w s
  | .fbArrv w => Sys2Proof.Machine.execFbArrv w s
  | .dvReg w => Sys2Proof.Machine.execDvReg w s
  | .dvUnreg w => Sys2Proof.Machine.execDvUnreg w s
  | .dvQry w => Sys2Proof.Machine.execDvQry w s
  | .dvWarm w => Sys2Proof.Machine.execDvWarm w s
  | .icLock w => Sys2Proof.Machine.execIcLock w s
  | .icUnlk w => Sys2Proof.Machine.execIcUnlk w s
  | .icInv w => Sys2Proof.Machine.execIcInv w s
  | .kick fnc q tail => Sys2Proof.Machine.execKick fnc q tail s
  | .preemptTeam fnc teamh => Sys2Proof.Machine.execPreemptTeam fnc teamh s
  | .preemptFunction fnc => Sys2Proof.Machine.execPreemptFunction fnc s
  | .vfrstStart n => Sys2Proof.Machine.execVfrstStart n s
  | .functionLevelReset n => Sys2Proof.Machine.execFunctionLevelReset n s
  | .invalidateContext ctx => Sys2Proof.Machine.execInvalidateContext ctx s
  | .invalidatePage ctx => Sys2Proof.Machine.execInvalidatePage ctx s
  | .invalidateRange ctx pages => Sys2Proof.Machine.execInvalidateRange ctx pages s
  | .invalidationComplete => Sys2Proof.Machine.execInvalidationComplete s
  | .seal len => Sys2Proof.Machine.execSeal len s
  | .sealCheck len => Sys2Proof.Machine.execSealCheck len s
  | .attcmd value => Sys2Proof.Machine.execAttcmd value s
  | .dbgteamResume fnc => Sys2Proof.Machine.execDbgteamResume fnc s
  | .queueEnable fnc q value => Sys2Proof.Machine.execQueueEnable fnc q value s
  | .queueDisable fnc q value => Sys2Proof.Machine.execQueueDisable fnc q value s
  | .queueRestart fnc q value => Sys2Proof.Machine.execQueueRestart fnc q value s
  | .partWrite fnc high value => Sys2Proof.Machine.execPartWrite fnc high value s
  | .registerWrite fnc off value => Sys2Proof.Machine.execRegisterWrite fnc off value s
  | .hostWindowRead fnc off n => Sys2Proof.Machine.execHostWindowRead fnc off n s
  | .hostWindowWrite fnc off data => Sys2Proof.Machine.execHostWindowWrite fnc off data s
  | .apertureRead fnc off n => Sys2Proof.Machine.execApertureRead fnc off n s
  | .apertureWrite fnc off data => Sys2Proof.Machine.execApertureWrite fnc off data s
  | .hostAtomicop fnc off op wide operand compare => Sys2Proof.Machine.execHostAtomicop fnc off op wide operand compare s
  | .atsInvalidationRequest pasid va pages => Sys2Proof.Machine.execAtsInvalidationRequest pasid va pages s
  | .atsTranslationCompletion ctx va answer => Sys2Proof.Machine.execAtsTranslationCompletion ctx va answer s
  | .pageRequestResponse ctx va resp => Sys2Proof.Machine.execPageRequestResponse ctx va resp s
  | .pldmEnrollOwnerKey key sig => Sys2Proof.Machine.execPldmEnrollOwnerKey key sig s
  | .pldmRemoveOwnerKey key sig => Sys2Proof.Machine.execPldmRemoveOwnerKey key sig s
  | .pldmAttest nonce => Sys2Proof.Machine.execPldmAttest nonce s
  | .pldmSetPowerLimit watts => Sys2Proof.Machine.execPldmSetPowerLimit watts s
  | .pldmSetScrubRate rate => Sys2Proof.Machine.execPldmSetScrubRate rate s
  | .firmwareStage addr len => Sys2Proof.Machine.execFirmwareStage addr len s
  | .moduleReset => Sys2Proof.Machine.execModuleReset s
  | .entryFetch fnc q => Sys2Proof.Machine.execEntryFetch fnc q s
  | .stampWaitHolds entry second => Sys2Proof.Machine.execStampWaitHolds entry second s
  | .launch entry => Sys2Proof.Machine.execLaunch entry s
  | .barrier entry => Sys2Proof.Machine.execBarrier entry s
  | .flush entry => Sys2Proof.Machine.execFlush entry s
  | .stamp entry => Sys2Proof.Machine.execStamp entry s
  | .teamPlace fnc => Sys2Proof.Machine.execTeamPlace fnc s
  | .groupRetire grp => Sys2Proof.Machine.execGroupRetire grp s
  | .launchComplete entry => Sys2Proof.Machine.execLaunchComplete entry s
  | .watchdog entry => Sys2Proof.Machine.execWatchdog entry s
  | .faultRecorded entry => Sys2Proof.Machine.execFaultRecorded entry s
  | .faultDrainDone entry => Sys2Proof.Machine.execFaultDrainDone entry s
  | .preemptRequest fnc => Sys2Proof.Machine.execPreemptRequest fnc s
  | .timeSliceExpire fnc => Sys2Proof.Machine.execTimeSliceExpire fnc s
  | .preemptBoundExpire team => Sys2Proof.Machine.execPreemptBoundExpire team s
  | .preemptSave team => Sys2Proof.Machine.execPreemptSave team s
  | .vfResetDrainDone n => Sys2Proof.Machine.execVfResetDrainDone n s
  | .vfResetDrainTimeout n => Sys2Proof.Machine.execVfResetDrainTimeout n s
  | .sliceRead req => Sys2Proof.Machine.execSliceRead req s
  | .sliceWrite req => Sys2Proof.Machine.execSliceWrite req s
  | .sliceAtomic req => Sys2Proof.Machine.execSliceAtomic req s
  | .patrolScrub unit => Sys2Proof.Machine.execPatrolScrub unit s
  | .loadReturn req => Sys2Proof.Machine.execLoadReturn req s
  | .recomputeComplete handle tile => Sys2Proof.Machine.execRecomputeComplete handle tile s
  | .pageWalkComplete walk => Sys2Proof.Machine.execPageWalkComplete walk s
  | .lineFill fill => Sys2Proof.Machine.execLineFill fill s
  | .triggerStart op => Sys2Proof.Machine.execTriggerStart op s
  | .copyComplete op => Sys2Proof.Machine.execCopyComplete op s
  | .stampWrite op => Sys2Proof.Machine.execStampWrite op s
  | .arrivalLand op => Sys2Proof.Machine.execArrivalLand op s
  | .deliveryLand op => Sys2Proof.Machine.execDeliveryLand op s
  | .mwaitTimeout grp path => Sys2Proof.Machine.execMwaitTimeout grp path s
  | .sleepExpire grp path => Sys2Proof.Machine.execSleepExpire grp path s
  | .matrixOpComplete op => Sys2Proof.Machine.execMatrixOpComplete op s
  | .fabricPacketReceive pkt => Sys2Proof.Machine.execFabricPacketReceive pkt s
  | .fabricAcknowledge op data bad => Sys2Proof.Machine.execFabricAcknowledge op data bad s
  | .linkRetrained port => Sys2Proof.Machine.execLinkRetrained port s
  | .linkDown port => Sys2Proof.Machine.execLinkDown port s
  | .thermalStop => Sys2Proof.Machine.execThermalStop s
  | .thermalResume => Sys2Proof.Machine.execThermalResume s
  | .thermalShutdown => Sys2Proof.Machine.execThermalShutdown s
  | .softError unit bits => Sys2Proof.Machine.execSoftError unit bits s
  | .droopEvent core => Sys2Proof.Machine.execDroopEvent core s
  | .withholdIssueCycles on => Sys2Proof.Machine.execWithholdIssueCycles on s
  | .hostWriteCompletion req => Sys2Proof.Machine.execHostWriteCompletion req s

end Sys2Proof.Machine
end

