-- ==== Sys2Proof/Machine/Ready.lean ====
section
/-! DEFINITION. When an arm may issue: the scoreboard, the waits of a word, the poison that a register carries, and the
events that the module may take next (06 R110; 08 R144; 13 R246, R249; 14 R258; 21 R324; 22 R341). -/
namespace Sys2Proof.Machine
open Sys2Proof

/-! ## Registers that a word names -/

/-- Two ranges of registers share one. -/
def RegRange.meets (a b : RegRange) : Bool :=
  a.vec == b.vec && decide (a.base < b.base + b.n) && decide (b.base < a.base + a.n)
/-- Registers of a plane (05 R94). -/
def planeRange (base : Nat) (f : FoldWord) : RegRange := ⟨true, base, f.nreg⟩
/-- Registers of the scale codes that follow B's fragment under NQ4 (18 R292). -/
def View.scaleRange (x : View) (base : Nat) (ty : MxType) : RegRange :=
  ⟨true, base + (fragB x.w ty).nreg, if isNq4 ty then ceilDiv 16 x.w else 0⟩
/-- Registers of B's fragment, with its scale codes. -/
def View.fragRange (x : View) (base : Nat) (ty : MxType) : RegRange :=
  ⟨true, base, (fragB x.w ty).nreg + (x.scaleRange base ty).n⟩
/-- Vector registers that a word names through a fold word or a fragment, beyond those of its fields: what it reads, and
what it writes. -/
def View.planes (x : View) (i : Instr) : List RegRange × List RegRange :=
  let f (n : Fin 8) : FoldWord := FoldWord.of (x.g.fold n.val)
  let p {μ : Type} (w : FmtP μ) : List RegRange × List RegRange :=
    ([planeRange w.a.val (f w.freg)], [planeRange w.d.val (f w.freg)])
  match i with
  | .plShf w => p w
  | .plRot w => p w
  | .plSpr w => p w
  | .plFld w => p w
  | .plScn w => p w
  | .plTrn w => p w
  | .plRfd w => ([planeRange w.a.val (f w.freg)], [planeRange w.d.val (f w.mod)])
  | .ldp w => ([], [planeRange w.d.val (f w.sub)])
  | .stp w => ([planeRange w.d.val (f w.sub)], [])
  | .mxMma w => ([planeRange w.a.val (fragA x.w w.mod), x.fragRange w.b.val w.mod], [])
  | .mxMmas w => ([x.fragRange w.b.val w.mod], [])
  | .axDrn w => ([], [planeRange w.a.val (f w.mod.freg)])
  | .axFil w => ([planeRange w.a.val (f w.mod.freg)], [])
  | .st w => (w.d.use (match w.sub with | .b64 => 2 | .b128 => 4 | _ => 1)).regs |> fun r => (r, [])
  | .stu w => (w.d.use (match w.sub with | .b64 => 2 | .b128 => 4 | _ => 1) false).regs |> fun r => (r, [])
  | .atCas w => ([⟨true, w.d.val, if w.sub then 2 else 1⟩], [])
  | _ => ([], [])
/-- Every register that a word names. -/
def View.names (x : View) (i : Instr) : List RegRange := i.use.regs ++ (x.planes i).1 ++ (x.planes i).2
/-- Registers that a word reads. A plane drained into is named in a source field, and is not read. -/
def View.reads (x : View) (i : Instr) : List RegRange :=
  (match i with
    | .axDrn w => (w.b.use 1 false).regs ++ (w.cc.use 1 false).regs
    | i => i.src.regs) ++ (x.planes i).1

/-- A range of registers holds the register of a key: 64n + lane for vn, 65,536 + n for sn. -/
def RegRange.holds (r : RegRange) (k : Nat) : Bool :=
  if 65536 ≤ k then decide (k < 65664) && !r.vec && decide (r.base ≤ k - 65536) && decide (k - 65536 < r.base + r.n)
  else r.vec && decide (r.base ≤ k / 64) && decide (k / 64 < r.base + r.n)

/-! ## The scoreboard (06 R110, 14 R258, R263, 18 R297) -/

/-- Registers that an operation writes when it completes. -/
def OpKind.dests : OpKind → List RegRange
  | .drain _ d fold _ _ => [planeRange d (FoldWord.of fold)]
  | _ => []
/-- Registers that an outstanding load or atomic of the path is to write, by key, with its request. -/
def View.due (x : View) : List (Nat × Nat) :=
  x.g.due.filter (fun d => (decide (65536 ≤ d.1) || hasLane x.p.mask (d.1 % 64)) && match SMap.find? x.s.reqs d.2 with
    | some r => r.ofPath x.gid x.p.mask
    | none => false)
/-- A word reads no register that an outstanding load of its path is to write, and names none that an operation of it is to
write. -/
def View.scoreboardFree (x : View) (i : Instr) : Bool :=
  !x.due.any (fun d => (x.reads i).any (fun r => RegRange.holds r d.1)) &&
    !x.s.ops.any (fun e => e.2.grp == x.gid && (e.2.lanes &&& x.p.mask) != 0 &&
      e.2.kind.dests.any (fun b => (x.names i).any (fun a => RegRange.meets a b)))

/-! ## Poison in registers (01 R36, 12 R229, 18 R294, R312, 23 R347, R356) -/

/-- The keys (of `Group.bad`) of the state words that a guard reads. -/
def guardKeys : Guard → List Nat
  | .always => []
  | .lane n _ => [65664 + n.val]
  | .uni _ _ => [65760]
/-- Those that a predicate source reads. -/
def psrcKeys : PSrc → List Nat
  | .p n => [65664 + n.val]
  | .q _ => [65760]
  | _ => []
/-- Those that a uniform predicate source reads. -/
def qsrcKeys : QSrc → List Nat
  | .q _ => [65760]
  | _ => []
/-- State words beside registers that a word reads: predicates, tags, fold registers, the accumulator window. -/
def stateKeys (i : Instr) : List Nat :=
  let tag (n : Fin 8) : List Nat := [65768 + n.val]
  let fold (n : Fin 8) : List Nat := [65776 + n.val]
  let win : List Nat := [65784, 65785]
  i.src.toks.map (65768 + ·) ++ match i with
  | .siSel w => qsrcKeys w.cc
  | .smQand w => qsrcKeys w.a ++ qsrcKeys w.b
  | .smQor w => qsrcKeys w.a ++ qsrcKeys w.b
  | .smQxor w => qsrcKeys w.a ++ qsrcKeys w.b
  | .smQnot w => qsrcKeys w.a
  | .viSel w => psrcKeys w.cc
  | .clBallot w => psrcKeys w.a
  | .clAny w => psrcKeys w.a
  | .clAll w => psrcKeys w.a
  | .prAnd w => psrcKeys w.a ++ psrcKeys w.b
  | .prOr w => psrcKeys w.a ++ psrcKeys w.b
  | .prXor w => psrcKeys w.a ++ psrcKeys w.b
  | .prNot w => psrcKeys w.a
  | .prMov w => psrcKeys w.a
  | .prCnt w => psrcKeys w.a
  | .tkWait w => tag w.a
  | .tkTst w => tag w.a
  | .tkCnt w => tag w.a
  | .fdGet w => fold w.a
  | .plShf w => fold w.freg
  | .plRot w => fold w.freg
  | .plSpr w => fold w.freg
  | .plFld w => fold w.freg
  | .plScn w => fold w.freg
  | .plTrn w => fold w.freg
  | .plRfd w => fold w.freg ++ fold w.mod
  | .ldp w => fold w.sub
  | .stp w => fold w.sub
  | .mxMma _ => win
  | .mxMmas _ => win
  | .mxZero _ => win
  | .axDrn w => fold w.mod.freg ++ win
  | .axFil w => fold w.mod.freg ++ win
  | .axChk _ => win
  | _ => []
/-- A word reads a barrier whose word carries poison. -/
def View.badBarrier (x : View) (i : Instr) : Bool :=
  let bad (n : Fin 16) : Bool := (x.t.bar n.val).bad
  match i with
  | .snBar w => bad w.sarg.bar
  | .snBara w => bad w.sarg
  | .snBarw w => bad w.sarg
  | _ => false
/-- GUARD of a word. -/
def Instr.guard (i : Instr) : Guard :=
  match i.encoded with
  | some e => ((guardCodec .any).dec (bits e.word 42 8)).getD .always
  | none => .always
/-- A word may be guarded lane by lane: it acts in the active lanes. -/
def Instr.perLane (w : Nat) (i : Instr) : Bool :=
  match i.encoded with
  | some e => match parseWord w (e.word &&& ~~~ (0xFF#64 <<< 42)) with
    | .ok _ => true
    | .error _ => false
  | none => false
/-- The source elements on which an element of a plane word's result depends: the source's base register, its fold word and
the destination's, and the elements by their coordinates. -/
def View.planeNeeds (x : View) (i : Instr) : Option (Nat × FoldWord × FoldWord × (Coord → List Coord)) :=
  let f (n : Fin 8) : FoldWord := FoldWord.of (x.g.fold n.val)
  let move (w : FmtP Unit) (m : FoldWord → Coord → Option Coord) : Option (Nat × FoldWord × FoldWord × (Coord → List Coord)) :=
    some (w.a.val, f w.freg, f w.freg, fun c => (m (f w.freg) c).toList)
  match i with
  | .plShf w => move w (shiftMap w (edgeOf w.edge))
  | .plRot w => move w (shiftMap w (fun _ => 1))
  | .plSpr w => move w (fun _ c => some (c.set w.axis w.dist.toNat))
  | .plTrn w => move w (fun _ c => some { c with x := c.y, y := c.x })
  | .plFld w => some (w.a.val, f w.freg, f w.freg, fun c => (List.range ((f w.freg).extent w.axis)).map (c.set w.axis))
  | .plScn w => some (w.a.val, f w.freg, f w.freg, fun c => (List.range (c.get w.axis + 1)).map (c.set w.axis))
  | .plRfd w => some (w.a.val, f w.freg, f w.mod, fun c => [c])
  | _ => none
/-- The result of a lane under a plane word depends on a register of a lane. -/
def planeTouches (n : Nat × FoldWord × FoldWord × (Coord → List Coord)) (lane k : Nat) : Bool :=
  let (base, f, d, src) := n
  let gl := 2 ^ (d.gx + d.gy)
  (List.range d.locals).any (fun e => (src (d.coord (lane % gl) e)).any (fun c =>
    let (l, j) := f.place c
    decide (lane / gl * gl + l = k % 64) && (f.regsOf j).any (fun r => decide (base + r = k / 64))))
/-- The lane that a result of a cross-lane word comes from, where the word reads its source in one other lane. -/
def View.sourceLane (x : View) (i : Instr) (lane : Nat) : Option (Nat × Option Nat) :=
  let low (g : Guard) : Nat := lowestLane (x.active g &&& lowLanes x.w)
  match i with
  | .clShfl w => some (w.a.val, shflLane w.mod lane (x.lane w.b lane).toNat)
  | .clShfx w =>
    let seg := 2 ^ w.mod.g.val
    some (w.a.val, (shflLane w.mod.mode (lane % seg) (x.lane w.b lane).toNat).bind (fun j =>
      if j < seg then some (lane - lane % seg + j) else none))
  | .clRfl w => some (w.a.val, some (low w.g))
  | .clRdl w => some (w.a.val, some (x.uni w.b).toNat)
  | _ => none
/-- The result of an active lane depends on the register of a key. -/
def View.laneNeeds (x : View) (i : Instr) (lane k : Nat) : Bool :=
  if 65536 ≤ k then true
  else match x.planeNeeds i with
    | some n => planeTouches n lane k
    | none => match x.sourceLane i lane with
      | some (a, j) => (k / 64 == a && j == some (k % 64)) ||
          (k % 64 == lane && (match i with
            | .clShfl w => (w.b.use 1).regs
            | .clShfx w => (w.b.use 1).regs
            | _ => []).any (fun r => RegRange.holds r k))
      | none => k % 64 == lane
/-- A word reads the register of a key. Of the registers of scale codes, lanes 0 to 15 are read (18 R292). -/
def View.readsKey (x : View) (i : Instr) (k : Nat) : Bool :=
  let scales (base : Nat) (ty : MxType) : Bool := k % 64 < 16 && RegRange.holds (x.scaleRange base ty) k
  let frag (base : Nat) (ty : MxType) : RegRange := planeRange base (fragB x.w ty)
  match i with
  | .mxMma w => (i.src.regs ++ [planeRange w.a.val (fragA x.w w.mod), frag w.b.val w.mod]).any (RegRange.holds · k) || scales w.b.val w.mod
  | .mxMmas w => (i.src.regs ++ [frag w.b.val w.mod]).any (RegRange.holds · k) || scales w.b.val w.mod
  | i => (x.reads i).any (RegRange.holds · k)
/-- A lane contributes to an FB word of that control word (18 R300). -/
def View.contributes (x : View) (c : Src) (lane : Nat) : Bool := (((x.sample (Src.isClk c)).lane c lane).toNat) / 4096 != 0
/-- The active lanes in which a word acts: of PUT, GET and RED those that contribute (18 R312). -/
def View.actors (x : View) (i : Instr) : List Nat :=
  let ls := lanesBelow x.w (x.active (Instr.guard i))
  match i with
  | .fbPut w => ls.filter (x.contributes w.cc)
  | .fbGet w => ls.filter (x.contributes w.cc)
  | .fbRed w => ls.filter (x.contributes w.cc)
  | _ => ls
/-- A key is that of what the path always saves; what a path saved that another has taken up since is read with it. -/
def View.pathKey (x : View) (k : Nat) : Bool :=
  decide (2 ^ 20 ≤ k) && (k == 2 ^ 20 + x.pid || (SMap.find? x.s.paths (k - 2 ^ 20)).isNone)
/-- Lanes as a mask. -/
def maskOfLanes (ls : List Nat) : Lanes := ls.foldl (fun m l => m ||| oneLane l) 0
/-- LANES of a word that reads the state word of a key, where a result depends on it: the active lanes whose results do; 0 for
a word that acts once, which reads vector registers in every lane that has not exited. A guard, and what the path always saves,
decide for every lane whose EXEC bit is set. -/
def View.needs (x : View) (i : Instr) (k : Nat) : Option Lanes :=
  let there : Bool := decide (65536 ≤ k) || (decide (k % 64 < x.w) && !hasLane x.g.exited (k % 64))
  let of (ls : List Nat) : Option Lanes :=
    if Instr.perLane x.w i then (if ls.isEmpty then none else some (maskOfLanes ls)) else some 0
  let ls := (x.actors i).filter (fun l => x.laneNeeds i l k)
  if (guardKeys (Instr.guard i)).contains k || x.pathKey k then of (lanesBelow x.w x.execLanes)
  else if !there ∨ !(x.readsKey i k || (stateKeys i).contains k) ∨ !x.guardOn (Instr.guard i) then none
  else match i with
    | .clShtl _ => if x.e.body.twin then some (maskOfLanes ls) else none
    | _ => of ls
/-- LANES of the POISON that a word meets in the state it reads, none where no result depends on a poisoned word. -/
def View.poisonedRead (x : View) (i : Instr) : Option Lanes :=
  match x.g.bad.filterMap (x.needs i) ++ (if x.badBarrier i && x.guardOn (Instr.guard i) then [0] else []) with
  | [] => none
  | m :: ms => some (ms.foldl (· ||| ·) m)

/-! ## What a word waits for -/

/-- The access paths on which a word makes accesses (13 R243). -/
def Instr.paths : Instr → PathSet
  | .ld _ => ⟨true, false, false, false, false⟩
  | .ldu _ => ⟨true, false, false, false, false⟩
  | .st _ => ⟨true, false, false, false, false⟩
  | .stu _ => ⟨true, false, false, false, false⟩
  | .atAdd _ => ⟨true, false, false, false, false⟩
  | .atSub _ => ⟨true, false, false, false, false⟩
  | .atMin _ => ⟨true, false, false, false, false⟩
  | .atMax _ => ⟨true, false, false, false, false⟩
  | .atMinu _ => ⟨true, false, false, false, false⟩
  | .atMaxu _ => ⟨true, false, false, false, false⟩
  | .atAnd _ => ⟨true, false, false, false, false⟩
  | .atOr _ => ⟨true, false, false, false, false⟩
  | .atXor _ => ⟨true, false, false, false, false⟩
  | .atXchg _ => ⟨true, false, false, false, false⟩
  | .atCas _ => ⟨true, false, false, false, false⟩
  | .atFadd _ => ⟨true, false, false, false, false⟩
  | .atXadd _ => ⟨true, false, false, false, false⟩
  | .atXrd _ => ⟨true, false, false, false, false⟩
  | .brBrx _ => ⟨true, false, false, false, false⟩
  | .brCallv _ => ⟨true, false, false, false, false⟩
  | .dvReg _ => ⟨true, false, false, false, false⟩
  | .ldp _ => ⟨false, true, false, false, false⟩
  | .stp _ => ⟨false, true, false, false, false⟩
  | .cpLane _ => ⟨false, false, true, false, false⟩
  | .cpBulk _ => ⟨false, false, true, false, false⟩
  | .cpMcast _ => ⟨true, false, true, false, false⟩
  | .cpStamp _ => ⟨false, false, true, false, false⟩
  | .cpArrv _ => ⟨false, false, true, false, false⟩
  | .dvWarm _ => ⟨false, false, true, false, false⟩
  | .mxMma _ => ⟨false, false, false, true, false⟩
  | .mxMmas _ => ⟨false, false, false, true, false⟩
  | .mxZero _ => ⟨false, false, false, true, false⟩
  | .axDrn _ => ⟨false, false, false, true, false⟩
  | .axFil _ => ⟨false, false, false, true, false⟩
  | .axChk _ => ⟨false, false, false, true, false⟩
  | .fbPut _ => ⟨false, false, false, false, true⟩
  | .fbGet _ => ⟨false, false, false, false, true⟩
  | .fbRed _ => ⟨false, false, false, false, true⟩
  | .fbAta _ => ⟨true, false, false, false, true⟩
  | .fbCmb _ => ⟨true, false, false, false, true⟩
  | .fbArrv _ => ⟨false, false, false, false, true⟩
  | _ => ⟨false, false, false, false, false⟩
/-- Two sets of paths share one. -/
def PathSet.meets (a b : PathSet) : Bool := (a.l && b.l) || (a.g && b.g) || (a.c && b.c) || (a.m && b.m) || (a.f && b.f)
/-- The tokens whose COUNT must be 0 before the word issues (04 R80). -/
def Instr.waitsTags : Instr → List Nat
  | .tkWait w => [w.a.val]
  | i => i.src.toks
/-- Operations that a word counts under its tag: room for them is needed (04 R79). -/
def View.newOps (x : View) : Instr → Option (Nat × Nat)
  | .cpLane w => some (w.tag.val, (lanesBelow x.w (x.active w.g)).length)
  | .fbPut w => some (w.tag.val, if (x.actors (.fbPut w)).isEmpty then 0 else 1)
  | .fbGet w => some (w.tag.val, if (x.actors (.fbGet w)).isEmpty then 0 else 1)
  | .fbRed w => some (w.tag.val, if (x.actors (.fbRed w)).isEmpty then 0 else 1)
  | .cpBulk w => some (w.tag.val, 1)
  | .cpMcast w => some (w.tag.val, 1)
  | .cpStamp w => some (w.tag.val, 1)
  | .cpArrv w => some (w.tag.val, 1)
  | .dvWarm w => some (w.tag.val, 1)
  | .mxMma w => some (w.tag.val, 1)
  | .mxMmas w => some (w.tag.val, 1)
  | .mxZero w => some (w.tag.val, 1)
  | .axDrn w => some (w.tag.val, 1)
  | .axFil w => some (w.tag.val, 1)
  | .axChk w => some (w.tag.val, 1)
  | .fbAta w => some (w.tag.val, 1)
  | .fbCmb w => some (w.tag.val, 1)
  | .fbArrv w => some (w.tag.val, 1)
  | _ => none
/-- Accesses that an arrival, a release, waits for (04 R87; 13 R249 for BAR.X), and those before an IC.INV, whose fetches see
every write that happens before it (10 R196). -/
def View.arrivalWaits (x : View) : Instr → List Nat
  | .snBar w =>
    if w.sarg.x then
      x.s.flying (fun r => r.grp == x.gid && r.isLG) ++ x.s.matrixWork (fun o => o.grp == x.gid)
    else x.released
  | .snBara _ => x.released
  | .icInv _ => x.released ++ x.p.acquires
  | _ => []
/-- A word may issue: its registers are free, and nothing that it must follow is outstanding. -/
def View.wordReady (x : View) (i : Instr) : Bool :=
  let ps := Instr.paths i
  x.scoreboardFree i && x.s.allDone x.p.hold &&
    (!(ps.l || ps.g) || x.s.allDone x.p.acquires) &&
    x.g.xf.all (fun h => !PathSet.meets ps h.dst || x.s.allDone h.ids) &&
    (!x.guardOn (Instr.guard i) || ((Instr.waitsTags i).all (fun n => (x.g.tag n).count == 0) && x.s.allDone (x.arrivalWaits i))) &&
    (match x.newOps i with | some (t, n) => !x.guardOn (Instr.guard i) || x.tagRoom t n | none => true)

/-! ## Arms (21 R324, 22 R341, R345) -/

/-- The launch goes on: started, no fault of it recorded, its function not being reset. Words of other groups that issue in
the cycle of a fault still do (23 R350). -/
def View.launchGoes (x : View) : Bool := x.e.phase == .started && x.e.fault.isNone && (x.s.fn x.e.fn).reset == 0
/-- The arm has stopped for a save: after a safe point or where it waits, or under the bound between chains. -/
def View.saveStopped (x : View) : Bool :=
  match x.t.save with
  | none => false
  | some r => x.p.stoppedFor r
/-- A wait that the arm itself can end by executing its word again. -/
def View.waitOver (x : View) : Bool :=
  match x.p.wait with
  | .none => true
  | .handler _ _ _ => !x.handlerBusy && x.t.save.isNone
  | .derive _ left => left.isEmpty
  | .register ids => x.s.allDone ids
  | _ => false
/-- A word of another path holds the group: DV.REG, DV.UNREG (02 R55, R56) or CL.SHTL (11 R224). -/
def View.groupHeld (x : View) : Bool :=
  x.s.paths.any (fun e => e.2.grp == x.gid && e.1 != x.pid && match e.2.wait with
    | .derive _ _ => true
    | .register _ => true
    | .shtl .. => true
    | _ => false)
/-- Bytes that the arm waits for: a walk, a line, a table. -/
def View.fetching (x : View) : Bool :=
  x.s.walks.any (fun w => w.2.arm == x.pid) || x.s.fills.any (fun f => f.2.arm == x.pid) ||
    x.p.tables.any (fun t => !t.left.isEmpty)
/-- The arm stands at its innermost join, or its lanes have all exited: it has something to settle (10 R181, R189). -/
def View.atJoin (x : View) : Bool :=
  (x.p.mask &&& ~~~ x.g.exited) == 0 ||
    (x.p.chain.isEmpty && x.p.wait == .none && x.g.joinOf x.p == some x.p.pc)
/-- The arm may begin a chain: one a cycle (22 R341), and none once its group is halted (10 R190). -/
def View.mayBegin (x : View) : Bool := x.p.pos != 0 || (!x.g.halted && decide (x.p.nextChain ≤ x.s.cycle))
/-- A request is a read that waits for a derived tile (02 R49). -/
def State.heldRead (s : State) (id : Nat) : Bool :=
  match SMap.find? s.reqs id with
  | some r => r.value.isNone && match r.tgt, r.op with
    | .dev pa, .read n => !(s.notValid pa n).isEmpty
    | _, _ => false
  | none => false
/-- The arm waits on a held derived read: its next chain reads the destination, or once that has begun its next word does (21
R324). -/
def View.onHeldRead (x : View) : Bool :=
  let ws := if x.p.pos = 0 then x.p.chain else x.p.chain.take 1
  x.due.any (fun d => x.s.heldRead d.2 && ws.any (fun i => (x.reads i).any (fun r => RegRange.holds r d.1)))
/-- The arm may take a step: settle, fetch, or issue its chain's next word. -/
def View.ready (x : View) : Bool :=
  x.t.place == .resident && x.launchGoes && !x.s.thermalStop && x.s.up && !x.saveStopped && x.waitOver && !x.groupHeld &&
    !x.fetching && (x.atJoin || (x.mayBegin && match x.p.chain with | [] => true | i :: _ => x.wordReady i && !x.onHeldRead))
/-- The path holds its issue slot: it is within a chain (08 R144). -/
def Path.holdsSlot (p : Path) : Bool := p.pos != 0
/-- No word of another path issues from the slot between the words of a chain (08 R144). -/
def View.behindChain (x : View) : Bool :=
  x.p.pos == 0 && x.s.paths.any (fun e => e.1 != x.pid && e.2.holdsSlot && match x.s.viewOf e.1 with
    | some y => y.g.core == x.g.core && y.g.slot == x.g.slot && y.t.place == .resident && y.launchGoes
    | none => false)
/-- Within a cycle the paths of a group issue in the order of their lowest lanes (06 R110). -/
def View.inTurn (x : View) : Bool := x.g.turn.1 != x.s.cycle || decide (x.g.turn.2 ≤ lowestLane x.p.mask)
/-- The arms that may take a step, but for those that have waited longer. -/
def State.ableArms (s : State) : List View :=
  s.paths.filterMap (fun e => (s.viewOf e.1).filter (fun x => x.ready && !x.behindChain && (x.atJoin || x.inTurn)))
/-- The cycles through which an arm may stand ready without issuing (22 R341). -/
def starvationBound : Nat := 64
/-- Another arm of the slot has been ready for 64 cycles or more, and for longer. -/
def View.yieldsTo (x y : View) : Bool :=
  y.g.core == x.g.core && y.g.slot == x.g.slot && decide (starvationBound ≤ y.p.waited) && decide (x.p.waited < y.p.waited)
/-- The arms that may take a step. -/
def State.readyArms (s : State) : List Nat :=
  let able := s.ableArms
  (able.filter (fun x => !able.any (fun y => x.yieldsTo y))).map (·.pid)

/-- The arm's next word is TK.WAIT, and its COUNT is not 0. -/
def View.onToken (x : View) : Bool :=
  match x.p.chain with
  | .tkWait w :: _ => x.guardOn w.g && (x.g.tag w.a.val).count != 0
  | _ => false
/-- A wait of 21 R324 after a word that has issued, or a wait for the handler (22 R345). -/
def Wait.stops : Wait → Bool
  | .join => true
  | .regang _ _ => true
  | .barrier _ _ => true
  | .monitor _ _ => true
  | .sleep _ => true
  | .handler _ _ _ => true
  | _ => false
/-- The arm waits where a save may stop it, between chains (05 R103). -/
def View.waiting (x : View) : Bool := x.p.pos == 0 && (x.p.wait.stops || (x.p.wait == .none && (x.onHeldRead || x.onToken)))
/-- Arms that wait when their team's save is requested stop there (14 R277, 22 R345); one that begins to wait later does not. -/
def State.stopWaiting (s : State) : State :=
  let asked (t : Team) : Bool := match t.save with
    | some r => r.fresh
    | none => false
  if s.teams.all (fun t => !asked t.2) then s
  else { s with
    paths := s.paths.map (fun (e : Nat × Path) => match s.viewOf e.1 with
      | some x => if asked x.t && x.p.safe.isNone && x.waiting then (e.1, { e.2 with safe := some (BitVec.allOnes 64) }) else e
      | none => e)
    teams := s.teams.map (fun (t : Nat × Team) => (t.1, { t.2 with save := t.2.save.map (fun r => { r with fresh := false }) })) }
/-- A halted group exits once each of its arms has ended its chain, or waits before a word for a token or a held read
(10 R190). -/
def State.settleHalted (s : State) : State :=
  s.groups.foldl (fun s g =>
    let ps := s.pathsOf g.1
    if g.2.halted && !ps.isEmpty && ps.all (fun e => !e.2.unfinished || (match s.viewOf e.1 with
      | some x => x.p.wait == .none && (x.onToken || x.onHeldRead)
      | none => false)) then s.exitLanes g.1 (BitVec.allOnes 64)
    else s) s

/-! ## Events that the module may take (13 R242 to R244; 22; 23) -/

/-- An event that the module may take of itself: rows of the table of operations and events, by their constructors' names. -/
inductive Event where
  | sliceRead (req : Nat)
  | sliceWrite (req : Nat)
  | sliceAtomic (req : Nat)
  | hostWriteCompletion (req : Nat)
  | loadReturn (req : Nat)
  | stampWrite (op : Nat)
  | arrivalLand (op : Nat)
  | copyComplete (op : Nat)
  | triggerStart (op : Nat)
  | matrixOpComplete (op : Nat)
  | stampWaitHolds (entry : Nat) (second : Bool)
  | launch (entry : Nat)
  | barrier (entry : Nat)
  | flush (entry : Nat)
  | stamp (entry : Nat)
  | launchComplete (entry : Nat)
  | faultRecorded (entry : Nat)
  | faultDrainDone (entry : Nat)
  | vfResetDrainDone (n : Nat)
  | teamPlace (fn : Nat)
  | preemptRequest (fn : Nat)
  | timeSliceExpire (fn : Nat)
  | preemptBoundExpire (team : Nat)
  | preemptSave (team : Nat)
  | groupRetire (grp : Nat)
  | pageWalkComplete (walk : Nat)
  | lineFill (fill : Nat)
  | recomputeComplete (handle tile : Nat)
  | deliveryLand (op : Nat)
  | sleepExpire (grp path : Nat)
  | mwaitTimeout (grp path : Nat)
  | patrolScrub (unit : ErrUnit)
  | entryFetch (fn q : Nat)
  | invalidationComplete
  | vfResetDrainTimeout (n : Nat)
  /-- No row of its own: a mesh flit is given up on (01 R35). -/
  | flitLost (req k : Nat)
  /-- No row of its own: a seal or a check ends (24 R373). -/
  | sealDone
  /-- No row of its own: a sluice engine serves a request (04 R73). -/
  | engineServe (engine : Nat)
  deriving DecidableEq, Repr
/-- The meaning of the row. -/
def Event.run (s : State) : Event → Host.Outcome State Fault Refusal
  | .sliceRead req => execSliceRead req s
  | .sliceWrite req => execSliceWrite req s
  | .sliceAtomic req => execSliceAtomic req s
  | .hostWriteCompletion req => execHostWriteCompletion req s
  | .loadReturn req => execLoadReturn req s
  | .stampWrite op => execStampWrite op s
  | .arrivalLand op => execArrivalLand op s
  | .copyComplete op => execCopyComplete op s
  | .triggerStart op => execTriggerStart op s
  | .matrixOpComplete op => execMatrixOpComplete op s
  | .stampWaitHolds entry second => execStampWaitHolds entry second s
  | .launch entry => execLaunch entry s
  | .barrier entry => execBarrier entry s
  | .flush entry => execFlush entry s
  | .stamp entry => execStamp entry s
  | .launchComplete entry => execLaunchComplete entry s
  | .faultRecorded entry => execFaultRecorded entry s
  | .faultDrainDone entry => execFaultDrainDone entry s
  | .vfResetDrainDone n => execVfResetDrainDone n s
  | .teamPlace fn => execTeamPlace fn s
  | .preemptRequest fn => execPreemptRequest fn s
  | .timeSliceExpire fn => execTimeSliceExpire fn s
  | .preemptBoundExpire team => execPreemptBoundExpire team s
  | .preemptSave team => execPreemptSave team s
  | .groupRetire grp => execGroupRetire grp s
  | .pageWalkComplete walk => execPageWalkComplete walk s
  | .lineFill fill => execLineFill fill s
  | .recomputeComplete handle tile => execRecomputeComplete handle tile s
  | .deliveryLand op => execDeliveryLand op s
  | .sleepExpire grp path => execSleepExpire grp path s
  | .mwaitTimeout grp path => execMwaitTimeout grp path s
  | .patrolScrub unit => execPatrolScrub unit s
  | .entryFetch fn q => execEntryFetch fn q s
  | .invalidationComplete => execInvalidationComplete s
  | .vfResetDrainTimeout n => execVfResetDrainTimeout n s
  | .flitLost req k => .next (s.loseFlit req k)
  | .sealDone => .next s.sealDone
  | .engineServe engine => .next (s.engineServe engine)

/-- What a request may do next. -/
def State.reqEvent (s : State) (id : Nat) (r : Req) : List Event :=
  if r.value.isSome then [.loadReturn id]
  else if !s.mayPerform id r then []
  else match r.op, r.tgt with
    | .read _, _ => [.sliceRead id]
    | .write _ _, .host _ => [.hostWriteCompletion id]
    | .write _ _, _ => [.sliceWrite id]
    | .spad _ _ _, _ => [.sliceWrite id]
    | .arrive _ _, _ => [.sliceWrite id]
    | _, _ => [.sliceAtomic id]
/-- The mesh flits of a request that may be lost: its address, then its data; or its answer's. A scratchpad of the core itself is
reached over no mesh, and what has left for a peer has crossed it. -/
def Req.flits (r : Req) : List Nat :=
  let own := match r.op with
    | .write d _ => List.range (1 + ceilDiv d.length 32)
    | .red _ d _ => List.range (1 + ceilDiv d.length 32)
    | .spad _ d _ => List.range (1 + ceilDiv d.length 32)
    | .arrive _ _ => []
    | .read _ => [0]
    | _ => [0, 1]
  match r.tgt with
  | .spad _ _ _ => []
  | .peer _ _ => if r.value.isSome then [0] else if r.doneAt = 0 then own else []
  | _ => if r.value.isSome then [0] else own
/-- Sluice engines that have a request to serve. -/
def State.engines (s : State) : List Nat :=
  distinct ((s.reqs.filter (fun e => e.2.atEngine && e.2.value.isNone && e.2.served == 0)).map (fun e => (e.2.src - engineBase) / 8))
/-- What is outstanding at sluice engines and at owners, and answers on their way. -/
def State.reqEvents (s : State) : List Event :=
  s.reqs.flatMap (fun e => s.reqEvent e.1 e.2) ++ s.reqs.flatMap (fun e => e.2.flits.map (fun k => Event.flitLost e.1 k)) ++
    s.engines.map .engineServe
/-- What operations may do. -/
def State.opEvents (s : State) : List Event :=
  s.ops.flatMap (fun e => match e.2.kind with
    | .stamp .. => if e.2.started then [Event.copyComplete e.1, .stampWrite e.1] else [.stampWrite e.1]
    | .arrive .. => [.arrivalLand e.1]
    | .fbArrive .. => if e.2.started then [.copyComplete e.1] else [.arrivalLand e.1]
    | k =>
      if !e.2.started then .triggerStart e.1 :: (if k.readsAtIssue then [.stampWrite e.1] else [])
      else if k.onM then [.matrixOpComplete e.1]
      else [.copyComplete e.1, .stampWrite e.1])
/-- What queues and entries may do. -/
def State.entryEvents (s : State) : List Event :=
  (s.queues.flatMap (fun q =>
    if q.2.enable && q.2.state == 0 && decide (q.2.head < q.2.tail) then [Event.entryFetch (q.1 / 64) (q.1 % 64)] else [])) ++
  s.entries.flatMap (fun e => match e.2.phase with
    | .waiting =>
      (if e.2.w0ok then [] else [.stampWaitHolds e.1 false]) ++ (if e.2.w1ok then [] else [.stampWaitHolds e.1 true]) ++
        [match e.2.body.ty with | 0 => .launch e.1 | 1 => .barrier e.1 | 2 => .flush e.1 | _ => .stamp e.1]
    | .started =>
      if !e.2.faults.isEmpty then [.faultRecorded e.1]
      else (match e.2.body.ty with | 0 => [.launchComplete e.1] | 1 => [.barrier e.1] | 2 => [.flush e.1] | _ => [])
    | .draining => [.faultDrainDone e.1])
/-- What functions and teams may do. -/
def State.teamEvents (s : State) : List Event :=
  (s.fns.flatMap (fun f =>
    if f.2.reset ≠ 0 then
      Event.vfResetDrainDone f.1 :: (if s.drainOver f.1 then [.vfResetDrainTimeout f.1] else [])
    else [.teamPlace f.1, .preemptRequest f.1, .timeSliceExpire f.1])) ++
  (s.teams.flatMap (fun t => if t.2.save.isSome then [Event.preemptBoundExpire t.1, .preemptSave t.1] else [])) ++
  (s.groups.flatMap (fun g => if s.mayRetire g.1 g.2 then [Event.groupRetire g.1] else []))
/-- What waits, walks, fills, recomputes, deliveries and scrubs may do. -/
def State.otherEvents (s : State) : List Event :=
  (s.walks.filter (fun w => w.2.kind == 0)).map (fun w => Event.pageWalkComplete w.1) ++
  (s.fills.filter (fun f => f.2.got.left.isEmpty)).map (fun f => .lineFill f.1) ++
  s.recomputes.map (fun r => .recomputeComplete r.handle r.tile) ++
  s.deliveries.map (fun d => if d.2.data.isSome then .deliveryLand d.1 else .arrivalLand d.1) ++
  s.paths.flatMap (fun e => match e.2.wait with
    | .sleep c => if c ≤ s.cycle then [Event.sleepExpire e.2.grp e.1] else []
    | .monitor _ (some c) => if c ≤ s.cycle && s.mayWake e.2 then [Event.mwaitTimeout e.2.grp e.1] else []
    | _ => []) ++
  (if s.invals.isEmpty then [] else [.invalidationComplete]) ++
  (if s.sealJob.isSome then [.sealDone] else []) ++
  s.errs.map (fun e => .patrolScrub e.1)
/-- Every event that the module may take. -/
def State.events (s : State) : List Event := s.reqEvents ++ s.opEvents ++ s.entryEvents ++ s.teamEvents ++ s.otherEvents

/-! ## Time (06 R116, 22 R343) -/

/-- Cycles of a watchdog unit. -/
def watchdogUnit : Nat := 4096
/-- One cycle of a launch's watchdog. -/
def Entry.tick (e : Entry) : Entry :=
  if !e.wdOn then e
  else if e.wdPhase + 1 < watchdogUnit ∨ e.wdLeft = 0 then { e with wdPhase := e.wdPhase + 1 }
  else { e with wdPhase := 0, wdLeft := e.wdLeft - 1 }
/-- The cycle counter advances. An arm that stood ready has waited one cycle more, unless the cycle was withheld (22 R341, 24
R375). -/
def State.tick (s : State) : State :=
  let able := ((s.paths.filterMap (fun e => s.viewOf e.1)).filter View.ready).map (·.pid)
  { s with
    cycle := s.cycle + 1
    entries := s.entries.map (fun (e : Nat × Entry) => (e.1, e.2.tick))
    paths := s.paths.map (fun (e : Nat × Path) =>
      (e.1, { e.2 with waited := if able.contains e.1 then (if s.withheld then e.2.waited else e.2.waited + 1) else 0 })) }
/-- A launch whose watchdog count reached 0 in an earlier cycle: it faults before anything else happens, or the fault is counted
beside the one recorded (22 R343, 23 R350). -/
def State.expired (s : State) : Option Nat :=
  (s.entries.find? (fun e => e.2.wdOn && e.2.wdLeft == 0 && decide (1 ≤ e.2.wdPhase) && e.2.phase != .waiting &&
    (s.fn e.2.fn).reset == 0)).map (·.1)
/-- A request has been out for as long as one may be (21 R331), and may go on. -/
def State.overdue (s : State) (id : Nat) (r : Req) : Bool :=
  decide (r.born + Config.storeBound ≤ s.cycle) && ((r.atEngine && r.value.isNone && r.served == 0) || (s.reqEvent id r).any (fun e => match e.run s with
    | .next t => t.reqs != s.reqs
    | _ => false))
/-- A timeout of SN.MWAIT has come (14 R269). -/
def Wait.overAt (c : Nat) : Wait → Bool
  | .monitor _ (some d) => decide (d ≤ c)
  | _ => false
/-- A reset's drain has lasted 50 ms, and fabric requests are still out (23 R359). -/
def State.drainStuck (s : State) : Bool :=
  s.fns.any (fun f => s.drainOver f.1 && s.reqs.any (fun r => r.2.fn == f.1 && r.2.entry != 0 && match r.2.tgt with
    | .peer _ _ => true
    | _ => false))
/-- The bound of a save has come, and has not been applied (22 R345). -/
def State.boundDue (s : State) (t : Team) : Bool :=
  match t.save with
  | some r => !r.bound && decide (r.since + saveBound ≤ s.cycle)
  | none => false
/-- The cycle ends: faults that reached a fault unit in it have been recorded (23 R350), no arm that has waited through the
starvation bound may issue (22 R341), and nothing is left that must happen by now. -/
def State.mayTick (s : State) : Bool :=
  s.entries.all (fun e => e.2.phase != .started || e.2.faults.isEmpty) &&
    !s.ableArms.any (fun x => decide (starvationBound ≤ x.p.waited)) && !s.paths.any (fun e => e.2.wait.overAt s.cycle && s.mayWake e.2) &&
    !s.teams.any (fun t => s.boundDue t.2) &&
    !s.reqs.any (fun e => s.overdue e.1 e.2) && !s.drainStuck

/-! ## A step of an arm -/

/-- A word of a view has issued: its path has gone on, waits after it, or is part of another. -/
def View.issuedIn (x : View) (t : State) : Bool :=
  match SMap.find? t.paths x.pid with
  | none => true
  | some p => p.wait != .stopped && (p.chain.length != x.p.chain.length || p.wait != x.p.wait)
/-- A word that read poison has issued: the launch faults, imprecisely, and the path issues nothing more (23 R347; log 37). -/
def State.poisonAfter (t : State) (x : View) (i : Instr) : State :=
  match x.poisonedRead i with
  | none => t
  | some m =>
    (t.lateFault x.eid x.tid x.gid m x.p.pc .poison 0 1 (x.s.cycle, x.pid)).modPath x.pid (fun p =>
      { p with wait := .stopped, chain := [], latches := [], pos := 0, tables := [], locking := 0 })
/-- After a word: the group's turn in this cycle, the cycle of the next chain of the paths that it leaves, and the fallback
slot. -/
def State.afterWord (t : State) (x : View) : State :=
  let mine (e : Nat × Path) : Bool := e.1 == x.pid || (decide (x.s.nextId ≤ e.1) && e.2.grp == x.gid)
  let ended := match SMap.find? t.paths x.pid with
    | some p => p.chain.isEmpty || (match p.wait with
      | .handler .. => true
      | _ => false)
    | none => true
  let t := { t with paths := t.paths.map (fun (e : Nat × Path) =>
    if mine e && e.2.chain.isEmpty then (e.1, { e.2 with nextChain := t.cycle + 1 }) else e) }
  t.modGroup x.gid (fun g => { g with turn := (t.cycle, lowestLane x.p.mask) }.issueFrom x.pid ended)
/-- The next word of the selected arm's chain has its meaning; where it issues, the poison it read is looked at. -/
def State.runWord (run : Instr → State → Host.Outcome State Fault Refusal) (s : State) (i : Instr) :
    Host.Outcome State Fault Refusal :=
  match s.view with
  | none => .next s
  | some x => match run i s with
    | .next t => .next (if x.issuedIn t then (t.poisonAfter x i).afterWord x else t)
    | r => r
/-- One step of an arm: it settles at its join, or its next chain is fetched, and its next word issues where it may. -/
def State.issueArm (run : Instr → State → Host.Outcome State Fault Refusal) (s : State) (pid : Nat) :
    Host.Outcome State Fault Refusal :=
  let s := { s.modPath pid (fun p => { p with waited := 0 }) with cur := some pid }
  match s.view with
  | none => .next s
  | some x =>
    if x.atJoin then .next ((s.settlePath pid).regangCheck x.gid)
    else match x.p.chain with
      | i :: _ => s.runWord run i
      | [] =>
        let t := x.fetch
        match t.view with
        | none => .next t
        | some y => match y.p.chain with
          | [] => .next t
          | i :: _ => if y.wordReady i && !y.onHeldRead then t.runWord run i else .next t

end Sys2Proof.Machine
end

