-- ==== Sys2Proof/Machine/Step.lean ====
section
/-! DEFINITION. One step of the module: one word of one arm, one event, or one cycle. -/
namespace Sys2Proof.Machine
open Sys2Proof

/-- What may happen next. -/
inductive Choice where
  | arm (pid : Nat)
  | outside (i : Instr) (rest : List Instr)
  | event (e : Event)
  | tick
  deriving DecidableEq, Repr

/-- Everything that may happen next: an arm's step, what the outside world does next, an event of the module, a cycle. -/
def State.choices (s : State) : List Choice :=
  s.readyArms.map .arm ++ (match s.inbox with | [] => [] | i :: is => [.outside i is]) ++ s.events.map .event ++
    (if s.mayTick then [.tick] else [])
/-- The choice made: the next number of the schedule where it holds one, else the next drawn (log 2). -/
def State.choose (s : State) : Option Choice × State :=
  match s.sched with
  | k :: ks => (s.choices[k]?, { s with sched := ks })
  | [] => (s.choices[Config.pick s.drawn % s.choices.length]?, { s with drawn := s.drawn + 1 })
/-- What a choice does. A host access that is held before its owner stays the next of what the host does. -/
def State.take (s : State) : Option Choice → Host.Outcome State Fault Refusal
  | some (.arm pid) => s.issueArm exec pid
  | some (.outside i is) => match exec i { s with inbox := is } with
    | .next t => .next (if s.hostWaits i then { t with inbox := i :: t.inbox } else t)
    | r => r
  | some (.event e) => e.run s
  | some .tick => .next s.tick
  | none => .next s.tick
/-- One step. -/
def step (s : State) : Host.Outcome State Fault Refusal :=
  match s.expired with
  | some e => execWatchdog e s
  | none => match s.choose.2.take s.choose.1 with
    | .next t => .next t.stopWaiting.settleHalted
    | r => r

/-- The launch record of the group that runs a word on its own: one group of 64 lanes with every register. -/
def soloRecord : EntryRec := { EntryRec.zero with gw := 3, regs := 256, tdx := 64, tdy := 1, tdz := 1, gx := 1, gy := 1, gz := 1 }
/-- The state with an instruction where the next step fetches: a launch of one group on core 0 whose next chain lies in
the core's instruction buffer, and the choice of its arm. -/
def State.withFetchWord (s : State) (nbits w : Nat) : State :=
  let n := s.nextId
  let e : Entry :=
    { fn := 0, q := 0, seq := 0, ctx := 0, body := soloRecord, phase := .started, order := n, csPa := 0, w0Pa := 0, w1Pa := 0,
      w0ok := true, w1ok := true, placed := 1, retired := 0, wdLeft := 0, wdPhase := 0, wdOn := false, keyCtr := [],
      faults := [], fault := none, faultAt := 0, nfault := 0, pendSince := 0 }
  let t : Team :=
    { entry := n, x := 0, y := 0, z := 0, home := 0, slot := 0, gen := 1, core := 0, place := .resident, placedAt := s.cycle,
      runs0 := ⟨0, 0, 0⟩, runs1 := ⟨0, 0, 0⟩, placedOrd := n, pendSince := 0, side0 := Side.zero, side1 := Side.zero, bars := [], resumes := 0, droop0 := 0, droop1 := 0, save := none,
      debug := false, halted := false }
  let l : CodeLine := ⟨0, 0, bytesOfNat 256 (w % 2 ^ nbits), List.replicate 256 false, [], 0, []⟩
  let c := s.core 0
  let s := (s.setEntry n e).setTeam (n + 1) t
  let s := (s.setGroup (n + 2) (Group.start (n + 1) 0 0 0 soloRecord)).setPath (n + 3) (Path.start (n + 2) soloRecord)
  let s := s.setCore 0 { c with code := l :: c.code.filter (fun k => !(k.ctx == 0 && k.line == 0)) }
  let s := { s with nextId := n + 4, cur := some (n + 3), mode := .running, thermalStop := false }
  { s with sched := s.readyArms.idxOf (n + 3) :: s.sched }

end Sys2Proof.Machine
end

