-- ==== Sys2Proof/Safety.lean ====
section
/-! DEFINITION. The terms that claims use: what a word completes with, what it leaves unchanged, and what an access at
issue needs. -/
namespace Sys2Proof.Machine
open Sys2Proof

/-! ## Completing -/

/-- The machine goes on from `s` under `i`, in a state with `P`. -/
def Goes (i : Instr) (s : State) (P : State → Prop) : Prop := ∃ t, exec i s = .next t ∧ P t

/-- The word `i` completes on the path of `x`: the next state differs from `s` in that path and its group alone, and
they are as `Q` says. -/
def Completes (i : Instr) (s : State) (x : View) (Q : Group → Path → Prop) : Prop :=
  ∃ g p, exec i s = .next ({ x with g := g, p := p } : View).commit ∧ Q g p

/-- The word `i` meets a precise fault: nothing is written, the path stops, and the fault reaches the launch's fault
unit (23 R348, R350). -/
def Faults (i : Instr) (s : State) (x : View) (c : Code) (addr : DWord) (lanes : Lanes) (detail : Nat) : Prop :=
  exec i s = .next (x.raise c addr lanes detail)

/-! ## Frames -/

/-- What a word may write of its group's registers: vector registers by register and lane, uniform registers, lane
predicates by predicate and lane, uniform predicates, tag words, fold registers. -/
structure Written where
  v : Nat → Nat → Prop
  s : Nat → Prop
  p : Nat → Nat → Prop
  q : Nat → Prop
  k : Nat → Prop
  f : Nat → Prop

/-- A word that writes no register. -/
def Written.none : Written :=
  ⟨fun _ _ => False, fun _ => False, fun _ _ => False, fun _ => False, fun _ => False, fun _ => False⟩

/-- Outside what is written, every register of the group reads as before, keeps its poison and what a load that is outstanding
is to write to it, and every other field of the group is the same. -/
structure Group.Keeps (g h : Group) (w : Written) : Prop where
  vec : ∀ n l, l < 64 → ¬ w.v n l → h.vreg n l = g.vreg n l
  uni : ∀ n, ¬ w.s n → h.sreg n = g.sreg n
  pred : ∀ n l, ¬ w.p n l → hasLane (h.preds n) l = hasLane (g.preds n) l
  upred : ∀ n, n < 16 → ¬ w.q n → h.qreg n = g.qreg n
  tag : ∀ n, ¬ w.k n → h.tag n = g.tag n
  fold : ∀ n, ¬ w.f n → h.fold n = g.fold n
  clean : ∀ k, k ∈ h.bad → k ∈ g.bad
  poisonV : ∀ n l, n < 256 → l < 64 → ¬ w.v n l → 64 * n + l ∈ g.bad → 64 * n + l ∈ h.bad
  poisonS : ∀ n, n < 64 → ¬ w.s n → 65536 + n ∈ g.bad → 65536 + n ∈ h.bad
  poisonP : ∀ n, n < 96 → (∀ l, ¬ w.p n l) → 65664 + n ∈ g.bad → 65664 + n ∈ h.bad
  poisonF : ∀ n, n < 8 → ¬ w.f n → 65776 + n ∈ g.bad → 65776 + n ∈ h.bad
  poisonRest : ∀ k, k = 65760 ∨ (65768 ≤ k ∧ k < 65776) ∨ 65784 ≤ k → k ∈ g.bad → k ∈ h.bad
  settled : ∀ d, d ∈ h.due → d ∈ g.due
  dueV : ∀ n l i, n < 256 → l < 64 → ¬ w.v n l → (64 * n + l, i) ∈ g.due → (64 * n + l, i) ∈ h.due
  dueS : ∀ n i, ¬ w.s n → (65536 + n, i) ∈ g.due → (65536 + n, i) ∈ h.due
  later : ∀ k r, (∀ n l, w.v n l → k ≠ 64 * n + l) → (∀ n, w.s n → k ≠ 65536 + n) → ((k, r) ∈ h.later ↔ (k, r) ∈ g.later)
  rest : h = { g with
    v := h.v, s := h.s, p := h.p, q := h.q, k := h.k, f := h.f, bad := h.bad, flips := h.flips, due := h.due,
    later := h.later }

/-- The lanes in which a lane word writes. -/
def View.writes (x : View) (m : Lanes) (l : Nat) : Prop := l < x.w ∧ hasLane m l = true

/-- A 32-bit uniform result: to the register that the word names, if it names one, and to its latch (08 R146). -/
def UniResult (x : View) (d : Dest (Fin 64)) (q : Bool) (a : Word) (g : Group) (p : Path) : Prop :=
  x.g.Keeps g { Written.none with s := fun n => ∃ k : Fin 64, d = .reg k ∧ n = k.val } ∧
    (∀ k, d = .reg k → g.sreg k.val = a) ∧ p = x.p.retire q (.uni a)
/-- A 64-bit uniform result, to an even pair; no latch. -/
def PairResult (x : View) (d : Fin 32) (q : Bool) (a : DWord) (g : Group) (p : Path) : Prop :=
  x.g.Keeps g { Written.none with s := fun n => n = 2 * d.val ∨ n = 2 * d.val + 1 } ∧
    g.spair (2 * d.val) = a ∧ p = x.p.retire q .none
/-- A uniform predicate; no latch. -/
def UniPredResult (x : View) (d : Fin 16) (q : Bool) (b : Bool) (g : Group) (p : Path) : Prop :=
  x.g.Keeps g { Written.none with q := fun n => n = d.val } ∧ g.qreg d.val = b ∧ p = x.p.retire q .none
/-- A lane predicate in the lanes of a mask; no latch. -/
def PredResult (x : View) (d : Fin 96) (m : Lanes) (q : Bool) (f : Nat → Bool) (fl : FFlags) (g : Group) (p : Path) :
    Prop :=
  x.g.Keeps g { Written.none with p := fun n l => n = d.val ∧ x.writes m l } ∧
    (∀ l, x.writes m l → hasLane (g.preds d.val) l = f l) ∧
    p = { x.p.retire q .none with fstat := x.p.fstat ||| fl }
/-- A latch that holds `f l` in each lane of a mask, and 0 elsewhere (08 R146). -/
def LaneLatch (x : View) (m : Lanes) (f : Nat → Word) (xs : SMap Word) : Prop :=
  (∀ l, x.writes m l → SMap.getD xs l 0 = f l) ∧ ∀ l, ¬ x.writes m l → SMap.getD xs l 0 = 0
/-- A 32-bit lane result in the lanes of a mask, with the flags it sets: to the register that the word names, if it
names one, and to its latch (08 R146, 11 R198, R200). -/
def LaneResult (x : View) (d : Dest (Fin 256)) (m : Lanes) (q : Bool) (f : Nat → Word) (fl : FFlags) (g : Group)
    (p : Path) : Prop :=
  x.g.Keeps g { Written.none with v := fun n l => (∃ k : Fin 256, d = .reg k ∧ n = k.val) ∧ x.writes m l } ∧
    (∀ k l, d = .reg k → x.writes m l → g.vreg k.val l = f l) ∧
    ∃ xs, LaneLatch x m f xs ∧ p = { x.p.retire q (.lanes xs) with fstat := x.p.fstat ||| fl }
/-- A 64-bit lane result in the lanes of a mask, to an even pair; no latch (11 R199). -/
def LanePairResult (x : View) (d : Fin 128) (m : Lanes) (q : Bool) (f : Nat → DWord) (fl : FFlags) (g : Group) (p : Path) :
    Prop :=
  x.g.Keeps g { Written.none with v := fun n l => (n = 2 * d.val ∨ n = 2 * d.val + 1) ∧ x.writes m l } ∧
    (∀ l, x.writes m l → g.vpair (2 * d.val) l = f l) ∧
    p = { x.p.retire q .none with fstat := x.p.fstat ||| fl }
/-- The flags of the lanes of a mask, ORed (07 R132). -/
def View.orFlags (x : View) (m : Lanes) (f : Nat → FFlags) : FFlags :=
  (lanesBelow x.w m).foldl (fun a l => a ||| f l) FFlags.none

/-! ## Invariants -/

/-- Device memory, host memory and every scratchpad are in their canonical form. -/
def State.MemoryCanonical (s : State) : Prop :=
  Memory.wf s.mem = true ∧ Memory.wf s.host = true ∧
    ∀ e ∈ s.teams, Memory.wf e.2.side0.spad = true ∧ Memory.wf e.2.side1.spad = true

/-- Every number in use lies below the next one, and the tables list each number once, in order. -/
structure State.NumbersFresh (s : State) : Prop where
  reqs : ∀ e ∈ s.reqs, e.1 < s.nextId
  ops : ∀ e ∈ s.ops, e.1 < s.nextId ∧ ∀ n ∈ e.2.covers ++ e.2.release, n < s.nextId
  deliveries : ∀ e ∈ s.deliveries, e.1 < s.nextId
  entries : ∀ e ∈ s.entries, e.1 < s.nextId
  teams : ∀ e ∈ s.teams, e.1 < s.nextId ∧ e.2.entry < s.nextId
  groups : ∀ e ∈ s.groups, e.1 < s.nextId ∧ e.2.team < s.nextId
  paths : ∀ e ∈ s.paths, e.1 < s.nextId
  walks : ∀ e ∈ s.walks, e.1 < s.nextId
  fills : ∀ e ∈ s.fills, e.1 < s.nextId
  sorted : SMap.rising s.reqs = true ∧ SMap.rising s.ops = true ∧ SMap.rising s.entries = true ∧ SMap.rising s.teams = true ∧
    SMap.rising s.groups = true ∧ SMap.rising s.paths = true ∧ SMap.rising s.walks = true

/-- Every fold register of a group holds a word that FD.SET accepts at the group's width (05 R94, 12 R239). -/
def State.FoldsLegal (s : State) : Prop :=
  ∀ n g t e, SMap.find? s.groups n = some g → SMap.find? s.teams g.team = some t → SMap.find? s.entries t.entry = some e →
    ∀ k, foldOk (g.fold k) e.body.width = true

end Sys2Proof.Machine
end

