-- ==== Sys2Proof/Certificates/Slice0/Obligations.lean ====
section
/-! DEFINITION. The statements for the provers, from the numbered rules of spec/. -/
section Statements
open Sys2Proof
open Sys2Proof.Machine

/-! ## Decoding, a step, reset, and what every step keeps -/

/-- A word of a context stands at an address in a core's instruction buffer, neither lost nor poisoned (21 R327; 00 R3 for the
order of its bytes). -/
def Sys2Proof.Machine.Stands (x : View) (a : Nat) (w : BitVec 64) : Prop :=
  ∃ l, (x.s.core x.g.core).codeLine x.e.ctx (a / 256) = some l ∧ l.flips = [] ∧ (∀ b ∈ l.bad, b = false) ∧
    ∀ k, k < 8 → w.toNat / 2 ^ (8 * k) % 256 = (l.bytes.getD (a % 256 / 8 * 8 + k) 0).toNat

/-- Where an arm that is not at its join steps: step gives the chosen arm its step (its wait through the starvation bound then
begins anew, 22 R341); a chain under way issues its next word, by exec; with no chain under way the words that stand at its PC
are decoded whole (08 R138, R144) and the first of them issues, by exec, in a state that differs by the decoded chain alone and
by what the buffer notes of its use. After a word that has issued, its path's next chain is of a later cycle, and memory and
everything outstanding is as the word left it; where a register that a result depends on carries poison, the word has its
effect, the launch faults with an imprecise POISON and the path issues nothing more (12 R229, 23 R347; that the word takes
effect is the model's choice, log 37). After a step, a group that SY.HALT stopped exits once its chains are done (10 R190). -/
def Obligations.StepRunsDecoded : Prop :=
  ∀ (s : State) (pid : Nat) (x : View),
    let s0 : State := { s.modPath pid (fun p => { p with waited := 0 }) with cur := some pid }
    s0.view = some x → x.atJoin = false →
    let after (y : View) (i : Instr) (r : Host.Outcome State Fault Refusal) : Host.Outcome State Fault Refusal := match r with
      | .next t =>
        if y.issuedIn t then match y.poisonedRead i with
          | none => .next (t.afterWord y)
          | some m => .next (((t.lateFault y.eid y.tid y.gid m y.p.pc .poison 0 1 (y.s.cycle, y.pid)).modPath y.pid (fun p =>
              { p with wait := .stopped, chain := [], latches := [], pos := 0, tables := [], locking := 0 })).afterWord y)
        else .next t
      | r => r
    (∀ k ks, s.expired = none → s.sched = k :: ks → s.choices[k]? = some (.arm pid) →
      step s = match ({ s with sched := ks } : State).issueArm exec pid with
        | .next t => .next t.stopWaiting.settleHalted
        | r => r) ∧
    (∀ i is, x.p.chain = i :: is → s.issueArm exec pid = after x i (exec i s0)) ∧
    (∀ (ws : List (BitVec 64)) (i : Instr) (is : List Instr), x.p.chain = [] →
      decodeChain x.w x.regs 8 [] ws = .ok (i :: is) →
      ws.length = is.length + 1 + (if qBit (ws.getD is.length 0) then 1 else 0) →
      (∀ k, k < ws.length → Stands x (x.p.pc.toNat + 8 * k) (ws.getD k 0)) →
      ∃ (u : State) (y : View), u.view = some y ∧
        y.p = { x.p with chain := i :: is, pos := 0, latches := [], live := y.p.live } ∧
        (qBit (ws.getD is.length 0) = true → y.p.live = ws.getD (is.length + 1) 0) ∧
        y.g = x.g ∧ y.t = x.t ∧ y.e = x.e ∧ u.mem = s.mem ∧ u.host = s.host ∧
        u.reqs = s.reqs ∧ u.ops = s.ops ∧ (∀ n, n ≠ pid → SMap.find? u.paths n = SMap.find? s.paths n) ∧
        ((y.wordReady i && !y.onHeldRead) = true → s.issueArm exec pid = after y i (exec i u)) ∧
        ((y.wordReady i && !y.onHeldRead) = false → s.issueArm exec pid = .next u)) ∧
    (∀ (t : State) (p : Path), SMap.find? t.paths pid = some p →
      SMap.find? (t.afterWord x).paths pid = some (if p.chain.isEmpty then { p with nextChain := t.cycle + 1 } else p) ∧
      (t.afterWord x).mem = t.mem ∧ (t.afterWord x).host = t.host ∧ (t.afterWord x).reqs = t.reqs ∧
      (t.afterWord x).ops = t.ops)

/-- Words of the spec decode to the instructions that it says they are (08's examples, 10 R188 and 10's examples): the bits, and
the instruction. -/
def Obligations.WordsDecode : Prop :=
  decodeTableWord 64 0x0003F80000000000 = some (.syNop ⟨false, false, .always, (), (), ()⟩) ∧
  decodeTableWord 64 0x0203F90580E1C000 =
    some (.siAdd ⟨false, false, .always, .reg 5, .s 1, .nat 7, (), ()⟩) ∧
  decodeTableWord 64 0x0257F86282424006 =
    some (.siCmp ⟨false, false, .always, 2, .s 4, .s 9, (), ⟨false, .ult⟩⟩) ∧
  decodeTableWord 64 0x101BF80441804003 =
    some (.ld ⟨false, false, .always, none, 8, .s 3, .v 2, .s16, 3⟩) ∧
  decodeTableWord 64 0x0103F8FFFFFB0000 = some (.brBra ⟨false, false, .always, 0, 0xFFFFFB, 0⟩) ∧
  decodeTableWord 64 0x0104180000030006 = some (.brBrv ⟨false, false, .lane 3 false, 0, 3, 6⟩) ∧
  decodeTableWord 64 0x0007F80000000000 = some (.syExit ⟨false, false, .always, (), (), ()⟩)

/-- Decoding the word that the encoder writes gives the instruction back, with every operand at every value that its encoding
admits, wherever the word's chain and group admit it: the chain and safe-point conditions of 08 R150 hold, its latches are
written and rightly placed, its registers are declared, and a CL.SHFX segment is no wider than the group. -/
def Obligations.DecodeEncode : Prop :=
  ∀ (i : Instr) (w : BitVec 64) (env : DecodeEnv), encode i = some w →
    chainBad env w = false → i.use.lats.any (LatchRead.misplaced env.latches) = false → i.use.top ≤ env.regs →
    i.use.lats.any (LatchRead.invalid env.latches) = false → (∀ v, i = .clShfx v → 2 ^ v.mod.g.val ≤ env.width) →
    decodeWord env w = .ok i

/-- A word whose uniform guard does not hold has no effect but to go on (08 R141), and its latch, if it writes one, holds 0
(08 R146: no lane was active); but for CL.SHTL, which takes part in its exchange whatever its guard (11 R224), and for a trap that
has issued and waits for the handler, which enters it without another look at the guard (10 R191). That BR.CALLV and PR.CNT then
write nothing is the model's choice between R141 and their own rules, log 67. -/
def Obligations.GuardFails : Prop :=
  ∀ (s : State) (x : View) (i : Instr) (w : BitVec 64), s.view = some x → encode i = some w →
    x.guardOn (Instr.guard i) = false → (∀ v, i ≠ .clShtl v) → (∀ b a c, x.p.wait ≠ .handler b a c) →
    ∃ l : Latch, exec i s = .next ({ x with p := x.p.retire (qBit w) l } : View).commit ∧
      match i.latch with
        | .none => l = .none
        | .uni => l = .uni 0
        | .lane => ∃ xs, l = .lanes xs ∧ ∀ k, SMap.getD xs k 0 = 0

/-- What the spec says of module reset: no function owns a twin pair, and the fields of its block are 0 (24 R365); no reset of
a function is in progress or reported (23 R358); no context is valid (24 R366); INVCMD is idle (24 R367); every queue is
disabled (24 R368); the counter starts (06 R116); and no team, walk or request is there. That reset is the moment after the
firmware was verified is the model's choice, log 14. -/
def Obligations.AfterReset : Prop :=
  let s := State.reset
  s.mode = .running ∧ s.cycle = 0 ∧ s.vfrstBusy = 0 ∧ s.vfrstDone = 0 ∧ s.invcmd = 0 ∧
  (∀ n, (s.fn n).part = 0 ∧ (s.fn n).saveBase = 0 ∧ (s.fn n).saveSize = 0 ∧ (s.fn n).tslice = 0 ∧ (s.fn n).mcgBase = 0) ∧
  (∀ c, s.context c = ⟨0, false, false, 0, false, 0⟩) ∧
  (∀ n q, (s.queue n q).enable = false ∧ (s.queue n q).state = 3) ∧
  s.entries = [] ∧ s.teams = [] ∧ s.groups = [] ∧ s.paths = [] ∧ s.reqs = [] ∧ s.ops = [] ∧ s.tlb = [] ∧ s.derivs = [] ∧
  (∀ fn b h, s.spot fn b h = none)

/-- The invariants hold after reset. -/
def Obligations.InvariantsAtReset : Prop :=
  State.reset.MemoryCanonical ∧ State.reset.NumbersFresh ∧ State.reset.FoldsLegal

/-- Every step keeps device memory, host memory and the scratchpads in their canonical form. -/
def Obligations.StepKeepsMemoryCanonical : Prop :=
  ∀ s t, s.MemoryCanonical → step s = .next t → t.MemoryCanonical

/-- Every step keeps the numbers in use below the next one and the fold registers legal (12 R239: FD.SET writes no other
word). -/
def Obligations.StepKeepsNumbers : Prop :=
  ∀ s t, s.NumbersFresh → s.FoldsLegal → step s = .next t → t.NumbersFresh ∧ t.FoldsLegal

/-! ## SI, SM and PR (10 R170 to R177) -/

/-- R173, R175 (10): each 32-bit word of SI on two uniform sources, with a and b the source values, gives its register
and its latch the value of the table, sets no flag and changes nothing else. -/
def Obligations.UniformBinary : Prop :=
  ∀ (s : State) (x : View) (w : FmtA (Dest (Fin 64)) USrc USrc Unit Unit),
    s.view = some x → x.guardOn w.g = true →
    let y := x.sample (USrc.isClk w.a || USrc.isClk w.b)
    let a := y.uni w.a
    let b := y.uni w.b
    let gives (i : Instr) (ok : Word → Prop) : Prop := ∃ r, ok r ∧ Completes i s x (UniResult y w.d w.q r)
    gives (.siAdd w) (fun r => r.toNat = (a.toNat + b.toNat) % 2 ^ 32) ∧
    gives (.siSub w) (fun r => (r.toNat : Int) = ((a.toNat : Int) - b.toNat) % 2 ^ 32) ∧
    gives (.siMul w) (fun r => r.toNat = a.toNat * b.toNat % 2 ^ 32) ∧
    gives (.siAnd w) (fun r => ∀ k, k < 32 → r.getLsbD k = (a.getLsbD k && b.getLsbD k)) ∧
    gives (.siOr w) (fun r => ∀ k, k < 32 → r.getLsbD k = (a.getLsbD k || b.getLsbD k)) ∧
    gives (.siXor w) (fun r => ∀ k, k < 32 → r.getLsbD k = (a.getLsbD k != b.getLsbD k)) ∧
    gives (.siShl w) (fun r => r.toNat = a.toNat * 2 ^ b.toNat % 2 ^ 32) ∧
    gives (.siShr w) (fun r => r.toNat = a.toNat / 2 ^ b.toNat) ∧
    gives (.siSra w) (fun r => r.toInt = a.toInt / 2 ^ b.toNat) ∧
    gives (.siMin w) (fun r => r.toInt = min a.toInt b.toInt) ∧
    gives (.siMax w) (fun r => r.toInt = max a.toInt b.toInt) ∧
    gives (.siMinu w) (fun r => r.toNat = min a.toNat b.toNat) ∧
    gives (.siMaxu w) (fun r => r.toNat = max a.toNat b.toNat)

/-- R173, R175 (10): the remaining words of SI and SM with a 32-bit uniform result. -/
def Sys2Proof.Claim.UniformOther : Prop :=
  ∀ (s : State) (x : View), s.view = some x →
    (∀ w : FmtA (Dest (Fin 64)) USrc USrc Unit Bool, x.guardOn w.g = true →
      let y := x.sample (USrc.isClk w.a || USrc.isClk w.b)
      ∃ r, (if w.mod then r.toNat = (y.uni w.a).toNat * (y.uni w.b).toNat / 2 ^ 32
          else r.toInt = (y.uni w.a).toInt * (y.uni w.b).toInt / 2 ^ 32) ∧
        Completes (.siMulh w) s x (UniResult y w.d w.q r)) ∧
    (∀ w : FmtA (Dest (Fin 64)) USrc USrc USrc Unit, x.guardOn w.g = true →
      let y := x.sample (USrc.isClk w.a || USrc.isClk w.b || USrc.isClk w.cc)
      ∃ r, r.toNat = ((y.uni w.a).toNat * (y.uni w.b).toNat + (y.uni w.cc).toNat) % 2 ^ 32 ∧
        Completes (.siMad w) s x (UniResult y w.d w.q r)) ∧
    (∀ w : FmtA (Dest (Fin 64)) USrc Unit Unit Unit, x.guardOn w.g = true →
      let y := x.sample (USrc.isClk w.a)
      let a := (y.uni w.a).toNat
      (∃ r, (r.toNat ≤ 32 ∧ a < 2 ^ (32 - r.toNat) ∧ (r.toNat < 32 → 2 ^ (31 - r.toNat) ≤ a)) ∧
        Completes (.siClz w) s x (UniResult y w.d w.q r)) ∧
      (∃ r, r.toNat = ((List.range 32).map (fun k => a / 2 ^ k % 2)).sum ∧
        Completes (.siPopc w) s x (UniResult y w.d w.q r)) ∧
      Completes (.smMov w) s x (UniResult y w.d w.q (y.uni w.a))) ∧
    (∀ w : FmtA (Dest (Fin 64)) USrc USrc QSrc Unit, x.guardOn w.g = true →
      let y := x.sample (USrc.isClk w.a || USrc.isClk w.b)
      Completes (.siSel w) s x (UniResult y w.d w.q (if x.upred w.cc then y.uni w.a else y.uni w.b))) ∧
    (∀ w : FmtI (Dest (Fin 64)) Unit, x.guardOn w.g = true →
      ∃ r : Word, r.toInt = w.imm.toInt ∧ Completes (.smMovi w) s x (UniResult x w.d w.q r))

/-- R173, R176 (10): the words that write an even uniform pair. SM.MOVH keeps bits [22:0], writes bits [45:23] and clears
bits [63:46], or writes bits [63:46] and keeps the rest. -/
def Sys2Proof.Claim.UniformPairs : Prop :=
  ∀ (s : State) (x : View), s.view = some x →
    (∀ w : FmtA (Fin 32) USrc64 USrc64 Unit Unit, x.guardOn w.g = true →
      let a := x.uni64 w.a
      let b := x.uni64 w.b
      (∃ r : DWord, r.toNat = (a.toNat + b.toNat) % 2 ^ 64 ∧ Completes (.siAdd64 w) s x (PairResult x w.d w.q r)) ∧
      (∃ r : DWord, (r.toNat : Int) = ((a.toNat : Int) - b.toNat) % 2 ^ 64 ∧
        Completes (.siSub64 w) s x (PairResult x w.d w.q r)) ∧
      (∃ r : DWord, r.toNat = a.toNat * b.toNat % 2 ^ 64 ∧ Completes (.siMul64 w) s x (PairResult x w.d w.q r))) ∧
    (∀ w : FmtI (Fin 32) Bool, x.guardOn w.g = true →
      let v := (x.g.spair (2 * w.d.val)).toNat
      ∃ r : DWord,
        (if w.a then r.toNat % 2 ^ 46 = v % 2 ^ 46 ∧ r.toNat / 2 ^ 46 = w.imm.toNat % 2 ^ 18
          else r.toNat % 2 ^ 23 = v % 2 ^ 23 ∧ r.toNat / 2 ^ 23 = w.imm.toNat) ∧
        Completes (.smMovh w) s x (PairResult x w.d w.q r))

/-- R174 (10): SI.CMP writes q[D] = (a cond b), on 32-bit values or on even pairs, and changes nothing else; MOD gives the
condition, and every MOD value that the rule does not list raises ILLEGAL-INSTRUCTION. -/
def Obligations.UniformCompare : Prop :=
  (∀ (env : DecodeEnv) (w : BitVec 64), w.toNat / 2 ^ 56 % 64 = 0x02 → w.toNat / 2 ^ 50 % 64 = 0x15 →
    let mod := w.toNat % 32
    let listed : List Cond := [.eq, .ne, .slt, .sle, .sgt, .sge, .ult, .ule, .ugt, .uge]
    (10 ≤ mod % 16 → decodeWord env w = .error .illegalInstruction) ∧
    (∀ i, decodeWord env w = .ok i → ∃ y, i = .siCmp y ∧ y.mod.wide = decide (16 ≤ mod) ∧
      listed[mod % 16]? = some y.mod.cond)) ∧
  ∀ (s : State) (x : View) (w : FmtA (Fin 16) USrc USrc Unit SiCond), s.view = some x → x.guardOn w.g = true →
    let y := x.sample (USrc.isClk w.a || USrc.isClk w.b)
    let holds (ua ub : Nat) (sa sb : Int) : Prop := match w.mod.cond with
      | .eq => ua = ub
      | .ne => ua ≠ ub
      | .slt => sa < sb
      | .sle => sa ≤ sb
      | .sgt => sa > sb
      | .sge => sa ≥ sb
      | .ult => ua < ub
      | .ule => ua ≤ ub
      | .ugt => ua > ub
      | .uge => ua ≥ ub
    ∃ b : Bool,
      (b = true ↔ if w.mod.wide then
          holds (x.uniPair w.a).toNat (x.uniPair w.b).toNat (x.uniPair w.a).toInt (x.uniPair w.b).toInt
        else holds (y.uni w.a).toNat (y.uni w.b).toNat (y.uni w.a).toInt (y.uni w.b).toInt) ∧
      Completes (.siCmp w) s x (UniPredResult y w.d w.q b)

/-- R175 (10): the words of SM that write a uniform predicate. -/
def Sys2Proof.Claim.UniformPredicates : Prop :=
  ∀ (s : State) (x : View), s.view = some x →
    (∀ w : FmtA (Fin 16) QSrc QSrc Unit Unit, x.guardOn w.g = true →
      Completes (.smQand w) s x (UniPredResult x w.d w.q (x.upred w.a && x.upred w.b)) ∧
      Completes (.smQor w) s x (UniPredResult x w.d w.q (x.upred w.a || x.upred w.b)) ∧
      Completes (.smQxor w) s x (UniPredResult x w.d w.q (x.upred w.a != x.upred w.b))) ∧
    (∀ w : FmtA (Fin 16) QSrc Unit Unit Unit, x.guardOn w.g = true →
      Completes (.smQnot w) s x (UniPredResult x w.d w.q (!x.upred w.a))) ∧
    (∀ w : FmtA (Fin 16) USrc Unit Unit Unit, x.guardOn w.g = true →
      let y := x.sample (USrc.isClk w.a)
      Completes (.smQmov w) s x (UniPredResult y w.d w.q (decide ((y.uni w.a).toNat ≠ 0))))

/-- R115 (06): the number that a special register holds which reads the same in every lane of the group; of THERM, that it
is a 16-bit number. That CLKLO and CLKHI named by one word are one sample of the counter is the model's choice, log 28; that
STEPPING is that of x7a0, log 9; what BINDLO and BINDHI hold of a user trap, log 59; what LAUNCHNO counts, log 69. -/
def Sys2Proof.Machine.UniSpecial.Holds (x : View) (r : UniSpecial) (v : Nat) : Prop :=
  let b := x.e.body
  let halves : Nat := if b.twin then 2 else 1
  match r with
  | .grpid => v = x.g.idx % 2 ^ 32
  | .grpw => v = 8 * 2 ^ b.gw % 2 ^ 32
  | .ngrp => v = b.tdx * b.tdy * b.tdz / (8 * 2 ^ b.gw) % 2 ^ 32
  | .teamidX => v = x.t.x % 2 ^ 32
  | .teamidY => v = x.t.y % 2 ^ 32
  | .teamidZ => v = x.t.z % 2 ^ 32
  | .griddimX => v = b.gx % 2 ^ 32
  | .griddimY => v = b.gy % 2 ^ 32
  | .griddimZ => v = b.gz % 2 ^ 32
  | .teamdimX => v = b.tdx % 2 ^ 32
  | .teamdimY => v = b.tdy % 2 ^ 32
  | .teamdimZ => v = b.tdz % 2 ^ 32
  | .teamh => v = (2 ^ 21 * x.t.home + 2 ^ 16 * x.t.slot + x.t.gen) % 2 ^ 32
  | .pairside => v = if b.twin then x.g.idx % 2 else 0
  | .coreno => v = x.g.core % 2 ^ 32
  | .dieno => v = x.g.core / 64 % 2 ^ 32
  | .slotno => v = x.g.slot % 2 ^ 32
  | .execlo => v = x.p.exec.toNat % 2 ^ 32
  | .exechi => v = x.p.exec.toNat / 2 ^ 32
  | .regcnt => v = b.regs % 2 ^ 32
  | .spadsz => v = 16384 * ((b.spad + halves * 16384 - 1) / (halves * 16384)) % 2 ^ 32
  | .accrows => v = 64 * b.acc % 2 ^ 32
  | .arglo => v = b.argp.toNat % 2 ^ 32
  | .arghi => v = b.argp.toNat / 2 ^ 32
  | .launchno => v = x.e.seq % 2 ^ 32
  | .prio => v = b.prio % 2 ^ 32
  | .vfid => v = x.e.fn % 2 ^ 32
  | .clklo => v = x.s.cycle % 2 ^ 32
  | .clkhi => v = x.g.clk.toNat / 2 ^ 32
  | .therm => v < 2 ^ 16
  | .droopcnt => v = min (2 ^ 32 - 1) (if x.g.core = x.t.core then x.t.droop0 else x.t.droop1)
  | .trapcode => v = x.p.trapCode.toNat
  | .trappclo => v = x.p.trapPc.toNat % 2 ^ 32
  | .trappchi => v = x.p.trapPc.toNat / 2 ^ 32
  | .traparg => v = x.p.trapArg.toNat
  | .peerid => v = x.s.peerid % 2 ^ 32
  | .domsize => v = x.s.domsize % 2 ^ 32
  | .bindlo => v = x.p.bindAddr.toNat % 2 ^ 32
  | .bindhi => v = x.p.bindAddr.toNat / 2 ^ 32
  | .wdog => v = if b.wdog = 0 then 0 else max 1 x.e.wdLeft % 2 ^ 32
  | .stepping => v = 0x7A0
  | .resumes => v = x.t.resumes % 2 ^ 32

/-- R142, R143, R146 (08), R80 (04), R115, R116 (06): what SM.MOV reads from each source: a uniform register, an integer
constant, a floating constant's FP32 image, a tag word, a uniform latch, a special register; a word that reads CLKLO samples the
counter for its group, once for both of its halves (log 28). -/
def Sys2Proof.Claim.UniformSources : Prop :=
  ∀ (s : State) (x : View) (w : FmtA (Dest (Fin 64)) USrc Unit Unit Unit), s.view = some x → x.guardOn w.g = true →
    let y := x.sample (USrc.isClk w.a)
    let moves (ok : Nat → Prop) : Prop := ∃ r : Word, ok r.toNat ∧ Completes (.smMov w) s x (UniResult y w.d w.q r)
    let images : List Nat :=
      [0x00000000, 0x80000000, 0x3F800000, 0xBF800000, 0x40000000, 0xC0000000, 0x3F000000, 0xBF000000,
       0x40800000, 0x3E800000, 0x41000000, 0x3E000000, 0x40400000, 0x41200000, 0x3DCCCCCD, 0x3FC00000,
       0x40490FDB, 0x3FC90FDB, 0x40C90FDB, 0x3EA2F983, 0x402DF854, 0x3F317218, 0x3FB8AA3B, 0x40549A78,
       0x3FB504F3, 0x3F3504F3, 0x7F800000, 0xFF800000, 0x7FC00000, 0x7F7FFFFF, 0x00800000, 0x34000000]
    (w.a = .x .clklo → y = { x with g := { x.g with clk := BitVec.ofNat 64 x.s.cycle } }) ∧ (w.a ≠ .x .clklo → y = x) ∧
    (∀ n, w.a = .s n → moves (fun v => v = (x.g.sreg n.val).toNat)) ∧
    (∀ n, w.a = .nat n → moves (fun v => v = n.val)) ∧
    (∀ n, w.a = .neg n → moves (fun v => v = 2 ^ 32 - 32 + n.val)) ∧
    (∀ n, w.a = .flt n → moves (fun v => images[n.val]? = some v)) ∧
    (∀ n, w.a = .k n → moves (fun v => v = ((x.g.tag n.val).count + 2 ^ 8 * (x.g.tag n.val).stat) % 2 ^ 32)) ∧
    (∀ n a, w.a = .t n → x.p.latches[n.val]? = some (.uni a) → moves (fun v => v = a.toNat)) ∧
    (∀ r, w.a = .x r → moves (UniSpecial.Holds x r))

/-- R115 (06), R142, R146 (08): what a lane of VJ.ADDI with the immediate 0 reads from each source: a vector register's lane, a
uniform source, broadcast, a latch, and the special registers that vary by lane or by slice: LANEID, SLICEID, TEAMLANE, GANGKEY;
PATHID, which is 0 in an undivided slice, and in a divided one 0 for the arm that holds its lowest active lane and 1 for the
other; DEPTH, the stack entries of the slice, one at least for a frame (DEPTH and PATHID by the model's reading, log 12). -/
def Sys2Proof.Claim.LaneSources : Prop :=
  ∀ (s : State) (x : View) (w : FmtI (Dest (Fin 256)) Src), s.view = some x → w.imm = 0 →
    let y := x.sample (Src.isClk w.a && x.guardOn w.g)
    let reads (v : Nat → Word → Prop) : Prop := ∃ r : Nat → Word, (∀ l, y.writes (y.active w.g) l → v l (r l)) ∧
      Completes (.vjAddi w) s x (LaneResult y w.d (y.active w.g) w.q r .none)
    (∀ n, w.a = .v n → reads (fun l a => a = x.g.vreg n.val l)) ∧
    (∀ b, w.a = .u b → (∀ n, b ≠ .t n) → reads (fun _ a => a = y.uni b)) ∧
    (∀ n a, w.a = .u (.t n) → x.p.latches[n.val]? = some (.uni a) → reads (fun _ r => r = a)) ∧
    (∀ n xs, w.a = .u (.t n) → x.p.latches[n.val]? = some (.lanes xs) → reads (fun l r => r = SMap.getD xs l 0)) ∧
    (w.a = .l .laneid → reads (fun l a => a.toNat = l % 2 ^ 32)) ∧
    (w.a = .l .sliceid → reads (fun l a => a.toNat = l / 4 % 2 ^ 32)) ∧
    (w.a = .l .teamlane → reads (fun l a => a.toNat = (x.g.idx * (8 * 2 ^ x.e.body.gw) + l) % 2 ^ 32)) ∧
    (w.a = .l .gangkey → reads (fun l a => a.toNat = x.g.key (l / 4) % 2 ^ 32)) ∧
    (s.NumbersFresh → w.a = .l .pathid → reads (fun l a =>
      (SMap.find? x.g.tops (l / 4) = none → a = 0) ∧
      ∀ f low, SMap.find? x.g.tops (l / 4) = some f → low / 4 = l / 4 → hasLane x.g.exited low = false →
        (∀ k, k / 4 = low / 4 → k < low → hasLane x.g.exited k = true ∨
          ∀ e ∈ s.paths, e.2.grp = x.gid → hasLane e.2.exec k = false) →
        (hasLane x.p.exec low = true → a = 0) ∧
        ∀ e ∈ s.paths, e.1 ≠ x.pid → e.2.grp = x.gid → hasLane e.2.mask low = true → hasLane e.2.exec low = true →
          hasLane x.p.exec low = false → a = 1)) ∧
    (s.NumbersFresh → w.a = .l .depth → reads (fun l a => a.toNat =
      ((s.paths.filter (fun e => e.2.grp == x.gid && (e.2.mask &&& sliceLanes (l / 4)) != 0)).map (fun e =>
        (e.2.frames.map (fun f => max 1 f.pend.length)).sum)).sum % 2 ^ 32))

/-- R177 (10): the words of PR write their predicate in the active lanes only, and leave the predicates of other lanes
unchanged; PR.CNT writes the number of active lanes whose a holds, 0 when no lane is active. -/
def Obligations.LanePredicates : Prop :=
  ∀ (s : State) (x : View), s.view = some x →
    (∀ w : FmtA (Fin 96) PSrc PSrc Unit Unit,
      let a (l : Nat) : Bool := hasLane (x.predLanes w.a) l
      let b (l : Nat) : Bool := hasLane (x.predLanes w.b) l
      let gives (i : Instr) (f : Nat → Bool) : Prop := Completes i s x (PredResult x w.d (x.active w.g) w.q f .none)
      gives (.prAnd w) (fun l => a l && b l) ∧ gives (.prOr w) (fun l => a l || b l) ∧
        gives (.prXor w) (fun l => a l != b l)) ∧
    (∀ w : FmtA (Fin 96) PSrc Unit Unit Unit,
      let a (l : Nat) : Bool := hasLane (x.predLanes w.a) l
      Completes (.prNot w) s x (PredResult x w.d (x.active w.g) w.q (fun l => !a l) .none) ∧
        Completes (.prMov w) s x (PredResult x w.d (x.active w.g) w.q a .none)) ∧
    (∀ w : FmtA (Fin 96) Src Src Unit Unit,
      let y := x.sample ((Src.isClk w.a || Src.isClk w.b) && x.guardOn w.g)
      Completes (.prSet w) s x (PredResult y w.d (y.active w.g) w.q
        (fun l => decide ((y.lane w.a l).toNat / 2 ^ ((y.lane w.b l).toNat % 32) % 2 = 1)) .none)) ∧
    (∀ w : FmtA (Fin 64) PSrc Unit Unit Unit, x.guardOn w.g = true →
      ∃ r : Word, r.toNat = ((List.range x.w).filter (fun l => hasLane (x.active w.g) l && hasLane (x.predLanes w.a) l)).length ∧
        Completes (.prCnt w) s x (fun g p =>
          x.g.Keeps g { Written.none with s := fun n => n = w.d.val } ∧ g.sreg w.d.val = r ∧ p = x.p.retire w.q .none))

/-- R173, R175, R176 (10): the words of SI and SM beyond those of two 32-bit sources: other 32-bit results, even pairs, uniform
predicates; and what SM.MOV reads from each kind of uniform source (R115 of 06, R142, R143 of 08, R80 of 04). -/
def Obligations.UniformWords : Prop :=
  Claim.UniformOther ∧ Claim.UniformPairs ∧ Claim.UniformPredicates ∧ Claim.UniformSources

/-! ## VI and VJ (11 R198 to R204) -/

/-- R198, R201 (11): each word of VI on two 32-bit sources gives every active lane of its register and its latch the
value of the table, from the sources as they stood before the word; every other lane keeps its destination. -/
def Obligations.LaneIntegerBinary : Prop :=
  ∀ (s : State) (x : View) (w : FmtA (Dest (Fin 256)) Src Src Unit Unit), s.view = some x →
    let y := x.sample ((Src.isClk w.a || Src.isClk w.b) && x.guardOn w.g)
    let gives (i : Instr) (ok : Word → Word → Word → Prop) : Prop := ∃ r : Nat → Word,
      (∀ l, y.writes (y.active w.g) l → ok (y.lane w.a l) (y.lane w.b l) (r l)) ∧
        Completes i s x (LaneResult y w.d (y.active w.g) w.q r .none)
    gives (.viAdd w) (fun a b r => r.toNat = (a.toNat + b.toNat) % 2 ^ 32) ∧
    gives (.viSub w) (fun a b r => (r.toNat : Int) = ((a.toNat : Int) - b.toNat) % 2 ^ 32) ∧
    gives (.viMul w) (fun a b r => r.toNat = a.toNat * b.toNat % 2 ^ 32) ∧
    gives (.viMulh w) (fun a b r => r.toInt = a.toInt * b.toInt / 2 ^ 32) ∧
    gives (.viMulhu w) (fun a b r => r.toNat = a.toNat * b.toNat / 2 ^ 32) ∧
    gives (.viAnd w) (fun a b r => ∀ k, k < 32 → r.getLsbD k = (a.getLsbD k && b.getLsbD k)) ∧
    gives (.viOr w) (fun a b r => ∀ k, k < 32 → r.getLsbD k = (a.getLsbD k || b.getLsbD k)) ∧
    gives (.viXor w) (fun a b r => ∀ k, k < 32 → r.getLsbD k = (a.getLsbD k != b.getLsbD k)) ∧
    gives (.viShl w) (fun a b r => r.toNat = a.toNat * 2 ^ b.toNat % 2 ^ 32) ∧
    gives (.viShr w) (fun a b r => r.toNat = a.toNat / 2 ^ b.toNat) ∧
    gives (.viSra w) (fun a b r => r.toInt = a.toInt / 2 ^ b.toNat) ∧
    gives (.viMin w) (fun a b r => r.toInt = min a.toInt b.toInt) ∧
    gives (.viMax w) (fun a b r => r.toInt = max a.toInt b.toInt) ∧
    gives (.viMinu w) (fun a b r => r.toNat = min a.toNat b.toNat) ∧
    gives (.viMaxu w) (fun a b r => r.toNat = max a.toNat b.toNat)

/-- R201, R203 (11): the words of VI with one source, three sources, a predicate source, or a 64-bit result. -/
def Sys2Proof.Claim.LaneIntegerOther : Prop :=
  ∀ (s : State) (x : View), s.view = some x →
    (∀ w : FmtA (Dest (Fin 256)) Src Unit Unit Unit,
      let y := x.sample (Src.isClk w.a && x.guardOn w.g)
      let gives (i : Instr) (ok : Word → Word → Prop) : Prop := ∃ r : Nat → Word,
        (∀ l, y.writes (y.active w.g) l → ok (y.lane w.a l) (r l)) ∧
          Completes i s x (LaneResult y w.d (y.active w.g) w.q r .none)
      gives (.viNot w) (fun a r => r.toNat = 2 ^ 32 - 1 - a.toNat) ∧
      gives (.viAbs w) (fun a r => r.toNat = a.toInt.natAbs) ∧
      gives (.viNeg w) (fun a r => (r.toNat : Int) = -(a.toNat : Int) % 2 ^ 32) ∧
      gives (.viClz w) (fun a r => r.toNat ≤ 32 ∧ a.toNat < 2 ^ (32 - r.toNat) ∧
        (r.toNat < 32 → 2 ^ (31 - r.toNat) ≤ a.toNat)) ∧
      gives (.viPopc w) (fun a r => r.toNat = ((List.range 32).map (fun k => a.toNat / 2 ^ k % 2)).sum)) ∧
    (∀ w : FmtA (Dest (Fin 256)) Src Src Src Unit,
      let y := x.sample ((Src.isClk w.a || Src.isClk w.b || Src.isClk w.cc) && x.guardOn w.g)
      ∃ r : Nat → Word,
        (∀ l, y.writes (y.active w.g) l →
          (r l).toNat = ((y.lane w.a l).toNat * (y.lane w.b l).toNat + (y.lane w.cc l).toNat) % 2 ^ 32) ∧
        Completes (.viMad w) s x (LaneResult y w.d (y.active w.g) w.q r .none)) ∧
    (∀ w : FmtA (Dest (Fin 256)) Src Src PSrc Unit,
      let y := x.sample ((Src.isClk w.a || Src.isClk w.b) && x.guardOn w.g)
      Completes (.viSel w) s x (LaneResult y w.d (y.active w.g) w.q
        (fun l => if hasLane (x.predLanes w.cc) l then y.lane w.a l else y.lane w.b l) .none)) ∧
    (∀ w : FmtA (Fin 128) Src Src Src64 Bool,
      let y := x.sample ((Src.isClk w.a || Src.isClk w.b) && x.guardOn w.g)
      ∃ r : Nat → DWord,
        (∀ l, y.writes (y.active w.g) l → ((r l).toNat : Int) =
          ((if w.mod then ((y.lane w.a l).toNat : Int) * (y.lane w.b l).toNat else (y.lane w.a l).toInt * (y.lane w.b l).toInt)
            + (y.lane64 w.cc l).toNat) % 2 ^ 64) ∧
        Completes (.viMad64 w) s x (LanePairResult y w.d (y.active w.g) w.q r .none)) ∧
    (∀ w : FmtA (Fin 128) Src64 Src64 Unit Unit,
      let gives (i : Instr) (ok : DWord → DWord → DWord → Prop) : Prop := ∃ r : Nat → DWord,
        (∀ l, x.writes (x.active w.g) l → ok (x.lane64 w.a l) (x.lane64 w.b l) (r l)) ∧
          Completes i s x (LanePairResult x w.d (x.active w.g) w.q r .none)
      gives (.viAdd64 w) (fun a b r => r.toNat = (a.toNat + b.toNat) % 2 ^ 64) ∧
      gives (.viSub64 w) (fun a b r => (r.toNat : Int) = ((a.toNat : Int) - b.toNat) % 2 ^ 64))

/-- R201 (11): VI.ADDS and VI.SUBS give the exact sum or difference kept within −2^31..2^31 − 1, or within 0..2^32 − 1
under .U. -/
def Sys2Proof.Claim.LaneSaturating : Prop :=
  ∀ (s : State) (x : View) (w : FmtA (Dest (Fin 256)) Src Src Unit Bool), s.view = some x →
    let y := x.sample ((Src.isClk w.a || Src.isClk w.b) && x.guardOn w.g)
    let num (a : Word) : Int := if w.mod then (a.toNat : Int) else a.toInt
    let lo : Int := if w.mod then 0 else -(2 ^ 31)
    let hi : Int := if w.mod then 2 ^ 32 - 1 else 2 ^ 31 - 1
    let gives (i : Instr) (f : Int → Int → Int) : Prop := ∃ r : Nat → Word,
      (∀ l, y.writes (y.active w.g) l → num (r l) = max lo (min hi (f (num (y.lane w.a l)) (num (y.lane w.b l))))) ∧
        Completes i s x (LaneResult y w.d (y.active w.g) w.q r .none)
    gives (.viAdds w) (fun a b => a + b) ∧ gives (.viSubs w) (fun a b => a - b)

/-- R202 (11): with pos = b[4:0], len = b[13:8] and n = min(len, 32 − pos), VI.BFE gives bits pos to pos + n − 1 of a,
sign-extended from bit n − 1 under .S, and 0 when n is 0; VI.BFI gives c with those bits taken from the low bits of a. -/
def Sys2Proof.Claim.BitFields : Prop :=
  ∀ (s : State) (x : View), s.view = some x →
    let pos (b : Word) : Nat := b.toNat % 32
    let n (b : Word) : Nat := min (b.toNat / 256 % 64) (32 - pos b)
    (∀ w : FmtA (Dest (Fin 256)) Src Src Unit Bool,
      let y := x.sample ((Src.isClk w.a || Src.isClk w.b) && x.guardOn w.g)
      ∃ r : Nat → Word,
        (∀ l, y.writes (y.active w.g) l →
          let a := y.lane w.a l
          let b := y.lane w.b l
          ∀ k, k < 32 → (r l).getLsbD k =
            if k < n b then a.getLsbD (pos b + k)
            else w.mod && decide (0 < n b) && a.getLsbD (pos b + n b - 1)) ∧
        Completes (.viBfe w) s x (LaneResult y w.d (y.active w.g) w.q r .none)) ∧
    (∀ w : FmtA (Dest (Fin 256)) Src Src Src Unit,
      let y := x.sample ((Src.isClk w.a || Src.isClk w.b || Src.isClk w.cc) && x.guardOn w.g)
      ∃ r : Nat → Word,
        (∀ l, y.writes (y.active w.g) l →
          let b := y.lane w.b l
          ∀ k, k < 32 → (r l).getLsbD k =
            if pos b ≤ k ∧ k < pos b + n b then (y.lane w.a l).getLsbD (k - pos b) else (y.lane w.cc l).getLsbD k) ∧
        Completes (.viBfi w) s x (LaneResult y w.d (y.active w.g) w.q r .none))

/-- R203 (11): VI.DOT4 and VI.DOT2 give (c + Σk ak × bk)[31:0] over the four bytes or the two halves of a and b, both
signed, both unsigned under .U, a signed and b unsigned under .SU. -/
def Sys2Proof.Claim.DotProducts : Prop :=
  ∀ (s : State) (x : View) (w : FmtA (Dest (Fin 256)) Src Src Src DotMode), s.view = some x →
    let y := x.sample ((Src.isClk w.a || Src.isClk w.b || Src.isClk w.cc) && x.guardOn w.g)
    let unsigned (a : Word) (bits k : Nat) : Int := ((a.toNat / 2 ^ (bits * k) % 2 ^ bits : Nat) : Int)
    let signed (a : Word) (bits k : Nat) : Int :=
      if unsigned a bits k < 2 ^ (bits - 1) then unsigned a bits k else unsigned a bits k - 2 ^ bits
    let elA := if w.mod = .uu then unsigned else signed
    let elB := if w.mod = .ss then signed else unsigned
    let gives (i : Instr) (bits count : Nat) : Prop := ∃ r : Nat → Word,
      (∀ l, y.writes (y.active w.g) l → ((r l).toNat : Int) = (((y.lane w.cc l).toNat : Int) +
        ((List.range count).map (fun k => elA (y.lane w.a l) bits k * elB (y.lane w.b l) bits k)).sum) % 2 ^ 32) ∧
        Completes i s x (LaneResult y w.d (y.active w.g) w.q r .none)
    gives (.viDot4 w) 8 4 ∧ gives (.viDot2 w) 16 2

/-- R204 (11): the words of VJ, with a the lane's source and i the immediate, sign-extended for ADDI, ANDI and MOVI and
zero-extended for ORI and XORI; SHLI takes a well-formed immediate, below 32. -/
def Sys2Proof.Claim.LaneImmediates : Prop :=
  ∀ (s : State) (x : View), s.view = some x →
    (∀ w : FmtI (Dest (Fin 256)) Src,
      let y := x.sample (Src.isClk w.a && x.guardOn w.g)
      let sx (k : Nat) : Bool := w.imm.getLsbD (min k 22)
      let zx (k : Nat) : Bool := decide (k < 23) && w.imm.getLsbD k
      let gives (i : Instr) (ok : Word → Word → Prop) : Prop := ∃ r : Nat → Word,
        (∀ l, y.writes (y.active w.g) l → ok (y.lane w.a l) (r l)) ∧
          Completes i s x (LaneResult y w.d (y.active w.g) w.q r .none)
      gives (.vjAddi w) (fun a r => (r.toNat : Int) = ((a.toNat : Int) + w.imm.toInt) % 2 ^ 32) ∧
      gives (.vjAndi w) (fun a r => ∀ k, k < 32 → r.getLsbD k = (a.getLsbD k && sx k)) ∧
      gives (.vjOri w) (fun a r => ∀ k, k < 32 → r.getLsbD k = (a.getLsbD k || zx k)) ∧
      gives (.vjXori w) (fun a r => ∀ k, k < 32 → r.getLsbD k = (a.getLsbD k != zx k)) ∧
      (w.imm.toNat < 32 → gives (.vjShli w) (fun a r => r.toNat = a.toNat * 2 ^ w.imm.toNat % 2 ^ 32))) ∧
    (∀ w : FmtI (Dest (Fin 256)) Unit, ∃ r : Word, r.toInt = w.imm.toInt ∧
      Completes (.vjMovi w) s x (LaneResult x w.d (x.active w.g) w.q (fun _ => r) .none))

/-- R201, R204 (11): the words of VI beyond those of two 32-bit sources, the bit fields and the dot products, and the words of
VJ; and what a lane reads from each kind of source (R115 of 06, R142, R146 of 08). -/
def Obligations.LaneIntegerWords : Prop :=
  Claim.LaneIntegerOther ∧ Claim.LaneSaturating ∧ Claim.LaneImmediates ∧ Claim.LaneSources

/-- R202, R203 (11): the bit fields and the dot products of VI. -/
def Obligations.BitFieldsAndDots : Prop := Claim.BitFields ∧ Claim.DotProducts

/-! ## Number formats (07 R125 to R132) -/

/-- A value in units of 2^q; 0 for a value that is not finite. -/
def Sys2Proof.Machine.FVal.units (q : Int) : FVal → Int
  | .num s m e => (if s then -1 else 1) * ((m * 2 ^ (e - q).toNat : Nat) : Int)
  | _ => 0

/-- The six binary formats (07 R118 to R120). -/
def Sys2Proof.Machine.FFmt.all : List FFmt := [.f64, .f32, .f16, .bf16, .fE4m3, .fE5m2]

/-- R118 to R120, R127 (07): the value of a pattern of each format, by its sign, exponent and fraction; E4M3 has no infinity
and one NaN pattern a sign. As an operand a subnormal reads as a zero of its sign under FTZ. -/
def Sys2Proof.Claim.Patterns : Prop :=
  FFmt.all.map (fun f => (f.eb, f.fb, f.bias, f.e4m3)) =
    [(11, 52, 1023, false), (8, 23, 127, false), (5, 10, 15, false), (8, 7, 127, false), (4, 3, 7, true), (5, 2, 15, false)] ∧
  ∀ f ∈ FFmt.all, ∀ (v : FEnv) (b : Nat), b < 2 * f.signBit →
    let s : Bool := decide (f.signBit ≤ b)
    let x := b / 2 ^ f.fb % 2 ^ f.eb
    let m := b % 2 ^ f.fb
    let top : Prop := if f.e4m3 then x = 15 ∧ m = 7 else x = 2 ^ f.eb - 1
    (¬ top → ∃ n e, f.val b = .num s n e ∧ (e : Int) = (max x 1 : Nat) - (f.bias : Int) - f.fb ∧
      n = (if x = 0 then 0 else 2 ^ f.fb) + m ∧
      f.operand v b = .num s (if v.ftz && x == 0 then 0 else n) e) ∧
    (top → f.operand v b = f.val b ∧
      (f.e4m3 = false → m = 0 → f.val b = .inf s) ∧
      (f.e4m3 = false → m ≠ 0 → f.val b = .nan s (m * 2 ^ (52 - f.fb)) (decide (2 ^ (f.fb - 1) ≤ m))) ∧
      (f.e4m3 = true → ∃ fr, f.val b = .nan s fr true))

/-- R125 (07): where no overflow is reported and FMT.FTZ is 0, a nonzero exact value x = ±m × 2^e becomes a finite value y
such that, of all finite values k of the format, y is the nearest to x under RNE, an even pattern at a tie; the largest
with |k| ≤ |x| under RZ; the least with k ≥ x under RU; the greatest with k ≤ x under RD. NX is set exactly when y ≠ x.
Values are compared in units of 2^q. -/
def Sys2Proof.Claim.Rounding : Prop :=
  ∀ f ∈ FFmt.all, ∀ (v : FEnv) (sat s : Bool) (m : Nat) (e q : Int), v.ftz = false → v.rm < 4 → 0 < m →
    q ≤ e → q ≤ f.qmin → (f.round v sat s m e).2 &&& .of = .none →
    let r := f.round v sat s m e
    let b := r.1 % f.signBit
    let x := FVal.units q (.num s m e)
    let y := (f.val r.1).units q
    let k (t : Bool) (n : Nat) : Int := (f.val (f.sign t n)).units q
    b ≤ f.maxBits ∧ r.1 = f.sign s b ∧
      (v.rm = 0 → ∀ t n, n ≤ f.maxBits →
        (x - y).natAbs ≤ (x - k t n).natAbs ∧ ((x - y).natAbs = (x - k t n).natAbs → k t n = y ∨ b % 2 = 0)) ∧
      (v.rm = 1 → y.natAbs ≤ x.natAbs ∧ ∀ n, n ≤ f.maxBits → (k s n).natAbs ≤ x.natAbs → (k s n).natAbs ≤ y.natAbs) ∧
      (v.rm = 2 → x ≤ y ∧ ∀ t n, n ≤ f.maxBits → x ≤ k t n → y ≤ k t n) ∧
      (v.rm = 3 → y ≤ x ∧ ∀ t n, n ≤ f.maxBits → k t n ≤ x → k t n ≤ y) ∧
      (r.2 &&& .nx = .nx ↔ y ≠ x)

/-- R125 (07): `z` is the whole number that the value x / one becomes under a rounding mode: the nearest, an even one at a tie;
the one toward zero; the least that is not below; the greatest that is not above. -/
def Sys2Proof.Machine.WholeOf (rm : Nat) (x one z : Int) : Prop :=
  (rm = 0 → 2 * (x - z * one).natAbs ≤ one.natAbs ∧ (2 * (x - z * one).natAbs = one.natAbs → z % 2 = 0)) ∧
    (rm = 1 → z.natAbs * one.natAbs ≤ x.natAbs ∧ x.natAbs < (z.natAbs + 1) * one.natAbs ∧ (0 ≤ x → 0 ≤ z) ∧ (x ≤ 0 → z ≤ 0)) ∧
    (rm = 2 → (z - 1) * one < x ∧ x ≤ z * one) ∧ (rm = 3 → z * one ≤ x ∧ x < (z + 1) * one)

/-- R126, R127 (07): OF is reported exactly where the magnitude, rounded to the format's precision with an unbounded exponent,
exceeds the largest finite value; and under FTZ = 0 UF exactly where the magnitude so rounded is below the smallest normal value
and the result is inexact. Values are in units of 2^q, and x has its leading bit at 2^(p + FB) of them, so that z × 2^p is x
rounded to the precision. -/
def Sys2Proof.Claim.OverflowAndTininess : Prop :=
  ∀ f ∈ FFmt.all, ∀ (v : FEnv) (sat s : Bool) (m : Nat) (e q : Int) (p : Nat), v.rm < 4 → q ≤ e → q ≤ f.qmin →
    let x := FVal.units q (.num s m e)
    2 ^ (p + f.fb) ≤ x.natAbs → x.natAbs < 2 ^ (p + f.fb + 1) →
    let r := f.round v sat s m e
    ∃ z : Int, WholeOf v.rm x (2 ^ p : Nat) z ∧
      (r.2 &&& .of = .of ↔ ((f.val f.maxBits).units q).natAbs < z.natAbs * 2 ^ p) ∧
      (v.ftz = false → (r.2 &&& .uf = .uf ↔ z.natAbs * 2 ^ p < 2 ^ (f.emin - q).toNat ∧ r.2 &&& .nx = .nx))

/-- R126 (07): what a result is that overflows, by mode and sign, for E4M3 and for a narrowing conversion under SATN. -/
def Sys2Proof.Claim.Overflow : Prop :=
  ∀ f ∈ FFmt.all, ∀ (v : FEnv) (sat s : Bool) (m : Nat) (e : Int), v.rm < 4 → 0 < m →
    (f.round v sat s m e).2 &&& .of = .of →
    let toInf : Bool := v.rm == 0 || (v.rm == 2 && !s) || (v.rm == 3 && s)
    f.round v sat s m e =
      (if !toInf then f.sign s f.maxBits
        else if sat then f.sign s f.maxBits
        else if f.e4m3 then (if v.nanc then 0x7F else f.sign s 0x7F)
        else f.sign s f.infBits,
      if toInf && sat then .of ||| .nx ||| .satf else .of ||| .nx)

/-- R127 (07): under FTZ a result that rounds to a nonzero subnormal becomes zero of the same sign, with UF and NX; UF is
never set without NX, and an exact result sets neither. -/
def Sys2Proof.Claim.FlushAndUnderflow : Prop :=
  ∀ f ∈ FFmt.all, ∀ (v : FEnv) (sat s : Bool) (m : Nat) (e : Int),
    let w : FEnv := { v with ftz := false }
    let r := f.round w sat s m e
    let sub : Bool := decide (0 < r.1 % f.signBit) && decide (r.1 % f.signBit < 2 ^ f.fb)
    f.round { v with ftz := true } sat s m e = (if sub then (f.sign s 0, .uf ||| .nx) else r) ∧
      (r.2 &&& .uf = .uf → r.2 &&& .nx = .nx)

/-- R125 (07): the sum of two finite values is their exact sum rounded once; an exact zero sum is −0.0 under RD and +0.0
under the other modes, except that the sum of two values of one sign keeps that sign. -/
def Sys2Proof.Claim.ExactSums : Prop :=
  ∀ f ∈ FFmt.all, ∀ (v : FEnv) (s t : Bool) (m n : Nat) (e d q : Int), q ≤ e → q ≤ d → v.rm < 4 →
    let x := FVal.units q (.num s m e) + FVal.units q (.num t n d)
    (x = 0 → f.sum v (.num s m e) (.num t n d) = (f.sign (if s = t then s else v.rm == 3) 0, .none)) ∧
      (x ≠ 0 → f.sum v (.num s m e) (.num t n d) = f.round v false (decide (x < 0)) x.natAbs q)

/-- R206 (11), R125, R207 (07, 11): an addition, a subtraction, a multiplication and a fused multiply-add of finite operands
are the exact value rounded once, in each format; an exact zero sum takes the sign of R125. With an infinite operand the result is
the infinity of IEEE 754, exact. Values are in units of 2^q. -/
def Sys2Proof.Claim.Arithmetic : Prop :=
  ∀ f ∈ FFmt.all, ∀ (v : FEnv) (a b c : Nat), v.rm < 4 →
    (∀ s m e t n d u k g q, f.operand v a = .num s m e → f.operand v b = .num t n d → f.operand v c = .num u k g →
      q ≤ e → q ≤ d → q ≤ g → q ≤ e + d →
      let x := FVal.units q (.num s m e)
      let y := FVal.units q (.num t n d)
      let z := FVal.units q (.num u k g)
      let p := FVal.units q (.num (s != t) (m * n) (e + d))
      let sum (i j : Int) (si sj : Bool) : FRes :=
        if i + j = 0 then (f.sign (if si = sj then si else v.rm == 3) 0, .none)
        else f.round v false (decide (i + j < 0)) (i + j).natAbs q
      f.add v a b = sum x y s t ∧ f.sub v a b = sum x (-y) s (!t) ∧ f.fma v a b c = sum p z (s != t) u ∧
        f.mul v a b = f.round v false (s != t) (m * n) (e + d)) ∧
    (∀ s t n d, f.operand v a = .inf s → f.operand v b = .num t n d →
      let inf (s : Bool) : FRes := (f.sign s f.infBits, .none)
      f.add v a b = inf s ∧ f.sub v a b = inf s ∧ f.add v b a = inf s ∧ f.sub v b a = inf (!s) ∧
        (n ≠ 0 → f.mul v a b = inf (s != t) ∧ f.mul v b a = inf (s != t) ∧
          ∀ u k g, f.operand v c = .num u k g → f.fma v a b c = inf (s != t) ∧ f.fma v b a c = inf (s != t)) ∧
        (∀ u k g, f.operand v c = .num u k g → f.fma v b c a = inf s))

/-- R130, R127 (07): MIN and MAX of two operands that are no NaN give the smaller or the larger pattern, with −0.0 below +0.0,
and no flag, a subnormal flushed under FTZ; MINN and MAXN do the same, and give the other operand where exactly one is NaN, with
NV only for a signalling NaN. -/
def Sys2Proof.Claim.Extrema : Prop :=
  ∀ f ∈ FFmt.all, ∀ (v : FEnv) (a b : Nat), a < 2 * f.signBit → b < 2 * f.signBit →
    let pat (x : Nat) : Nat := if v.ftz && x / 2 ^ f.fb % 2 ^ f.eb == 0 then x / f.signBit * f.signBit else x
    let key (x : Nat) : Int := if x < f.signBit then x else (f.signBit : Int) - 1 - x
    let low : Nat := if key (pat a) ≤ key (pat b) then pat a else pat b
    let high : Nat := if key (pat a) ≤ key (pat b) then pat b else pat a
    let nv (x : Nat) : FFlags := match f.val x with | .nan _ _ false => .nv | _ => .none
    ((f.val a).isNan = false → (f.val b).isNan = false →
      f.minMax v false a b = (low, .none) ∧ f.minMax v true a b = (high, .none) ∧
      f.minMaxNum v false a b = (low, .none) ∧ f.minMaxNum v true a b = (high, .none)) ∧
    ((f.val a).isNan = true → (f.val b).isNan = false → ∀ maxi, f.minMaxNum v maxi a b = (pat b, nv a)) ∧
    ((f.val a).isNan = false → (f.val b).isNan = true → ∀ maxi, f.minMaxNum v maxi a b = (pat a, nv b)) ∧
    ((f.val a).isNan = true → (f.val b).isNan = true → ∀ maxi, f.minMaxNum v maxi a b = f.minMax v maxi a b)

/-- R207 (11): FLOOR, CEIL, TRUNC and RINT give the whole number of their mode, with a's sign where it is zero, and NX only from
RINT, where it differs from a; FRACT gives a − FLOOR(a) rounded once, and the largest value below 1 where that would be 1. -/
def Sys2Proof.Claim.Integral : Prop :=
  ∀ f ∈ FFmt.all, ∀ (v : FEnv) (a : Nat) (s : Bool) (m : Nat) (e q : Int), v.rm < 4 → f.operand v a = .num s m e →
    q ≤ e → q ≤ 0 → q ≤ f.qmin →
    let x := FVal.units q (.num s m e)
    let one : Int := ((2 ^ (-q).toNat : Nat) : Int)
    (∀ mode nx, mode < 4 → ∃ z : Int, WholeOf mode x one z ∧
      (f.val (f.integral v mode nx a).1).units q = z * one ∧ (∃ n d, f.val (f.integral v mode nx a).1 = .num s n d) ∧
      (f.integral v mode nx a).2 = if nx ∧ z * one ≠ x then .nx else .none) ∧
    ∃ z : Int, WholeOf 3 x one z ∧
      let r : FRes := if x - z * one = 0 then (f.sign (v.rm == 3) 0, .none) else f.round v false false (x - z * one).natAbs q
      f.fract v a = if r.1 = f.bias * 2 ^ f.fb then (f.bias * 2 ^ f.fb - 1, r.2) else r

/-- R206, R207 (11): LDEXP rounds a × 2^b once. GETEXP gives floor(log2 |a|) exactly, and GETMANT |a| / 2^GETEXP(a) with the sign
of a, in 1 to 2, exactly; zeros, infinities and FRACT of an infinity by the rule's words. -/
def Sys2Proof.Claim.ExponentParts : Prop :=
  let f := FFmt.f32
  ∀ (v : FEnv) (a : Nat), v.rm < 4 →
    (∀ s m e, f.operand v a = .num s m e →
      (∀ b : Int, -(2 ^ 31) ≤ b → b < 2 ^ 31 → f.ldexp v a b = f.round v false s m (e + b)) ∧
      (m = 0 → f.getexp v a = (0xFF800000, .dz) ∧ f.getmant v a = (f.sign s 0, .none)) ∧
      (m ≠ 0 → ∃ k : Int, -149 ≤ k ∧ k ≤ 127 ∧ 2 ^ (k + 149).toNat ≤ m * 2 ^ (e + 149).toNat ∧
        m * 2 ^ (e + 149).toNat < 2 ^ (k + 150).toNat ∧
        (f.getexp v a).2 = .none ∧ (f.val (f.getexp v a).1).units (-149) = k * 2 ^ 149 ∧
        (f.getmant v a).2 = .none ∧ ∃ n d, f.val (f.getmant v a).1 = .num s n d ∧ 2 ^ 23 ≤ n ∧ n < 2 ^ 24 ∧ d = -23 ∧
          n * 2 ^ (k + 149).toNat = m * 2 ^ (e + 149).toNat * 2 ^ 23)) ∧
    (∀ s, f.operand v a = .inf s → f.getexp v a = (0x7F800000, .none) ∧ f.getmant v a = (0x7FC00000, .nv) ∧
      f.fract v a = (0x7FC00000, .nv))

/-- R208 (11): the FP32 value of VH.DOT2 on finite terms: c + a0 × b0 + a1 × b1 exactly, rounded once; an exact zero is −0.0
when every term is negative zero, or under RD when the terms' signs differ, and +0.0 otherwise. -/
def Sys2Proof.Claim.DotOfHalves : Prop :=
  ∀ (v : FEnv) (s0 t0 s1 t1 u : Bool) (m0 n0 m1 n1 k : Nat) (e0 d0 e1 d1 g q : Int), v.rm < 4 →
    q ≤ e0 + d0 → q ≤ e1 + d1 → q ≤ g →
    let x := FVal.units q (.num (s0 != t0) (m0 * n0) (e0 + d0)) + FVal.units q (.num (s1 != t1) (m1 * n1) (e1 + d1)) +
      FVal.units q (.num u k g)
    let same : Bool := (s0 != t0) == (s1 != t1) && (s1 != t1) == u
    dot2 v (.num s0 m0 e0) (.num t0 n0 d0) (.num s1 m1 e1) (.num t1 n1 d1) (.num u k g) =
      if x = 0 then (FFmt.f32.sign (if same then u else v.rm == 3) 0, .none)
      else FFmt.f32.round v false (decide (x < 0)) x.natAbs q

/-- R129 (07): in FP64, FP32, FP16 and BF16 an addition, subtraction, multiplication, minimum or maximum with a NaN operand
returns the first NaN of A and B, quieted with its sign and fraction kept, or the canonical NaN under NANC; NV is set exactly for
a signalling NaN. ∞ − ∞ and 0 × ∞ give the canonical NaN and NV. A fused multiply-add returns the first NaN of A, B and C in the
same way; where its product is 0 × ∞ it sets NV, and gives a NaN addend quieted, else the canonical NaN; a product that is an
infinity with the other infinity as addend is invalid too. -/
def Sys2Proof.Claim.NanSelection : Prop :=
  ∀ f ∈ [FFmt.f64, .f32, .f16, .bf16], ∀ (v : FEnv) (a b c : Nat), a < 2 * f.signBit → b < 2 * f.signBit → c < 2 * f.signBit →
    let inf : Nat := (2 ^ f.eb - 1) * 2 ^ f.fb
    let canon : Nat := inf + 2 ^ (f.fb - 1)
    let nan (x : Nat) : Bool := decide (inf < x % f.signBit)
    let signalling (x : Nat) : Bool := nan x && decide (x / 2 ^ (f.fb - 1) % 2 = 0)
    let quiet (x : Nat) : Nat := if v.nanc then canon else x + (if x / 2 ^ (f.fb - 1) % 2 = 0 then 2 ^ (f.fb - 1) else 0)
    let fl : FFlags := if signalling a || signalling b then .nv else .none
    let first : Nat := if nan a then a else b
    let zero (x : Nat) : Prop := ∃ s e, f.operand v x = .num s 0 e
    let infinite (x : Nat) : Prop := x % f.signBit = inf
    let invalid : Prop := infinite a ∧ zero b ∨ zero a ∧ infinite b
    ((nan a || nan b) = true →
      f.add v a b = (quiet first, fl) ∧ f.sub v a b = (quiet first, fl) ∧ f.mul v a b = (quiet first, fl) ∧
        f.minMax v false a b = (quiet first, fl) ∧ f.minMax v true a b = (quiet first, fl) ∧
        f.fma v a b c = (quiet first, if signalling c then .nv else fl)) ∧
    (infinite a → infinite b → (a ≠ b → f.add v a b = (canon, .nv)) ∧ (a = b → f.sub v a b = (canon, .nv))) ∧
    (invalid → f.mul v a b = (canon, .nv) ∧ f.fma v a b c = (if nan c then quiet c else canon, .nv)) ∧
    (¬ invalid → nan a = false → nan b = false → nan c = true →
      f.fma v a b c = (quiet c, if signalling c then .nv else .none)) ∧
    (¬ invalid → nan a = false → nan b = false → infinite a ∨ infinite b → infinite c →
      a / f.signBit + b / f.signBit + c / f.signBit = 1 ∨ a / f.signBit + b / f.signBit + c / f.signBit = 3 →
      f.fma v a b c = (canon, .nv))

/-- R131 (07): a finite float becomes the rounded integer when it is in range, with NX where it is inexact; out of range it
becomes the largest or the smallest integer, with NV and SATF and not NX; a NaN gives 0 and NV. -/
def Sys2Proof.Claim.FloatToInteger : Prop :=
  ∀ (v : FEnv) (signed : Bool) (n : Nat) (s : Bool) (m : Nat) (e : Int), v.rm < 4 → 0 < n →
    let lo : Int := if signed then -(2 ^ (n - 1) : Nat) else 0
    let hi : Int := if signed then (2 ^ (n - 1) : Nat) - 1 else (2 ^ n : Nat) - 1
    let k := roundShift v.rm s m (-e)
    let z : Int := if s then -(k.1 : Int) else k.1
    FVal.toInt v signed n (.num s m e) =
        (if z < lo then ((lo % (2 ^ n : Nat)).toNat, .nv ||| .satf)
        else if hi < z then ((hi % (2 ^ n : Nat)).toNat, .nv ||| .satf)
        else ((z % (2 ^ n : Nat)).toNat, if k.2 then .none else .nx)) ∧
      (∀ f qb, FVal.toInt v signed n (.nan s f qb) = (0, .nv)) ∧
      FVal.toInt v signed n (.inf s) = (((if s then lo else hi) % (2 ^ n : Nat)).toNat, .nv ||| .satf) ∧
      ∀ q : Int, q ≤ e → q ≤ 0 →
        let x := FVal.units q (.num s m e)
        let one : Int := ((2 ^ (-q).toNat : Nat) : Int)
        WholeOf v.rm x one z ∧ (k.2 = true ↔ z * one = x)

/-! ## VF, VH, VD, CV, VC and SF (11 R205 to R217, R225) -/

/-- The sign modifiers of R205 (11) on a pattern whose sign is bit `bits`: the sign cleared first, then inverted. -/
def Sys2Proof.Machine.signed (neg clear : Bool) (bits a : Nat) : Nat :=
  a % 2 ^ bits + (if ((a / 2 ^ bits % 2 == 1) && !clear) != neg then 2 ^ bits else 0)

/-- R205, R206 (11): each word of VF, for every active lane, by the operation of FP32 arithmetic that it names on its
sources with their sign modifiers, under the path's FMT; the flags of the active lanes are ORed into the path's FSTAT, and
nothing else changes. -/
def Sys2Proof.Claim.SingleWords : Prop :=
  ∀ (s : State) (x : View), s.view = some x →
    let v := FEnv.of x.p.fmt
    (∀ w : FmtA (Dest (Fin 256)) Src Src Unit FMod,
      let y := x.sample ((Src.isClk w.a || Src.isClk w.b) && x.guardOn w.g)
      let a (l : Nat) : Nat := Machine.signed w.mod.na w.mod.aa 31 (y.lane w.a l).toNat
      let b (l : Nat) : Nat := Machine.signed w.mod.nb false 31 (y.lane w.b l).toNat
      let gives (i : Instr) (f : Nat → Nat → FRes) : Prop := Completes i s x
        (LaneResult y w.d (y.active w.g) w.q (fun l => BitVec.ofNat 32 (f (a l) (b l)).1)
          (y.orFlags (y.active w.g) (fun l => (f (a l) (b l)).2)))
      gives (.vfAdd w) (FFmt.f32.add v) ∧ gives (.vfSub w) (FFmt.f32.sub v) ∧ gives (.vfMul w) (FFmt.f32.mul v) ∧
      gives (.vfMin w) (FFmt.f32.minMax v false) ∧ gives (.vfMax w) (FFmt.f32.minMax v true) ∧
      gives (.vfMinn w) (FFmt.f32.minMaxNum v false) ∧ gives (.vfMaxn w) (FFmt.f32.minMaxNum v true) ∧
      gives (.vfLdexp w) (fun a b => FFmt.f32.ldexp v a (BitVec.ofNat 32 b).toInt)) ∧
    (∀ w : FmtA (Dest (Fin 256)) Src Unit Unit FMod,
      let y := x.sample (Src.isClk w.a && x.guardOn w.g)
      let a (l : Nat) : Nat := Machine.signed w.mod.na w.mod.aa 31 (y.lane w.a l).toNat
      let gives (i : Instr) (f : Nat → FRes) : Prop := Completes i s x
        (LaneResult y w.d (y.active w.g) w.q (fun l => BitVec.ofNat 32 (f (a l)).1)
          (y.orFlags (y.active w.g) (fun l => (f (a l)).2)))
      gives (.vfFloor w) (FFmt.f32.integral v 3 false) ∧ gives (.vfCeil w) (FFmt.f32.integral v 2 false) ∧
      gives (.vfTrunc w) (FFmt.f32.integral v 1 false) ∧ gives (.vfRint w) (FFmt.f32.integral v v.rm true) ∧
      gives (.vfFract w) (FFmt.f32.fract v) ∧ gives (.vfGetexp w) (FFmt.f32.getexp v) ∧
      gives (.vfGetmant w) (FFmt.f32.getmant v)) ∧
    (∀ w : FmtA (Dest (Fin 256)) Src Src Src FMod,
      let y := x.sample ((Src.isClk w.a || Src.isClk w.b || Src.isClk w.cc) && x.guardOn w.g)
      let f (l : Nat) : FRes := FFmt.f32.fma v (Machine.signed w.mod.na w.mod.aa 31 (y.lane w.a l).toNat)
        (Machine.signed w.mod.nb false 31 (y.lane w.b l).toNat) (Machine.signed w.mod.nc false 31 (y.lane w.cc l).toNat)
      Completes (.vfFma w) s x (LaneResult y w.d (y.active w.g) w.q (fun l => BitVec.ofNat 32 (f l).1)
        (y.orFlags (y.active w.g) (fun l => (f l).2))))

/-- R208 (11): each word of VH computes its two 16-bit elements as VF computes one, in FP16, or in BF16 under .BF, and ORs
their flags; VH.DOT2 gives the FP32 sum of two products and an FP32 addend, rounded once. A floating constant fills both
elements (the model's reading, log 10). -/
def Sys2Proof.Claim.HalfWords : Prop :=
  ∀ (s : State) (x : View), s.view = some x →
    let v := FEnv.of x.p.fmt
    (∀ w : FmtA (Dest (Fin 256)) Src Src Unit FMod,
      let y := x.sample ((Src.isClk w.a || Src.isClk w.b) && x.guardOn w.g)
      let h : FFmt := if w.mod.bf then .bf16 else .f16
      let a (k l : Nat) : Nat := Machine.signed w.mod.na w.mod.aa 15 ((y.half h w.a l).toNat / 2 ^ (16 * k) % 2 ^ 16)
      let b (k l : Nat) : Nat := Machine.signed w.mod.nb false 15 ((y.half h w.b l).toNat / 2 ^ (16 * k) % 2 ^ 16)
      let gives (i : Instr) (f : Nat → Nat → FRes) : Prop := Completes i s x
        (LaneResult y w.d (y.active w.g) w.q
          (fun l => BitVec.ofNat 32 ((f (a 0 l) (b 0 l)).1 + 2 ^ 16 * (f (a 1 l) (b 1 l)).1))
          (y.orFlags (y.active w.g) (fun l => (f (a 0 l) (b 0 l)).2 ||| (f (a 1 l) (b 1 l)).2)))
      gives (.vhAdd w) (h.add v) ∧ gives (.vhSub w) (h.sub v) ∧ gives (.vhMul w) (h.mul v) ∧
      gives (.vhMin w) (h.minMax v false) ∧ gives (.vhMax w) (h.minMax v true)) ∧
    (∀ w : FmtA (Dest (Fin 256)) Src Src Src FMod,
      let y := x.sample ((Src.isClk w.a || Src.isClk w.b || Src.isClk w.cc) && x.guardOn w.g)
      let h : FFmt := if w.mod.bf then .bf16 else .f16
      let a (k l : Nat) : Nat := Machine.signed w.mod.na w.mod.aa 15 ((y.half h w.a l).toNat / 2 ^ (16 * k) % 2 ^ 16)
      let b (k l : Nat) : Nat := Machine.signed w.mod.nb false 15 ((y.half h w.b l).toNat / 2 ^ (16 * k) % 2 ^ 16)
      let c (k l : Nat) : Nat := Machine.signed w.mod.nc false 15 ((y.half h w.cc l).toNat / 2 ^ (16 * k) % 2 ^ 16)
      let f (k l : Nat) : FRes := h.fma v (a k l) (b k l) (c k l)
      let d (l : Nat) : FRes := dot2 v (h.operand v (a 0 l)) (h.operand v (b 0 l)) (h.operand v (a 1 l))
        (h.operand v (b 1 l)) (FFmt.f32.operand v (Machine.signed w.mod.nc false 31 (y.lane w.cc l).toNat))
      Completes (.vhFma w) s x (LaneResult y w.d (y.active w.g) w.q
        (fun l => BitVec.ofNat 32 ((f 0 l).1 + 2 ^ 16 * (f 1 l).1))
        (y.orFlags (y.active w.g) (fun l => (f 0 l).2 ||| (f 1 l).2))) ∧
      Completes (.vhDot2 w) s x (LaneResult y w.d (y.active w.g) w.q (fun l => BitVec.ofNat 32 (d l).1)
        (y.orFlags (y.active w.g) (fun l => (d l).2))))

/-- R209 (11): each word of VD is the VF word of the same name in FP64, on even pairs; it writes no latch. -/
def Sys2Proof.Claim.DoubleWords : Prop :=
  ∀ (s : State) (x : View), s.view = some x →
    let v := FEnv.of x.p.fmt
    let a (m : FMod) (o : Src64) (l : Nat) : Nat := Machine.signed m.na m.aa 63 (x.laneF64 o l).toNat
    let b (m : FMod) (o : Src64) (l : Nat) : Nat := Machine.signed m.nb false 63 (x.laneF64 o l).toNat
    let c (m : FMod) (o : Src64) (l : Nat) : Nat := Machine.signed m.nc false 63 (x.laneF64 o l).toNat
    let gives (i : Instr) (d : Fin 128) (g : Guard) (q : Bool) (f : Nat → FRes) : Prop := Completes i s x
      (LanePairResult x d (x.active g) q (fun l => BitVec.ofNat 64 (f l).1) (x.orFlags (x.active g) (fun l => (f l).2)))
    (∀ w : FmtA (Fin 128) Src64 Src64 Unit FMod,
      gives (.vdAdd w) w.d w.g w.q (fun l => FFmt.f64.add v (a w.mod w.a l) (b w.mod w.b l)) ∧
      gives (.vdSub w) w.d w.g w.q (fun l => FFmt.f64.sub v (a w.mod w.a l) (b w.mod w.b l)) ∧
      gives (.vdMul w) w.d w.g w.q (fun l => FFmt.f64.mul v (a w.mod w.a l) (b w.mod w.b l)) ∧
      gives (.vdMin w) w.d w.g w.q (fun l => FFmt.f64.minMax v false (a w.mod w.a l) (b w.mod w.b l)) ∧
      gives (.vdMax w) w.d w.g w.q (fun l => FFmt.f64.minMax v true (a w.mod w.a l) (b w.mod w.b l))) ∧
    (∀ w : FmtA (Fin 128) Src64 Src64 Src64 FMod,
      gives (.vdFma w) w.d w.g w.q (fun l => FFmt.f64.fma v (a w.mod w.a l) (b w.mod w.b l) (c w.mod w.cc l))) ∧
    (∀ w : FmtA (Fin 128) Src64 Unit Unit FMod,
      gives (.vdRint w) w.d w.g w.q (fun l => FFmt.f64.integral v v.rm true (a w.mod w.a l)))

/-- R210, R211 (11): CV.CVT converts by its row, from the low element, to the low element with the rest 0, 64 bits as an even pair. -/
def Sys2Proof.Claim.Conversions : Prop :=
  ∀ (s : State) (x : View) (w : FmtA (Dest (Fin 256)) Src Unit Unit Cvt), s.view = some x → w.mod.destOk w.d = true →
    let y := x.sample (Src.isClk w.a && x.guardOn w.g)
    let r (l : Nat) : FRes := convert (FEnv.of x.p.fmt) w.mod (y.cvtSrc w.mod w.a l)
    let fl := y.orFlags (y.active w.g) (fun l => (r l).2)
    if w.mod.wideDst then
      ∃ d : Fin 128, w.d = .reg ⟨2 * d.val, by omega⟩ ∧
        Completes (.cvCvt w) s x (LanePairResult y d (y.active w.g) w.q (fun l => BitVec.ofNat 64 (r l).1) fl)
    else Completes (.cvCvt w) s x (LaneResult y w.d (y.active w.g) w.q (fun l => BitVec.ofNat 32 (r l).1) fl)

/-- R131 (07), R210, R211 (11): the conversions, row by row. Float to float: a finite value rounded once, exact where it widens; an infinity stays
one, but in E4M3 NaN with NV, or under SATN the largest value with NV and SATF; a NaN by R129. Float to integer: as NansAndIntegers
says. Integer to float: rounded once. A narrowed integer: the low bits, or under SATN the nearest limit with SATF. -/
def Sys2Proof.Claim.ConversionRows : Prop :=
  ∀ v : FEnv,
    let floats : List (Cvt × FFmt × FFmt × Bool) :=
      [(.f32F16, .f16, .f32, false), (.f32Bf16, .bf16, .f32, false), (.f32E4m3, .fE4m3, .f32, false),
       (.f32E5m2, .fE5m2, .f32, false), (.f16F32, .f32, .f16, true), (.bf16F32, .f32, .bf16, true),
       (.e4m3F32, .f32, .fE4m3, true), (.e5m2F32, .f32, .fE5m2, true), (.f64F32, .f32, .f64, false),
       (.f32F64, .f64, .f32, true), (.e4m3F16, .f16, .fE4m3, true), (.e5m2F16, .f16, .fE5m2, true),
       (.e4m3Bf16, .bf16, .fE4m3, true), (.e5m2Bf16, .bf16, .fE5m2, true)]
    (∀ c f g narrow, (c, f, g, narrow) ∈ floats → ∀ a : Nat,
      (∀ s m e, f.operand v a = .num s m e → convert v c a = g.round v (narrow && v.satn) s m e ∧
        (narrow = false → (convert v c a).2 = .none ∧ ∀ q : Int, q ≤ e → q ≤ g.qmin →
          (g.val (convert v c a).1).units q = FVal.units q (.num s m e))) ∧
      (∀ s, f.operand v a = .inf s → convert v c a =
        if !g.e4m3 then (g.sign s g.infBits, .none)
        else if v.satn then (g.sign s 0x7E, .nv ||| .satf)
        else (if v.nanc then 0x7F else g.sign s 0x7F, .nv)) ∧
      (∀ s fr quiet, f.operand v a = .nan s fr quiet → convert v c a =
        (if v.nanc then g.nanBits else if g.e4m3 then g.sign s 0x7F
          else g.sign s (g.infBits + (fr / 2 ^ (52 - g.fb) ||| 2 ^ (g.fb - 1))), if quiet then .none else .nv))) ∧
    (∀ c f signed n, (c, f, signed, n) ∈ ([(.i32F32, .f32, true, 32), (.n32F32, .f32, false, 32), (.i32F64, .f64, true, 32),
        (.n32F64, .f64, false, 32), (.i64F64, .f64, true, 64)] : List (Cvt × FFmt × Bool × Nat)) →
      ∀ a, convert v c a = FVal.toInt v signed n (f.operand v a)) ∧
    (∀ c g signed n, (c, g, signed, n) ∈ ([(.f32I32, .f32, true, 32), (.f32N32, .f32, false, 32), (.f64I32, .f64, true, 32),
        (.f64N32, .f64, false, 32), (.f64I64, .f64, true, 64)] : List (Cvt × FFmt × Bool × Nat)) →
      ∀ a : Nat, a < 2 ^ n → convert v c a =
        let z : Int := if signed && decide (2 ^ (n - 1) ≤ a) then (a : Int) - (2 ^ n : Nat) else a
        g.round v false (decide (z < 0)) z.natAbs 0) ∧
    (∀ c signed k, (c, signed, k) ∈ ([(.i16I32, true, 16), (.n16N32, false, 16), (.i8I32, true, 8), (.n8N32, false, 8)] :
        List (Cvt × Bool × Nat)) → ∀ a : Nat, a < 2 ^ 32 →
      let z : Int := if signed && decide (2 ^ 31 ≤ a) then (a : Int) - 2 ^ 32 else a
      let lo : Int := if signed then -(2 ^ (k - 1) : Nat) else 0
      let hi : Int := if signed then (2 ^ (k - 1) : Nat) - 1 else (2 ^ k : Nat) - 1
      let w : Int := if v.satn then max lo (min hi z) else z
      convert v c a = ((w % (2 ^ k : Nat)).toNat, if v.satn ∧ w ≠ z then .satf else .none))

/-- R121 (07), R142, R143 (08), R210 (11): CV.CVT's sources: the low element, word or pair of a register; an integer constant,
sign-extended for 64 bits; a floating constant, exact in its format. -/
def Sys2Proof.Claim.ConversionSources : Prop :=
  ∀ (x : View) (c : Cvt) (l : Nat),
    let bits : Nat := match c with
      | .f32F16 | .e4m3F16 | .e5m2F16 | .f32Bf16 | .e4m3Bf16 | .e5m2Bf16 => 16
      | .f32E4m3 | .f32E5m2 => 8
      | .f32F64 | .i32F64 | .n32F64 | .i64F64 | .f64I64 => 64
      | _ => 32
    let fmt : Option FFmt := match c with
      | .f32F16 | .e4m3F16 | .e5m2F16 => some .f16
      | .f32Bf16 | .e4m3Bf16 | .e5m2Bf16 => some .bf16
      | .f32E4m3 => some .fE4m3
      | .f32E5m2 => some .fE5m2
      | .f32F64 | .i32F64 | .n32F64 | .i64F64 => some .f64
      | .f16F32 | .bf16F32 | .e4m3F32 | .e5m2F32 | .f64F32 | .i32F32 | .n32F32 => some .f32
      | _ => none
    let small : List (Nat × Int) := [(0, 0), (2, 64), (3, -64), (4, 128), (5, -128), (6, 32), (7, -32), (8, 256), (9, 16),
      (10, 512), (11, 8), (12, 192), (13, 640), (15, 96)]
    (∀ n, x.cvtSrc c (.v n) l = if bits = 64 then (x.g.vpair n.val l).toNat else (x.g.vreg n.val l).toNat % 2 ^ bits) ∧
    (∀ n, x.cvtSrc c (.u (.s n)) l = if bits = 64 then (x.g.spair n.val).toNat else (x.g.sreg n.val).toNat % 2 ^ bits) ∧
    (∀ n, x.cvtSrc c (.u (.nat n)) l = n.val) ∧ (∀ n, x.cvtSrc c (.u (.neg n)) l = 2 ^ bits - 32 + n.val) ∧
    (∀ f n z, fmt = some f → ((n : Fin 32).val, z) ∈ small → (f.val (x.cvtSrc c (.u (.flt n)) l)).units (-6) = z ∨
      (f.qmin < -6 ∧ (f.val (x.cvtSrc c (.u (.flt n)) l)).units f.qmin = z * 2 ^ (-6 - f.qmin).toNat))

/-- R41 (02), R122 to R124 (07), R213 (11): CV.QNT gives the code of the nearest codebook magnitude of |a| / bs, the smaller at a
tie, with a's sign; index 7 for an infinity and a NaN, and with NV where bs is not positive and finite. CV.QNT.SC gives the least scale
code from 1 whose block scale reaches |a|, else 255; a block scale is S × s × 2^−8 rounded to nearest even. -/
def Sys2Proof.Claim.QuantizingRules : Prop :=
  let mags : List Nat := [21, 65, 111, 159, 213, 278, 362, 512]
  let mag (i : Nat) : Nat := mags.getD i 0
  (∀ (v : FEnv) (a bs : Nat), a < 2 ^ 32 →
    let code (i : Nat) : Nat := if 2 ^ 31 ≤ a then 7 - i else 8 + i
    let positive : Prop := ∃ m e, FFmt.f32.operand v bs = .num false m e ∧ 0 < m
    (¬ positive → nqCode v a bs = (code 7, .nv)) ∧
    (positive → (∀ s m e, FFmt.f32.operand v a ≠ .num s m e) → nqCode v a bs = (code 7, .none)) ∧
    ∀ m e s n d q, FFmt.f32.operand v bs = .num false m e → 0 < m → FFmt.f32.operand v a = .num s n d → q ≤ e → q ≤ d →
      let x : Int := ((n * 2 ^ (d - q).toNat * 512 : Nat) : Int)
      let b : Int := ((m * 2 ^ (e - q).toNat : Nat) : Int)
      ∃ i, i < 8 ∧ nqCode v a bs = (code i, .none) ∧
        ∀ j, j < 8 → (x - b * mag i).natAbs ≤ (x - b * mag j).natAbs ∧
          ((x - b * mag i).natAbs = (x - b * mag j).natAbs → i ≤ j)) ∧
  (∀ c, c < 16 → (nqVal c).units (-9) = if c < 8 then -(mag (7 - c) : Int) else mag (c - 8)) ∧
  (∀ superscale k, k < 256 →
    (∀ t m e, FFmt.f32.val superscale = .num t m e →
      blockScale superscale k = (FFmt.f32.round ⟨0, false, false, false, true⟩ false t (m * k) (e - 8)).1) ∧
    (∀ t, FFmt.f32.val superscale = .inf t → blockScale superscale k = if k = 0 then 0x7FC00000 else FFmt.f32.sign t 0x7F800000) ∧
    ((FFmt.f32.val superscale).isNan = true → blockScale superscale k = 0x7FC00000)) ∧
  ∀ (v : FEnv) (a superscale : Nat), superscale < 2 ^ 32 →
    let flush (x : Nat) : Nat := if v.ftz && x / 2 ^ 23 % 256 == 0 then x / 2 ^ 31 * 2 ^ 31 else x
    let x := flush (a % 2 ^ 31)
    let reaches (c : Nat) : Prop :=
      let b := blockScale (flush superscale) c
      b ≤ 0x7F800000 ∧ x ≤ b ∨ b = 0x80000000 ∧ x = 0
    let r := scaleOf v a superscale
    1 ≤ r ∧ r ≤ 255 ∧ (0x7F800000 < x → r = 255) ∧
      (x ≤ 0x7F800000 → (∀ c, 1 ≤ c → c < r → ¬ reaches c) ∧ (r < 255 → reaches r))

/-- R128, R126, R127 (07): stochastic rounding of a finite value: of the neighbours n × 2^p and
(n + 1) × 2^p of |x|, the lower where t + r < 2^16, with t the part of the gap below |x| in units of 2^−16, else the upper. Beyond the
largest finite value it overflows as under RNE. Below the smallest normal value it is flushed under FTZ, and without FTZ rounded
once more, to nearest even, onto the subnormals, with UF and NX where x is inexact (the model's choice, log 53). Else NX exactly where x
is not the lower neighbour. Values are in units of 2^q. -/
def Sys2Proof.Claim.StochasticRounding : Prop :=
  ∀ f ∈ FFmt.all, ∀ (v : FEnv) (r : Nat) (s : Bool) (m : Nat) (e q : Int) (p : Nat), r < 2 ^ 16 → q ≤ e → q ≤ f.qmin →
    let x : Nat := m * 2 ^ (e - q).toNat
    2 ^ (p + f.fb) ≤ x → x < 2 ^ (p + f.fb + 1) →
    let exact : Prop := x % 2 ^ p = 0
    let n : Nat := x / 2 ^ p
    let k : Nat := if x % 2 ^ p ≠ 0 ∧ 2 ^ 16 ≤ x % 2 ^ p * 2 ^ 16 / 2 ^ p + r then n + 1 else n
    let u (b : Nat) : Nat := ((f.val b).units q).natAbs
    let beyond : FRes := if v.satn then (f.sign s f.maxBits, .of ||| .nx ||| .satf)
      else if f.e4m3 then (if v.nanc then 0x7F else f.sign s 0x7F, .of ||| .nx) else (f.sign s f.infBits, .of ||| .nx)
    let y := f.stochastic v r (.num s m e)
    let tiny : Prop := k * 2 ^ p < 2 ^ (f.emin - q).toNat
    let z := f.round ⟨0, false, v.satn, v.f8k, v.nanc⟩ v.satn s k (q + p)
    (u f.maxBits < k * 2 ^ p → y = beyond) ∧
    (tiny → v.ftz = true → y = (f.sign s 0, .uf ||| .nx)) ∧
    (tiny → v.ftz = false → y.1 = z.1 ∧ (exact → y.2 = z.2) ∧ (¬ exact → y.2 = .uf ||| .nx)) ∧
    (¬ tiny → k * 2 ^ p ≤ u f.maxBits → y.1 = f.sign s (y.1 % f.signBit) ∧ u y.1 = k * 2 ^ p ∧
      (exact → y.2 = .none) ∧ (¬ exact → y.2 = .nx))

/-- R212 (11): CV.PACK and CV.UNPK move elements without changing them, and set no flag. -/
def Sys2Proof.Claim.PackUnpack : Prop :=
  ∀ (s : State) (x : View), s.view = some x →
    (∀ w : FmtA (Dest (Fin 256)) Src Src Src PackKind,
      let y := x.sample ((Src.isClk w.a || Src.isClk w.b || Src.isClk w.cc) && x.guardOn w.g)
      ∃ r : Nat → Word,
        (∀ l, y.writes (y.active w.g) l →
          let a := (y.lane w.a l).toNat
          let b := (y.lane w.b l).toNat
          let c := (y.lane w.cc l).toNat
          (r l).toNat = match w.mod with
            | .h => a % 2 ^ 16 + b % 2 ^ 16 * 2 ^ 16
            | .b => a % 2 ^ 8 + b % 2 ^ 8 * 2 ^ 8 + c % 2 ^ 16 * 2 ^ 16
            | .n => a % 2 ^ 4 + b % 2 ^ 4 * 2 ^ 4 + c % 2 ^ 24 * 2 ^ 8) ∧
        Completes (.cvPack w) s x (LaneResult y w.d (y.active w.g) w.q r .none)) ∧
    (∀ w : FmtA (Dest (Fin 256)) Src Src Unit UnpkKind,
      let y := x.sample ((Src.isClk w.a || Src.isClk w.b) && x.guardOn w.g)
      ∃ r : Nat → Word,
        (∀ l, y.writes (y.active w.g) l →
          let b := (y.lane w.b l).toNat
          let part (n k : Nat) : Nat := (y.lane w.a l).toNat / 2 ^ (n * (b % k)) % 2 ^ n
          let sx (n a : Nat) : Int := if a < 2 ^ (n - 1) then (a : Int) else (a : Int) - (2 ^ n : Nat)
          match w.mod with
            | .z16 => (r l).toNat = part 16 2
            | .s16 => (r l).toInt = sx 16 (part 16 2)
            | .z8 => (r l).toNat = part 8 4
            | .s8 => (r l).toInt = sx 8 (part 8 4)
            | .z4 => (r l).toNat = part 4 8) ∧
        Completes (.cvUnpk w) s x (LaneResult y w.d (y.active w.g) w.q r .none))

/-- R210 to R215 (11): every word of CV completes. -/
def Sys2Proof.Claim.ConvertingWordsComplete : Prop :=
  ∀ (s : State) (x : View), s.view = some x →
    (∀ w, w.mod.destOk w.d = true → ∃ t, exec (.cvCvt w) s = .next t) ∧
    (∀ w, ∃ t, exec (.cvPack w) s = .next t) ∧ (∀ w, ∃ t, exec (.cvUnpk w) s = .next t) ∧
    (∀ w, ∃ t, exec (.cvQnt w) s = .next t) ∧ (∀ w, ∃ t, exec (.cvDqnt w) s = .next t) ∧
    (∀ w, ∃ t, exec (.cvQf8 w) s = .next t) ∧ (∀ w, ∃ t, exec (.cvSrnd w) s = .next t)

/-- R213 to R215 (11): per active lane: the NQ4 or scale code, q(code) × b rounded once, the FP8 product rounded once, stochastic
rounding by b[15:0]. CV.DQNT's narrow forms are narrowing conversions (the model's reading, log 11). -/
def Sys2Proof.Claim.QuantizingWords : Prop :=
  ∀ (s : State) (x : View), s.view = some x →
    let v := FEnv.of x.p.fmt
    let op (a : Word) : FVal := FFmt.f32.operand v a.toNat
    let once (f : FFmt) (sat : Bool) (xs : List FVal) (p : Option FVal) : FRes :=
      (f.nanOf v xs).getD (match p with | some z => f.ofVal v sat z | none => f.invalid)
    (∀ w : FmtA (Dest (Fin 256)) Src Src Unit Bool,
      let y := x.sample ((Src.isClk w.a || Src.isClk w.b) && x.guardOn w.g)
      let r (l : Nat) : FRes :=
        if w.mod then (scaleOf v (y.lane w.a l).toNat (y.lane w.b l).toNat, .none)
        else nqCode v (y.lane w.a l).toNat (y.lane w.b l).toNat
      Completes (.cvQnt w) s x (LaneResult y w.d (y.active w.g) w.q (fun l => BitVec.ofNat 32 (r l).1)
        (y.orFlags (y.active w.g) (fun l => (r l).2)))) ∧
    (∀ w : FmtA (Dest (Fin 256)) Src Src Src DqKind,
      let y := x.sample ((Src.isClk w.a || Src.isClk w.b || Src.isClk w.cc) && x.guardOn w.g)
      let f : FFmt := match w.mod with | .f32 => .f32 | .f16 => .f16 | .bf => .bf16
      let r (l : Nat) : FRes :=
        let c := (y.lane w.a l).toNat / 2 ^ (4 * ((y.lane w.cc l).toNat % 8)) % 16
        once f (w.mod != .f32 && v.satn) [op (y.lane w.b l)] ((nqVal c).times (op (y.lane w.b l)))
      Completes (.cvDqnt w) s x (LaneResult y w.d (y.active w.g) w.q (fun l => BitVec.ofNat 32 (r l).1)
        (y.orFlags (y.active w.g) (fun l => (r l).2)))) ∧
    (∀ w : FmtA (Dest (Fin 256)) Src Src Unit Qf8Kind,
      let y := x.sample ((Src.isClk w.a || Src.isClk w.b) && x.guardOn w.g)
      let e5 : Bool := match w.mod with | .fmt => v.f8k | .e4m3 => false | .e5m2 => true
      let r (l : Nat) : FRes := once (if e5 then .fE5m2 else .fE4m3) v.satn [op (y.lane w.a l), op (y.lane w.b l)]
        ((op (y.lane w.a l)).times (op (y.lane w.b l)))
      Completes (.cvQf8 w) s x (LaneResult y w.d (y.active w.g) w.q (fun l => BitVec.ofNat 32 (r l).1)
        (y.orFlags (y.active w.g) (fun l => (r l).2)))) ∧
    (∀ w : FmtA (Dest (Fin 256)) Src Src Unit SrndKind,
      let y := x.sample ((Src.isClk w.a || Src.isClk w.b) && x.guardOn w.g)
      let f : FFmt := match w.mod with | .f16 => .f16 | .bf => .bf16 | .e4m3 => .fE4m3 | .e5m2 => .fE5m2
      let r (l : Nat) : FRes := f.stochastic v ((y.lane w.b l).toNat % 2 ^ 16) (op (y.lane w.a l))
      Completes (.cvSrnd w) s x (LaneResult y w.d (y.active w.g) w.q (fun l => BitVec.ofNat 32 (r l).1)
        (y.orFlags (y.active w.g) (fun l => (r l).2))))

/-- R217 (11): the ten classes of a pattern, by its sign, exponent and fraction. -/
def Sys2Proof.Claim.Classes : Prop :=
  ∀ f ∈ [FFmt.f32, .f64, .f16, .bf16], ∀ a : Nat, a < 2 * f.signBit →
    let s : Bool := decide (f.signBit ≤ a)
    let x := a / 2 ^ f.fb % 2 ^ f.eb
    let m := a % 2 ^ f.fb
    f.class a =
      if x = 2 ^ f.eb - 1 then (if m = 0 then (if s then 2 else 9) else if m < 2 ^ (f.fb - 1) then 0 else 1)
      else if x = 0 then (if m = 0 then (if s then 5 else 6) else if s then 4 else 7)
      else if s then 3 else 8

/-- R216, R217 (11): VC.CMP, VC.CLASS and VC.TEST write their predicate in the active lanes. Float comparisons treat ±0.0 as
equal; a NaN makes every condition false except NE and UN, and only a signalling NaN sets NV. -/
def Obligations.LaneCompares : Prop :=
  Claim.Classes ∧ ∀ (s : State) (x : View), s.view = some x →
    let v := FEnv.of x.p.fmt
    (∀ w : FmtA (Fin 96) Src Src Unit VcMod, w.mod.ok = true →
      let y := x.sample ((Src.isClk w.a || Src.isClk w.b) && x.guardOn w.g)
      let m := y.active w.g
      let holds (lt eq : Bool) : Bool := match w.mod.cond with
        | .eq => eq | .ne => !eq | .lt => lt | .le => lt || eq | .gt => !lt && !eq | .ge => !lt | .un => false | .or => true
      let float (a b : FVal) : Bool :=
        if a.isNan || b.isNan then w.mod.cond == .ne || w.mod.cond == .un
        else
          let z := a.isZero && b.isZero
          holds (!z && a.below b) (z || (!a.below b && !b.below a))
      let quiet (a : FVal) : Bool := match a with | .nan _ _ q => q | _ => true
      let op (o : Src) (l : Nat) : FVal := if w.mod.ty = .f64 then FFmt.f64.operand v (y.lanePairF64 o l).toNat
        else FFmt.f32.operand v (y.lane o l).toNat
      Completes (.vcCmp w) s x (match w.mod.ty with
        | .i32 => PredResult y w.d m w.q (fun l => holds (decide ((y.lane w.a l).toInt < (y.lane w.b l).toInt))
            (y.lane w.a l == y.lane w.b l)) .none
        | .n32 => PredResult y w.d m w.q (fun l => holds (decide ((y.lane w.a l).toNat < (y.lane w.b l).toNat))
            (y.lane w.a l == y.lane w.b l)) .none
        | _ => PredResult y w.d m w.q (fun l => float (op w.a l) (op w.b l))
            (y.orFlags m (fun l => if quiet (op w.a l) && quiet (op w.b l) then .none else .nv)))) ∧
    (∀ w : FmtA (Fin 96) Src Src Unit ClassFmt,
      let y := x.sample ((Src.isClk w.a || Src.isClk w.b) && x.guardOn w.g)
      let k (l : Nat) : Nat := match w.mod with
        | .f32 => FFmt.f32.class (y.lane w.a l).toNat
        | .f64 => FFmt.f64.class (y.lanePairF64 w.a l).toNat
        | .f16 => FFmt.f16.class ((y.laneAs .f16 w.a l).toNat % 2 ^ 16)
        | .bf => FFmt.bf16.class ((y.laneAs .bf16 w.a l).toNat % 2 ^ 16)
      Completes (.vcClass w) s x (PredResult y w.d (y.active w.g) w.q (fun l => (y.lane w.b l).getLsbD (k l)) .none)) ∧
    (∀ w : FmtA (Fin 96) Src Src Unit Bool,
      let y := x.sample ((Src.isClk w.a || Src.isClk w.b) && x.guardOn w.g)
      Completes (.vcTest w) s x (PredResult y w.d (y.active w.g) w.q
        (fun l => (y.lane w.a l &&& y.lane w.b l != 0) != w.mod) .none))

/-- R125 (07): of the finite values of a format, the pattern b of sign s is what a real number becomes under a rounding mode:
`le n` says that the number is at most n × 2^q, `ge n` that it is at least that. The nearest is the one whose midpoints with the
others lie on its far side, with an even pattern where it meets one. -/
def Sys2Proof.Machine.FFmt.Rounded (f : FFmt) (rm : Nat) (q : Int) (le ge : Int → Prop) (b : Nat) : Prop :=
  let u (b : Nat) : Int := (f.val b).units q
  let finite (b : Nat) : Prop := b % f.signBit ≤ f.maxBits ∧ b < 2 * f.signBit
  finite b ∧
    (rm = 0 → ∀ k, finite k →
      (u b < u k → le ((u b + u k) / 2) ∧ (ge ((u b + u k) / 2) → b % 2 = 0)) ∧
      (u k < u b → ge ((u b + u k) / 2) ∧ (le ((u b + u k) / 2) → b % 2 = 0))) ∧
    (rm = 1 → (ge 0 → ge (u b) ∧ ∀ k, finite k → ge (u k) → u k ≤ u b) ∧
      (le 0 → le (u b) ∧ ∀ k, finite k → le (u k) → u b ≤ u k)) ∧
    (rm = 2 → le (u b) ∧ ∀ k, finite k → le (u k) → u b ≤ u k) ∧
    (rm = 3 → ge (u b) ∧ ∀ k, finite k → ge (u k) → u k ≤ u b)

/-- R225 (11), R125 (07): RCP, RSQ and SQRT of a finite nonzero value, where it is positive for the roots, are the exact 1/a,
1/√a and √a rounded once, with NX exactly where that is inexact; where no overflow is reported and FMT.FTZ is 0. EXP2 of an
integer from −126 to 127 and LOG2 of a power of two are exact. Values are in units of 2^q. -/
def Sys2Proof.Claim.ReciprocalsAndRoots : Prop :=
  let f := FFmt.f32
  (∀ (v : FEnv) (a : Nat) (s : Bool) (m : Nat) (e q : Int), v.ftz = false → v.rm < 4 → f.val a = .num s m e → 0 < m →
    q < f.qmin → q ≤ -e → 2 * q ≤ e → 2 * q ≤ -e →
    let sg : Int := if s then -1 else 1
    let is (r : FRes) (le ge : Int → Prop) : Prop := r.2 &&& .of = .none → f.Rounded v.rm q le ge r.1 ∧
      (r.2 &&& .nx = .nx ↔ ¬ (le ((f.val r.1).units q) ∧ ge ((f.val r.1).units q)))
    is (rcp v a) (fun n => sg * (2 ^ (-e - q).toNat : Nat) ≤ n * m) (fun n => n * m ≤ sg * (2 ^ (-e - q).toNat : Nat)) ∧
    (s = false →
      is (rsq v a) (fun n => 0 < n ∧ (2 ^ (-e - 2 * q).toNat : Nat) ≤ n * n * m)
        (fun n => n ≤ 0 ∨ n * n * m ≤ (2 ^ (-e - 2 * q).toNat : Nat)) ∧
      is (sqrtF v a) (fun n => 0 ≤ n ∧ ((m * 2 ^ (e - 2 * q).toNat : Nat) : Int) ≤ n * n)
        (fun n => n ≤ 0 ∨ n * n ≤ ((m * 2 ^ (e - 2 * q).toNat : Nat) : Int)))) ∧
  ∀ (v : FEnv) (k : Int), -126 ≤ k → k ≤ 127 →
    let i := (f.round ⟨0, false, false, false, false⟩ false (decide (k < 0)) k.natAbs 0).1
    let power := (k + 127).toNat * 2 ^ 23
    exp2F v (BitVec.ofNat 32 i) = (power, .none) ∧ log2F v (BitVec.ofNat 32 power) = (i, .none)

/-- R225, R129 (11, 07): a NaN operand of SF gives that NaN quieted, or the canonical one under NANC, with NV where it signals. NX
is set for every EXP2 of a number that is not whole, every LOG2 of a positive number that is no power of two, and every SIN, COS
and TANH of a nonzero number: none of these values is a binary fraction. -/
def Sys2Proof.Claim.FunctionFlags : Prop :=
  (∀ (v : FEnv) (a : Nat), a < 2 ^ 32 → 0x7F800000 < a % 2 ^ 31 →
    let quiet : Nat := if v.nanc then 0x7FC00000 else a + (if a / 2 ^ 22 % 2 = 0 then 2 ^ 22 else 0)
    let r : FRes := (quiet, if a / 2 ^ 22 % 2 = 0 then .nv else .none)
    let b := BitVec.ofNat 32 a
    rcp v a = r ∧ rsq v a = r ∧ sqrtF v a = r ∧ exp2F v b = r ∧ log2F v b = r ∧ sinF v b = r ∧ cosF v b = r ∧ tanhF v b = r) ∧
  ∀ (v : FEnv) (a : Word) (s : Bool) (m : Nat) (e : Int), v.rm < 4 → FFmt.f32.operand v a.toNat = .num s m e → 0 < m →
    (sinF v a).2 &&& .nx = .nx ∧ (cosF v a).2 &&& .nx = .nx ∧ (tanhF v a).2 &&& .nx = .nx ∧
    (e < 0 → m % 2 ^ (-e).toNat ≠ 0 → (exp2F v a).2 &&& .nx = .nx) ∧
    (s = false → (∀ k, m ≠ 2 ^ k) → (log2F v a).2 &&& .nx = .nx)

/-- R225 (11), R125 (07): values of EXP2, LOG2, SIN, COS and TANH at some points, each the exact value rounded once toward zero, to
nearest, and up: √2, 2^−0.1's FP32 argument, log2 3, log2 0.7, the sine and cosine of 1, of 3 and of 2^100, the hyperbolic tangent
of 1 and of −0.25. -/
def Sys2Proof.Claim.FunctionValues : Prop :=
  let at_ (f : FEnv → Word → FRes) (a z n u : Nat) : Prop :=
    f ⟨1, false, false, false, false⟩ (BitVec.ofNat 32 a) = (z, .nx) ∧
      f ⟨0, false, false, false, false⟩ (BitVec.ofNat 32 a) = (n, .nx) ∧
      f ⟨2, false, false, false, false⟩ (BitVec.ofNat 32 a) = (u, .nx)
  at_ exp2F 0x3F000000 0x3FB504F3 0x3FB504F3 0x3FB504F4 ∧
  at_ exp2F 0xBDCCCCCD 0x3F6EDB40 0x3F6EDB40 0x3F6EDB41 ∧
  at_ log2F 0x40400000 0x3FCAE00D 0x3FCAE00D 0x3FCAE00E ∧
  at_ log2F 0x3F333333 0xBF03BB11 0xBF03BB12 0xBF03BB11 ∧
  at_ sinF 0x3F800000 0x3F576AA4 0x3F576AA4 0x3F576AA5 ∧
  at_ sinF 0x40400000 0x3E1081C3 0x3E1081C3 0x3E1081C4 ∧
  at_ sinF 0x71800000 0xBF5F476C 0xBF5F476D 0xBF5F476C ∧
  at_ cosF 0x3F800000 0x3F0A5140 0x3F0A5140 0x3F0A5141 ∧
  at_ cosF 0x40400000 0xBF7D7025 0xBF7D7026 0xBF7D7025 ∧
  at_ cosF 0x71800000 0x3EFA759F 0x3EFA75A0 0x3EFA75A0 ∧
  at_ tanhF 0x3F800000 0x3F42F7D5 0x3F42F7D6 0x3F42F7D6 ∧
  at_ tanhF 0xBE800000 0xBE7ACBF5 0xBE7ACBF5 0xBE7ACBF5

/-- R225 (11): each word of SF gives every active lane the model's value of its function; RCP, RSQ and SQRT are the exact value
rounded once; the special cases are those of the rule's table; NaN operands and the flag NX; and EXP2, LOG2, SIN, COS and TANH at
sample points (elsewhere their values rest on log 7). -/
def Obligations.SpecialFunctions : Prop :=
  Claim.ReciprocalsAndRoots ∧ Claim.FunctionFlags ∧ Claim.FunctionValues ∧
  (∀ (s : State) (x : View) (w : FmtA (Dest (Fin 256)) Src Unit Unit Unit), s.view = some x →
    let v := FEnv.of x.p.fmt
    let y := x.sample (Src.isClk w.a && x.guardOn w.g)
    let gives (i : Instr) (f : Word → FRes) : Prop := Completes i s x
      (LaneResult y w.d (y.active w.g) w.q (fun l => BitVec.ofNat 32 (f (y.lane w.a l)).1)
        (y.orFlags (y.active w.g) (fun l => (f (y.lane w.a l)).2)))
    gives (.sfRcp w) (fun a => rcp v a.toNat) ∧ gives (.sfRsq w) (fun a => rsq v a.toNat) ∧
    gives (.sfSqrt w) (fun a => sqrtF v a.toNat) ∧ gives (.sfExp2 w) (exp2F v) ∧ gives (.sfLog2 w) (log2F v) ∧
    gives (.sfSin w) (sinF v) ∧ gives (.sfCos w) (cosF v) ∧ gives (.sfTanh w) (tanhF v)) ∧
  ∀ v : FEnv,
    let nan : FRes := (0x7FC00000, .nv)
    rcp v 0 = (0x7F800000, .dz) ∧ rcp v 0x80000000 = (0xFF800000, .dz) ∧ rcp v 0x7F800000 = (0, .none) ∧
    rcp v 0xFF800000 = (0x80000000, .none) ∧
    rsq v 0 = (0x7F800000, .dz) ∧ rsq v 0x80000000 = (0xFF800000, .dz) ∧ rsq v 0x7F800000 = (0, .none) ∧
    rsq v 0xFF800000 = nan ∧
    sqrtF v 0x80000000 = (0x80000000, .none) ∧ sqrtF v 0x7F800000 = (0x7F800000, .none) ∧ sqrtF v 0xFF800000 = nan ∧
    (∀ a, 0x80800000 ≤ a → a < 0xFF800000 → rsq v a = nan ∧ sqrtF v a = nan ∧ log2F v (BitVec.ofNat 32 a) = nan) ∧
    exp2F v 0xFF800000 = (0, .none) ∧ exp2F v 0x7F800000 = (0x7F800000, .none) ∧
    log2F v 0 = (0xFF800000, .dz) ∧ log2F v 0x80000000 = (0xFF800000, .dz) ∧ log2F v 0xFF800000 = nan ∧
    log2F v 0x3F800000 = (0, .none) ∧
    sinF v 0x7F800000 = nan ∧ sinF v 0xFF800000 = nan ∧ cosF v 0x7F800000 = nan ∧ cosF v 0xFF800000 = nan ∧
    sinF v 0 = (0, .none) ∧ sinF v 0x80000000 = (0x80000000, .none) ∧ cosF v 0 = (0x3F800000, .none) ∧
    cosF v 0x80000000 = (0x3F800000, .none) ∧
    tanhF v 0x7F800000 = (0x3F800000, .none) ∧ tanhF v 0xFF800000 = (0xBF800000, .none) ∧ tanhF v 0 = (0, .none) ∧
    tanhF v 0x80000000 = (0x80000000, .none)

/-- R118 to R120, R125 to R127 (07), R206 (11): the value of each pattern, rounding in the four modes, overflow, flush and
underflow, and sums, products and fused products of every format as the exact value rounded once. -/
def Obligations.RoundingRules : Prop :=
  Claim.Patterns ∧ Claim.Rounding ∧ Claim.OverflowAndTininess ∧ Claim.Overflow ∧ Claim.FlushAndUnderflow ∧ Claim.ExactSums ∧ Claim.Arithmetic

/-- R129, R131 (07): which NaN a result is, and conversion to integers. -/
def Obligations.NansAndIntegers : Prop := Claim.NanSelection ∧ Claim.FloatToInteger

/-- R130 (07), R205 to R209 (11): the words of VF, VH and VD, and what their operations give: with RoundingRules, which says what
addition, subtraction, multiplication and the fused product are, the minimum and maximum, whole numbers, fractions, exponents and
the dot product of halves. -/
def Obligations.FloatWords : Prop :=
  Claim.SingleWords ∧ Claim.HalfWords ∧ Claim.DoubleWords ∧ Claim.Extrema ∧ Claim.Integral ∧ Claim.ExponentParts ∧
    Claim.DotOfHalves

/-- R210 to R215 (11), R128, R131 (07): the words of CV complete and give their results, and the conversions, the quantising rules
and stochastic rounding that they name are the rules' own, by values. -/
def Obligations.ConversionWords : Prop :=
  Claim.ConvertingWordsComplete ∧ Claim.Conversions ∧ Claim.PackUnpack ∧ Claim.QuantizingWords ∧ Claim.ConversionRows ∧
    Claim.ConversionSources ∧ Claim.QuantizingRules ∧ Claim.StochasticRounding

/-! ## CL, PL and FD (11 R218 to R224; 05 R93 to R100; 12 R228 to R241) -/

/-- What a cross-lane source supplies (R218): lane j of a register, 0 for an exited lane and for an index at or beyond W. -/
def Sys2Proof.Machine.View.supplies (x : View) (n j : Nat) : Word :=
  if x.w ≤ j ∨ hasLane x.g.exited j = true then 0 else x.g.vreg n j

/-- The lane index that a shuffle's mode names from an index i and an amount b (R220). -/
def Sys2Proof.Machine.named (m : ShflMode) (i b : Nat) : Int :=
  match m with
  | .idx => b
  | .up => (i : Int) - b
  | .dn => (i : Int) + b
  | .xor => ((i ^^^ b : Nat) : Int)

/-- R218, R220 (11): CL.SHFL and CL.SHFX give each active lane the value of the lane that the mode names from its own index
i and its b: b, i − b, i + b or i xor b; SHFX within the lane's segment of 2^g lanes; 0 where that index lies outside. -/
def Sys2Proof.Claim.Shuffles : Prop :=
  ∀ (s : State) (x : View), s.view = some x →
    (∀ w : FmtA (Dest (Fin 256)) (Fin 256) Src Unit ShflMode,
      let y := x.sample (Src.isClk w.b && x.guardOn w.g)
      let f (i : Nat) : Word :=
        let j : Int := named w.mod i (y.lane w.b i).toNat
        if j < 0 then 0 else x.supplies w.a.val j.toNat
      Completes (.clShfl w) s x (LaneResult y w.d (y.active w.g) w.q f .none)) ∧
    (∀ w : FmtA (Dest (Fin 256)) (Fin 256) Src Unit ShfxMod,
      let y := x.sample (Src.isClk w.b && x.guardOn w.g)
      let n := 2 ^ w.mod.g.val
      let f (i : Nat) : Word :=
        let j : Int := named w.mod.mode (i % n) (y.lane w.b i).toNat
        if j < 0 ∨ n ≤ j then 0 else x.supplies w.a.val (i / n * n + j.toNat)
      Completes (.clShfx w) s x (LaneResult y w.d (y.active w.g) w.q f .none))

/-- The one result of a cross-lane word (R218, R221): to every active lane of a vector register, or of the latch where the
word names no register (the model's reading, log 18), or to a uniform register and a uniform latch; nothing when no lane is
active. -/
def Sys2Proof.Machine.OneResult (x : View) (d : Dest VSReg) (m : Lanes) (q : Bool) (a : Word) (fl : FFlags) (g : Group) (p : Path) :
    Prop :=
  ((∃ l, x.writes m l) → match d with
    | .reg (.v n) => LaneResult x (.reg n) m q (fun _ => a) fl g p
    | .latch => LaneResult x .latch m q (fun _ => a) fl g p
    | .reg (.s n) => x.g.Keeps g { Written.none with s := fun k => k = n.val } ∧ g.sreg n.val = a ∧
        p = { x.p.retire q (.uni a) with fstat := x.p.fstat ||| fl }) ∧
  ((∀ l, ¬ x.writes m l) → g = x.g ∧ p = x.p.retire q (match d with | .reg (.s _) => .uni 0 | _ => .lanes []))

/-- R221 (11): CL.RFL gives the value in the lowest active lane, CL.RDL the value in lane b, and CL.WRL writes a to lane b
alone and only when that lane is active. -/
def Sys2Proof.Claim.LaneReadsAndWrites : Prop :=
  ∀ (s : State) (x : View), s.view = some x →
    (∀ w : FmtA (Dest VSReg) (Fin 256) Unit Unit Unit,
      ∃ a, (∀ l, x.writes (x.active w.g) l → (∀ k, k < l → ¬ x.writes (x.active w.g) k) → a = x.supplies w.a.val l) ∧
        Completes (.clRfl w) s x (OneResult x w.d (x.active w.g) w.q a .none)) ∧
    (∀ w : FmtA (Dest VSReg) (Fin 256) USrc Unit Unit,
      let y := x.sample (USrc.isClk w.b && x.guardOn w.g)
      Completes (.clRdl w) s x
        (OneResult y w.d (y.active w.g) w.q (x.supplies w.a.val (y.uni w.b).toNat) .none)) ∧
    (∀ w : FmtA (Fin 256) USrc USrc Unit Unit,
      let y := x.sample ((USrc.isClk w.a || USrc.isClk w.b) && x.guardOn w.g)
      let b := (y.uni w.b).toNat
      Completes (.clWrl w) s x (fun g p =>
        y.g.Keeps g { Written.none with v := fun n l => n = w.d.val ∧ l = b ∧ y.writes (y.active w.g) l } ∧
          (y.writes (y.active w.g) b → g.vreg w.d.val b = y.uni w.a) ∧ p = y.p.retire w.q .none))

/-- The lane tree over 2^n values (05 R100): each block is its lower half combined with its upper half. -/
def Sys2Proof.Machine.blockTree {α : Type} (f : α → α → α) (at_ : Nat → α) : Nat → Nat → α
  | 0, i => at_ i
  | n + 1, i => f (blockTree f at_ n (2 * i)) (blockTree f at_ n (2 * i + 1))
/-- The value at c after n steps of a scan (05 R100): step t gives each c ≥ 2^t the value at c − 2^t combined with its own. -/
def Sys2Proof.Machine.scanTo {α : Type} (f : α → α → α) (at_ : Nat → α) : Nat → Nat → α
  | 0, c => at_ c
  | n + 1, c => if c < 2 ^ n then scanTo f at_ n c else f (scanTo f at_ n (c - 2 ^ n)) (scanTo f at_ n c)

/-- R222 (11), R100 (05), R136 (07): CL.RED and CL.SCAN over the active lanes' values, with the operation's identity in every
other lane; floating operations use the path's FMT and make every NaN canonical. A scan's flags are those of the steps that
its written values come from (the model's reading, log 18). -/
def Obligations.LaneReductions : Prop :=
  ∀ (s : State) (x : View) (n : Nat), s.view = some x → x.w = 2 ^ n →
    let v : FEnv := { FEnv.of x.p.fmt with nanc := true }
    let flt (r : FRes) (e : FFlags) : Word × FFlags := (BitVec.ofNat 32 r.1, e ||| r.2)
    let op (o : RedOp) (a b : Word × FFlags) : Word × FFlags :=
      let e := a.2 ||| b.2
      match o with
      | .add => (a.1 + b.1, e)
      | .min => (if a.1.toInt ≤ b.1.toInt then a.1 else b.1, e)
      | .max => (if a.1.toInt ≤ b.1.toInt then b.1 else a.1, e)
      | .minu => (if a.1.toNat ≤ b.1.toNat then a.1 else b.1, e)
      | .maxu => (if a.1.toNat ≤ b.1.toNat then b.1 else a.1, e)
      | .and => (a.1 &&& b.1, e)
      | .or => (a.1 ||| b.1, e)
      | .xor => (a.1 ^^^ b.1, e)
      | .fadd => flt (FFmt.f32.add v a.1.toNat b.1.toNat) e
      | .fmin => flt (FFmt.f32.minMax v false a.1.toNat b.1.toNat) e
      | .fmax => flt (FFmt.f32.minMax v true a.1.toNat b.1.toNat) e
    let identity (o : RedOp) : Word := match o with
      | .add => 0 | .or => 0 | .xor => 0 | .maxu => 0
      | .and => 0xFFFFFFFF | .minu => 0xFFFFFFFF
      | .min => 0x7FFFFFFF | .max => 0x80000000
      | .fadd => 0x80000000 | .fmin => 0x7F800000 | .fmax => 0xFF800000
    let from_ (g : Guard) (r : Fin 256) (o : RedOp) (i : Nat) : Word × FFlags :=
      (if hasLane (x.active g) i = true then x.supplies r.val i else identity o, .none)
    (∀ w : FmtA (Dest VSReg) (Fin 256) Unit Unit RedOp,
      let r := blockTree (op w.mod) (from_ w.g w.a w.mod) n 0
      Completes (.clRed w) s x (OneResult x w.d (x.active w.g) w.q r.1 r.2)) ∧
    (∀ w : FmtA (Dest (Fin 256)) (Fin 256) Unit Unit RedOp,
      let isFloat : Bool := w.mod == .fadd || w.mod == .fmin || w.mod == .fmax
      let r (i : Nat) : Word × FFlags := scanTo (op w.mod) (from_ w.g w.a w.mod) n i
      let out (i : Nat) : Word := if isFloat && decide (0x7F800000 < (r i).1.toNat % 2 ^ 31) then 0x7FC00000 else (r i).1
      Completes (.clScan w) s x (LaneResult x w.d (x.active w.g) w.q out (x.orFlags (x.active w.g) (fun i => (r i).2))))

/-- R223 (11): CL.BALLOT gives the mask of the active lanes whose predicate holds, CL.ANY whether one does, CL.ALL whether
every one does; with no lane active nothing is written. -/
def Sys2Proof.Claim.Votes : Prop :=
  ∀ (s : State) (x : View), s.view = some x →
    let some_ (g : Guard) : Prop := ∃ l, x.writes (x.active g) l
    (∀ w : FmtA (Fin 32) PSrc Unit Unit Unit,
      (some_ w.g → ∃ r : DWord,
        (∀ l, r.getLsbD l = true ↔ x.writes (x.active w.g) l ∧ hasLane (x.predLanes w.a) l = true) ∧
          Completes (.clBallot w) s x (PairResult x w.d w.q r)) ∧
      (¬ some_ w.g → Completes (.clBallot w) s x (fun g p => g = x.g ∧ p = x.p.retire w.q .none))) ∧
    (∀ w : FmtA (Fin 16) PSrc Unit Unit Unit,
      (some_ w.g → ∃ any all : Bool,
        (any = true ↔ ∃ l, x.writes (x.active w.g) l ∧ hasLane (x.predLanes w.a) l = true) ∧
        (all = true ↔ ∀ l, x.writes (x.active w.g) l → hasLane (x.predLanes w.a) l = true) ∧
        Completes (.clAny w) s x (UniPredResult x w.d w.q any) ∧ Completes (.clAll w) s x (UniPredResult x w.d w.q all)) ∧
      (¬ some_ w.g → Completes (.clAny w) s x (fun g p => g = x.g ∧ p = x.p.retire w.q .none) ∧
        Completes (.clAll w) s x (fun g p => g = x.g ∧ p = x.p.retire w.q .none)))

/-- R224, R227 (11): CL.SHTL. Outside a twin launch it faults, whatever its guard (08 R141 lets a guard that does not hold raise
nothing: the model's choice between the rules, log 68). Where the other group has
retired it receives 0. Where the other group has not executed its n-th exchange, the path's values are put away and the path waits,
and no other path of its group steps meanwhile. Where it has, the active lanes take that group's values, and the path that waits
there takes these. -/
def Obligations.HalfExchange : Prop :=
  ∀ (s : State) (x : View) (w : FmtA (Dest (Fin 256)) (Fin 256) Unit Unit Unit), s.view = some x →
    let m := x.active w.g
    let n := x.g.shtlCount
    let y : View := { x with g := { x.g with shtlCount := n + 1 } }
    (x.e.body.twin = false → Faults (.clShtl w) s x .illegalInstruction 0 0 0) ∧
    (∀ (u : State) (pid n k : Nat) (r : Path) (y : View), SMap.find? u.paths pid = some r →
      (∃ dest mask, r.wait = .shtl n dest mask k) → u.viewOf y.pid = some y → y.gid = r.grp → y.pid ≠ pid → y.ready = false) ∧
    (x.e.body.twin = true → x.partner = none →
      Completes (.clShtl w) s x (LaneResult y w.d m w.q (fun _ => 0) .none)) ∧
    (∀ h ph, x.e.body.twin = true → x.partner = some (h, ph) → SMap.find? s.groups h = some ph →
      (ph.shtlCount ≤ n → Completes (.clShtl w) s x (fun g p =>
        (∀ l, l < x.w → SMap.getD g.shtl (64 * n + l) 0 = x.supplies w.a.val l) ∧
          g = { x.g with shtlCount := n + 1, shtl := g.shtl } ∧
          p = { x.p.retire w.q (.lanes []) with
            wait := .shtl n (match w.d with | .reg d => some d.val | .latch => none) (m &&& lowLanes x.w)
              x.p.latches.length })) ∧
      (n < ph.shtlCount → Goes (.clShtl w) s (fun t =>
        (∃ g p, SMap.find? t.groups x.gid = some g ∧ SMap.find? t.paths x.pid = some p ∧
          LaneResult y w.d m w.q (fun l => SMap.getD ph.shtl (64 * n + l) 0) .none g p) ∧
        ∀ pid r d k a, SMap.find? s.paths pid = some r → r.grp = h → r.wait = .shtl n d k a →
          (∀ e ∈ s.paths, e.2.grp = h → (∃ d k a, e.2.wait = .shtl n d k a) → e = (pid, r)) →
          ∃ g, SMap.find? t.groups h = some g ∧
            (∀ i l, d = some i → i < 256 → l < x.w → hasLane k l = true → g.vreg i l = x.supplies w.a.val l) ∧
            ∃ xs, (∀ l, l < x.w → hasLane k l = true → SMap.getD xs l 0 = x.supplies w.a.val l) ∧
              SMap.find? t.paths pid = some { r with wait := .none, latches := r.latches.set a (.lanes xs) })))

/-! ## Planes -/

/-- fold_place (05 R96) is a bijection from the coordinates of a plane to the lanes of a replica and their local elements. -/
def Sys2Proof.Claim.FoldPlacement : Prop :=
  ∀ (f : FoldWord) (c d : Coord),
    (∀ a, c.get a < f.extent a) → (∀ a, d.get a < f.extent a) →
    let axis (crinkled : Bool) (g m k : Nat) : Nat × Nat := if crinkled then (k / 2 ^ m, k % 2 ^ m) else (k % 2 ^ g, k / 2 ^ g)
    let x := axis f.kx f.gx f.mx c.x
    let y := axis f.ky f.gy f.my c.y
    f.place c = (y.1 * 2 ^ f.gx + x.1, ((c.s1 * 2 ^ f.s0 + c.s0) * 2 ^ f.my + y.2) * 2 ^ f.mx + x.2) ∧
      (f.place c).1 < 2 ^ (f.gx + f.gy) ∧ (f.place c).2 < f.locals ∧
      f.coord (f.place c).1 (f.place c).2 = c ∧ (f.place c = f.place d → c = d)

/-- A coordinate of the plane. -/
def Sys2Proof.Machine.FoldWord.has (f : FoldWord) (c : Coord) : Prop := ∀ a, c.get a < f.extent a
/-- The element at a coordinate in a replica, of the registers that `v` reads (05 R95, R96). -/
def Sys2Proof.Machine.FoldWord.at_ (f : FoldWord) (v : Nat → Nat → Word) (base rep : Nat) (c : Coord) : Nat :=
  let p := f.place c
  let l := rep * 2 ^ (f.gx + f.gy) + p.1
  let k := p.2 * f.ewb
  if f.ew = 3 then (v (base + 2 * p.2) l).toNat + 2 ^ 32 * (v (base + 2 * p.2 + 1) l).toNat
  else (v (base + k / 4) l).toNat / 2 ^ (8 * (k % 4)) % 2 ^ (8 * f.ewb)
/-- What a plane word that completes leaves (12 R229, R230): each element that an active lane holds takes its value from the
registers as they stood before the word, and the flags are those of the written elements; registers outside the plane, bytes
of its registers that hold no element, and inactive lanes stay. -/
def Sys2Proof.Machine.PlaneResult (x : View) (d : Nat) (f : FoldWord) (m : Lanes) (q : Bool) (val : Nat → Coord → Nat × FFlags)
    (g : Group) (p : Path) : Prop :=
  x.g.Keeps g { Written.none with v := fun n l => d ≤ n ∧ n < d + f.nreg ∧ x.writes m l } ∧
  (∀ rep c, f.has c → x.writes m (rep * 2 ^ (f.gx + f.gy) + (f.place c).1) → f.at_ g.vreg d rep c = (val rep c).1) ∧
  (∀ l, x.writes m l → (f.locals * f.ewb) % 4 ≠ 0 → ∀ b, 8 * (f.locals * f.ewb % 4) ≤ b →
    (g.vreg (d + f.nreg - 1) l).getLsbD b = (x.g.vreg (d + f.nreg - 1) l).getLsbD b) ∧
  ∃ fl : FFlags, p = { x.p.retire q .none with fstat := x.p.fstat ||| fl } ∧
    ∀ k, fl.getLsbD k = true ↔ ∃ rep c, f.has c ∧ x.writes m (rep * 2 ^ (f.gx + f.gy) + (f.place c).1) ∧
      (val rep c).2.getLsbD k = true
/-- A plane word as a whole (12 R229, R230): with no lane active it only goes on; it faults on an odd register of 8-byte
elements, on its own check, and on a register beyond REGCNT, in this order; otherwise it completes. -/
def Sys2Proof.Machine.PlaneWord (i : Instr) (s : State) (x : View) (grd : Guard) (q : Bool) (a d : Nat) (fa fd : FoldWord)
    (own : Option Code) (val : Nat → Coord → Nat × FFlags) : Prop :=
  let m := x.active grd
  let odd : Prop := (fa.ew = 3 ∧ a % 2 = 1) ∨ (fd.ew = 3 ∧ d % 2 = 1)
  let beyond : Prop := x.regs < a + fa.nreg ∨ x.regs < d + fd.nreg
  ((∀ l, ¬ x.writes m l) → Completes i s x (fun g p => g = x.g ∧ p = x.p.retire q .none)) ∧
  ((∃ l, x.writes m l) →
    (odd → Faults i s x .illegalOperand 0 (m &&& lowLanes x.w) 0) ∧
    (¬ odd → ∀ c, own = some c → Faults i s x c 0 (m &&& lowLanes x.w) 0) ∧
    (¬ odd → own = none → beyond → Faults i s x .registerRange 0 (m &&& lowLanes x.w) 0) ∧
    (¬ odd → own = none → ¬ beyond → Completes i s x (PlaneResult x d fd m q val)))

/-- src_coord (05 R99): the position that a shifted position j of an axis of extent n stands for, none for zero bytes. -/
def Sys2Proof.Machine.Comes (edge n : Nat) (j : Int) (r : Option Nat) : Prop :=
  if 0 ≤ j ∧ j < n then r = some j.toNat
  else match edge with
    | 0 => r = none
    | 1 => ∃ k, k < n ∧ r = some k ∧ (j - k) % n = 0
    | 2 => r = some (if j < 0 then 0 else n - 1)
    | _ => if n = 1 then r = some 0
      else ∃ k, k < n ∧ r = some k ∧
        ((j - k) % (2 * (n - 1) : Nat) = 0 ∨ (j + k) % (2 * (n - 1) : Nat) = 0)

/-- R231, R232, R234, R235 (12) with R99 (05): the plane words that move elements, on a fold word that FD.SET accepts. (LANES of a
plane word's fault, in PlaneWord, are its active lanes: the model's reading, log 19.) -/
def Sys2Proof.Claim.PlaneMoves : Prop :=
  ∀ (s : State) (x : View), s.view = some x →
    (∀ w : FmtP Unit, foldOk (x.g.fold w.freg.val) x.w = true →
      let f := FoldWord.of (x.g.fold w.freg.val)
      let src (rep : Nat) (c : Coord) : Nat × FFlags := (f.at_ x.supplies w.a.val rep c, .none)
      let word (i : Instr) (own : Option Code) (val : Nat → Coord → Nat × FFlags) : Prop :=
        PlaneWord i s x w.g w.q w.a.val w.d.val f f own val
      let shifted (edge : Nat) (val : Nat → Coord → Nat × FFlags) : Prop := ∀ rep c, f.has c →
        ∃ r, Comes edge (f.extent w.axis)
            (if w.down then (c.get w.axis : Int) + w.dist.toNat else (c.get w.axis : Int) - w.dist.toNat) r ∧
          val rep c = match r with | some k => src rep (c.set w.axis k) | none => (0, .none)
      (∃ val, shifted (match w.edge with | .own => f.edge | .zero => 0 | .wrap => 1 | .clamp => 2 | .mirror => 3) val ∧
        word (.plShf w) none val) ∧
      (∃ val, shifted 1 val ∧ word (.plRot w) none val) ∧
      word (.plSpr w) (if f.extent w.axis ≤ w.dist.toNat then some .illegalOperand else none)
        (fun rep c => src rep (c.set w.axis w.dist.toNat)) ∧
      word (.plTrn w) (if f.gx = f.gy ∧ f.mx = f.my ∧ f.kx = f.ky then none else some .foldInvalid)
        (fun rep c => src rep { c with x := c.y, y := c.x })) ∧
    (∀ w : FmtP (Fin 8), foldOk (x.g.fold w.freg.val) x.w = true → foldOk (x.g.fold w.mod.val) x.w = true →
      let f := FoldWord.of (x.g.fold w.freg.val)
      let d := FoldWord.of (x.g.fold w.mod.val)
      PlaneWord (.plRfd w) s x w.g w.q w.a.val w.d.val f d
        (if f.s1 = d.s1 ∧ f.s0 = d.s0 ∧ f.ew = d.ew ∧ f.my = d.my ∧ f.mx = d.mx ∧ f.gy = d.gy ∧ f.gx = d.gx
          then none else some .foldInvalid)
        (fun rep c => (f.at_ x.supplies w.a.val rep c, .none)))

/-- R233 (12), R100 (05), R135, R136 (07): PL.FLD gives every element of a line the reduction of the line: local coordinates in
rising order from the identity, then the lane tree over the grid coordinates. PL.SCN gives each the inclusive prefix by the
steps of R100. An integer addition is modulo 2^n, MAX and MIN compare by the type, and a floating type takes addition, MAX or MIN
of its format; the identities are those of R135 and R233. A floating result is the format's canonical NaN where one of its inputs is
a NaN or a sum's inputs hold both infinities. -/
def Sys2Proof.Claim.PlaneFolds : Prop :=
  ∀ (s : State) (x : View) (w : FmtP FoldMod), s.view = some x → foldOk (x.g.fold w.freg.val) x.w = true →
    let f := FoldWord.of (x.g.fold w.freg.val)
    let v := FEnv.of x.p.fmt
    let n := 8 * 2 ^ f.ew
    let fmt : Option FFmt := match w.mod.ty with
      | .f => if f.ew = 1 then some .f16 else if f.ew = 3 then some .f64 else some .f32
      | .bf => some .bf16
      | .e4m3 => some .fE4m3
      | .e5m2 => some .fE5m2
      | _ => none
    let num (a : Nat) : Int := if w.mod.ty = .i ∧ 2 ^ (n - 1) ≤ a then (a : Int) - (2 ^ n : Nat) else a
    let one (a b : Nat) : Nat × FFlags := match fmt, w.mod.op with
      | some f, .add => f.add v a b
      | some f, .max => f.minMax v true a b
      | some f, .min => f.minMax v false a b
      | none, .add => ((a + b) % 2 ^ n, .none)
      | none, .max => (if num a < num b then b else a, .none)
      | none, .min => (if num a < num b then a else b, .none)
    let op (a b : Nat × FFlags) : Nat × FFlags := ((one a.1 b.1).1, a.2 ||| b.2 ||| (one a.1 b.1).2)
    let identity : Nat := match fmt, w.mod.op with
      | some f, .add => f.sign true 0
      | some f, .max => f.sign true (if f.e4m3 then f.maxBits else f.infBits)
      | some f, .min => if f.e4m3 then f.maxBits else f.infBits
      | none, .add => 0
      | none, .max => if w.mod.ty = .i then 2 ^ (n - 1) else 0
      | none, .min => if w.mod.ty = .i then 2 ^ (n - 1) - 1 else 2 ^ n - 1
    let src (rep : Nat) (c : Coord) (k : Nat) : Nat × FFlags := (f.at_ x.supplies w.a.val rep (c.set w.axis k), .none)
    let result (xs : List Nat) (r : Nat × FFlags) : Nat × FFlags := match fmt with
      | some f =>
        (if xs.any (fun a => (f.val a).isNan) ∨
            (w.mod.op = .add ∧ xs.any (fun a => f.val a == .inf false) ∧ xs.any (fun a => f.val a == .inf true)) then f.nanBits
          else r.1, r.2)
      | none => r
    let fits : Bool := match w.mod.ty with
      | .i => true | .n => true | .f => decide (f.ew ≠ 0) | .bf => decide (f.ew = 1) | _ => decide (f.ew = 0)
    let own : Option Code := if fits then none else some .illegalOperand
    let start : Nat × FFlags := (identity, .none)
    let along (crinkled : Bool) (g m : Nat) (at_ : Nat → Nat × FFlags) : Nat × FFlags :=
      blockTree op (fun gc => (List.range (2 ^ m)).foldl
        (fun r lc => op r (at_ (if crinkled then gc * 2 ^ m + lc else lc * 2 ^ g + gc))) start) g 0
    let line (at_ : Nat → Nat × FFlags) : Nat × FFlags := match w.axis with
      | .x => along f.kx f.gx f.mx at_
      | .y => along f.ky f.gy f.my at_
      | .s0 => (List.range (2 ^ f.s0)).foldl (fun r k => op r (at_ k)) start
      | .s1 => (List.range (2 ^ f.s1)).foldl (fun r k => op r (at_ k)) start
    let steps : Nat := match w.axis with | .x => f.gx + f.mx | .y => f.gy + f.my | .s0 => f.s0 | .s1 => f.s1
    PlaneWord (.plFld w) s x w.g w.q w.a.val w.d.val f f own (fun rep c =>
      result ((List.range (2 ^ steps)).map (fun k => (src rep c k).1)) (line (src rep c))) ∧
    PlaneWord (.plScn w) s x w.g w.q w.a.val w.d.val f f own (fun rep c =>
      result ((List.range (c.get w.axis + 1)).map (fun k => (src rep c k).1)) (scanTo op (src rep c) steps (c.get w.axis)))

/-- R93, R94 (05), R239 to R241 (12): FD.SET writes a fold register with a word that passes the checks and faults on one that
does not; FD.GET reads one into a pair; FD.CHK gives the register count of a word that passes and 0 of one that does not. -/
def Sys2Proof.Claim.FoldRegisters : Prop :=
  ∀ (s : State) (x : View), s.view = some x →
    let bits (a : DWord) (lo n : Nat) : Nat := a.toNat / 2 ^ lo % 2 ^ n
    let elements (a : DWord) : Nat := 2 ^ (bits a 6 4 + bits a 10 4 + bits a 20 4 + bits a 24 4)
    let regs (a : DWord) : Nat := (elements a * 2 ^ bits a 16 2 + 3) / 4
    let passes (a : DWord) : Prop :=
      a.toNat < 2 ^ 28 ∧ 2 ^ (bits a 0 3 + bits a 3 3) ≤ x.w ∧ bits a 6 4 ≤ 10 ∧ bits a 10 4 ≤ 10 ∧ regs a ≤ 256
    (∀ w : FmtA (Fin 8) USrc64 Unit Unit Unit, x.guardOn w.g = true →
      (passes (x.uni64 w.a) → Completes (.fdSet w) s x (fun g p =>
        x.g.Keeps g { Written.none with f := fun n => n = w.d.val } ∧ g.fold w.d.val = x.uni64 w.a ∧
          p = x.p.retire w.q .none)) ∧
      (¬ passes (x.uni64 w.a) → Faults (.fdSet w) s x .foldInvalid 0 0 0)) ∧
    (∀ w : FmtA (Fin 32) (Fin 8) Unit Unit Unit, x.guardOn w.g = true →
      Completes (.fdGet w) s x (PairResult x w.d w.q (x.g.fold w.a.val))) ∧
    (∀ w : FmtA (Dest (Fin 64)) USrc64 Unit Unit Unit, x.guardOn w.g = true →
      ∃ r : Word, (passes (x.uni64 w.a) → r.toNat = regs (x.uni64 w.a)) ∧ (¬ passes (x.uni64 w.a) → r = 0) ∧
        Completes (.fdChk w) s x (UniResult x w.d w.q r))

/-- R218, R220, R221, R223 (11): the words of CL that move, read, write and vote across lanes. -/
def Obligations.LaneMoves : Prop := Claim.Shuffles ∧ Claim.LaneReadsAndWrites ∧ Claim.Votes

/-- R93, R94, R96 (05), R239 to R241 (12): where a fold word places each element, and the words of FD. -/
def Obligations.Folding : Prop := Claim.FoldPlacement ∧ Claim.FoldRegisters

/-- R231 to R235 (12): the words of PL. -/
def Obligations.PlaneWords : Prop := Claim.PlaneMoves ∧ Claim.PlaneFolds

/-! ## Accesses of words (14 R256 to R264) -/

/-- The checks that a word makes at issue of all its accesses (R257), in order: alignment, the address space and the
scratchpad windows, translation with permission, derived pages for a store. Each fault names the address of the lowest lane
that meets it, and those lanes, or none for a word that acts once; an access whose translation no TLB holds leaves the word
unissued, waiting for a walk. -/
def Sys2Proof.Machine.Checks (i : Instr) (s : State) (x : View) (size : Nat) (k : AccessKind) (once store : Bool)
    (deny : Target → Bool) (as : List (Nat × DWord)) : Prop :=
  let mis := as.filter (fun a => a.2.toNat % size != 0)
  let out := as.filter (fun a => x.outside a.2)
  let waits (a : Nat × DWord) : Bool := (x.refusedAt a.2).isNone && match x.translate a.2 k with | .miss _ => true | _ => false
  let den := as.filter (fun a => (x.denied k deny a.2).isSome)
  let der := as.filter (fun a => store && x.derivedAt a.2)
  let stops (c : Code) (hits : List (Nat × DWord)) (detail : Nat → Prop) : Prop := ∀ a rest, hits = a :: rest →
    ∃ d m, detail d ∧ (∀ l, l < 64 → (hasLane m l = true ↔ once = false ∧ ∃ b ∈ hits, b.1 = l)) ∧ Faults i s x c a.2 m d
  stops .misaligned mis (fun d => d = 0) ∧
  (mis = [] → stops .address out (fun d => d = 0)) ∧
  (mis = [] → out = [] → (∃ a ∈ as, waits a = true) →
    ∃ ws n, exec i s = .next { s with walks := ws, nextId := n }) ∧
  (mis = [] → out = [] → (∀ a ∈ as, waits a = false) →
    stops .address den (fun d => ∃ a rest, den = a :: rest ∧ x.denied k deny a.2 = some d) ∧
    (den = [] → stops .derivedWrite der (fun d => d = 0)))

/-- Every access passes: aligned, translated to a target that the word may use, and for a store no derived page. -/
def Sys2Proof.Machine.Allowed (x : View) (size : Nat) (k : AccessKind) (store : Bool) (deny : Target → Bool)
    (as : List (Nat × DWord)) : Prop :=
  ∀ a ∈ as, a.2.toNat % size = 0 ∧ x.outside a.2 = false ∧ x.refusedAt a.2 = none ∧
    (∃ t l, x.translate a.2 k = .hit t l ∧ deny t = false) ∧ (store = true → x.derivedAt a.2 = false)

/-- What a word leaves alone whose effects in memory come later: memory, host memory, teams, every other path and group, and
every request and operation that was there (a load in flight may lose its right to fill the load buffer, 03 R71). -/
def Sys2Proof.Machine.Apart (s : State) (x : View) (t : State) : Prop :=
  t.mem = s.mem ∧ t.host = s.host ∧ t.teams = s.teams ∧ t.errs = s.errs ∧ t.bad = s.bad ∧
  (∀ n, n ≠ x.gid → SMap.find? t.groups n = SMap.find? s.groups n) ∧
  (∀ n, n ≠ x.pid → SMap.find? t.paths n = SMap.find? s.paths n) ∧
  (∀ n o, SMap.find? s.ops n = some o → SMap.find? t.ops n = some o) ∧
  ∀ n r, SMap.find? s.reqs n = some r → ∃ b, SMap.find? t.reqs n = some { r with noFill := b }
/-- The same of a word that only makes requests. -/
def Sys2Proof.Machine.Others (s : State) (x : View) (t : State) : Prop := Apart s x t ∧ t.ops = s.ops ∧ t.tiles = s.tiles

/-- The path and the group of a word in a later state. -/
def Sys2Proof.Machine.Ends (x : View) (t : State) (g : Group) (p : Path) : Prop :=
  SMap.find? t.groups x.gid = some g ∧ SMap.find? t.paths x.pid = some p

/-- Where an address leads. -/
def Sys2Proof.Machine.Hits (x : View) (va : DWord) (k : AccessKind) : Option Target :=
  match x.translate va k with | .hit t _ => some t | _ => none
/-- A request of the word `x` executes: what it does, where, for which lanes, and where its answer goes. -/
def Sys2Proof.Machine.Asked (x : View) (t : State) (id : Nat) (path : APath) (op : ReqOp) (va : DWord) (tgt : Option Target)
    (lanes : Lanes) (ret : Ret) (r : Req) : Prop :=
  x.s.nextId ≤ id ∧ SMap.find? t.reqs id = some r ∧ r.path = path ∧ r.op = op ∧ r.va = va ∧ r.lanes = lanes ∧ r.ret = ret ∧
    r.src = x.g.core ∧ r.arm = x.pid ∧ r.grp = x.gid ∧ r.entry = x.eid ∧ r.value = none ∧ tgt = some r.tgt

/-- The registers of a load: how many, and the image of the bytes read in register D + k (R256). -/
def Sys2Proof.Machine.regsOf : Size → Nat
  | .b64 => 2
  | .b128 => 4
  | _ => 1
/-- Register D + k of the image of bytes read (R256): zero-extended, sign-extended, or four bytes of a longer value. -/
def Sys2Proof.Machine.IsImage (z : Size) (bs : List Byte) (k : Nat) (r : Word) : Prop :=
  let n := leNat bs
  match z with
  | .s8 => r.toInt = if n < 128 then (n : Int) else (n : Int) - 256
  | .s16 => r.toInt = if n < 32768 then (n : Int) else (n : Int) - 65536
  | _ => r.toNat = n / 2 ^ (32 * k) % 2 ^ 32

/-- The line of the core's load buffer that a load on path L of device memory hits (03 R71), for the lanes `m`: none where the load
itself acquires at team scope or wider, or an acquire of its path or a fence of its group toward L has taken effect since the
path's last access (13 R246, R249), and none while an earlier access of these lanes to the line is outstanding (13 R245). -/
def Sys2Proof.Machine.Held (x : View) (ord : Option Scope) (m : Lanes) (va : DWord) : Option Line :=
  let dropped : Bool := x.p.fresh || x.g.xf.any (fun h => h.fresh) || match ord with | none => false | some .grp => false | _ => true
  let pending (pa : Nat) : Bool := x.s.reqs.any (fun e => e.2.value.isNone && e.2.path == .l && e.2.grp == x.gid &&
    (e.2.lanes &&& m) != 0 && match e.2.tgt with | .dev a => a / 128 == pa / 128 | _ => false)
  match x.translate va .read with
  | .hit (.dev pa) (some l) =>
    if dropped || pending pa || l.tgt != 0 || inWindow pa then none
    else ((x.s.core x.g.core).loads.find? (fun l => l.line == pa / 128))
  | _ => none
/-- The bytes of a held line that a load takes, and whether one is poisoned. -/
def Sys2Proof.Machine.HeldBytes (x : View) (l : Line) (va : DWord) (n : Nat) : List Byte × Bool :=
  let o : Nat := match x.translate va .read with | .hit (.dev pa) _ => pa % 128 | _ => 0
  ((List.range n).map (fun i => l.bytes.getD (o + i) 0), (List.range n).any (fun i => l.bad.getD (o + i) false))

/-- A byte offset that an access of `n` bytes has within its scratchpad word (03 R63: lanes and elements that read one word
share one access); 0 for another target. -/
def Sys2Proof.Machine.Within (x : View) (n : Nat) (k : AccessKind) (va : DWord) : Nat :=
  match x.translate va k with | .hit (.spad _ _ o) _ => if n < 4 then o % 4 else 0 | _ => 0
/-- Bytes that it reads: the scratchpad word that holds them. -/
def Sys2Proof.Machine.Reads (x : View) (n : Nat) (k : AccessKind) (va : DWord) : Nat :=
  match x.translate va k with | .hit (.spad _ _ _) _ => max n 4 | _ => n
/-- Where a read of `n` bytes at an address goes: in a scratchpad to the word that holds them. -/
def Sys2Proof.Machine.ReadsAt (x : View) (n : Nat) (va : DWord) : Option Target :=
  match Hits x va .read with | some (.spad t i o) => some (.spad t i (if n < 4 then o - o % 4 else o)) | t => t
/-- Two reads of a word are one access: of one address, or of one scratchpad word (14 R258, 03 R63). -/
def Sys2Proof.Machine.OneRead (x : View) (n : Nat) (a b : DWord) : Prop :=
  ReadsAt x n a = ReadsAt x n b ∧ (a = b ∨ ∃ t i o, ReadsAt x n a = some (.spad t i o))
/-- The group of a word that makes accesses on path L, before its registers are written: as before, but for the fences toward L
that the access has met. -/
def Sys2Proof.Machine.Meets (g h : Group) : Prop :=
  h = { g with xf := h.xf, due := h.due, later := h.later } ∧ (h.xf = g.xf ∨ h.xf = g.xf.map (fun f => { f with fresh := false }))
/-- The line of the core's own load buffer that a write or an atomic goes to is invalidated before it leaves, and no load in
flight fills it any more (03 R71, 14 R259). -/
def Sys2Proof.Machine.LineGone (x : View) (t : State) (va : DWord) (k : AccessKind) : Prop :=
  ∀ pa l, x.translate va k = .hit (.dev pa) l →
    (∀ b ∈ (t.core x.g.core).loads, b.line ≠ pa / 128) ∧
    ∀ id r a, SMap.find? t.reqs id = some r → r.src = x.g.core → r.value = none → r.tgt = .dev a → a / 128 = pa / 128 →
      r.noFill = true

/-- R256, R257, R258, R260 (14), R71, R63 (03): LD makes R257's checks for its active lanes; then each active lane's address is
either held in the load buffer, and its registers take the image of the bytes there, or one request for all lanes of that
address, or of that scratchpad word, leaves, which will answer to their registers, and which those registers then wait for
(06 R110). LDU does this once, for its path. The request bears the address of its lowest lane. That a load which acquires at
team scope or wider never finds a line itself, and that its path's next load finds none either once it has taken effect, are the
model's reading (log 24). -/
def Obligations.Loads : Prop :=
  ∀ (s : State) (x : View), s.view = some x → s.NumbersFresh →
    (∀ w : FmtM (Fin 256) Base Src Size,
      let y := x.sample (Src.isClk w.b && x.guardOn w.g)
      let n : Nat := match w.sub with | .z8 => 1 | .s8 => 1 | .z16 => 2 | .s16 => 2 | .b32 => 4 | .b64 => 8 | .b128 => 16
      let ea (l : Nat) : DWord := BitVec.ofInt 64 ((y.base w.a l).toNat + (y.lane w.b l).toInt + w.off.toInt * n)
      let same (j l : Nat) : Prop := x.writes (x.active w.g) j ∧ OneRead x n (ea j) (ea l)
      let as := (lanesBelow x.w (x.active w.g)).map (fun l => (l, ea l))
      Checks (.ld w) s x n .read false false (fun _ => false) as ∧
      (Allowed x n .read false (fun _ => false) as → Goes (.ld w) s (fun t => ∃ g g0 p, Ends x t g p ∧ Others s x t ∧
        Meets y.g g0 ∧ g0.due = g.due ∧ g0.later = g.later ∧
        (∀ k i, (∀ n l, w.d.val ≤ n → n < w.d.val + regsOf w.sub → x.writes (x.active w.g) l → k ≠ 64 * n + l) →
          ((k, i) ∈ g.later ↔ (k, i) ∈ y.g.later)) ∧
        g0.Keeps g { Written.none with v := fun k l => w.d.val ≤ k ∧ k < w.d.val + regsOf w.sub ∧ x.writes (x.active w.g) l } ∧
        (∀ d ∈ y.g.due, d ∈ g.due ∨ ∃ k l, w.d.val ≤ k ∧ k < w.d.val + regsOf w.sub ∧ x.writes (x.active w.g) l ∧ d.1 = 64 * k + l) ∧
        p = { x.p.retire w.q .none with acquires := p.acquires, fresh := p.fresh } ∧
        (w.ord = none → p.acquires = x.p.acquires ∧ (p.fresh = true → x.p.fresh = true)) ∧
        (∀ l, x.writes (x.active w.g) l → ∃ m,
          (∀ j, j < 64 → (hasLane m j = true ↔ same j l ∧ Within x n .read (ea j) = Within x n .read (ea l))) ∧
          match Held x w.ord m (ea l) with
          | some b => (HeldBytes x b (ea l) n).2 = false → ∀ k, k < regsOf w.sub →
              IsImage w.sub (HeldBytes x b (ea l) n).1 k (g.vreg (w.d.val + k) l)
          | none => ∃ id r ls parts low, Asked x t id .l (.read (Reads x n .read (ea l))) (ea low) (ReadsAt x n (ea l)) ls
                (.lanes x.gid parts w.d.val w.sub) r ∧ r.named = ls ∧ (m, Within x n .read (ea l)) ∈ parts ∧
              same low l ∧ (∀ j, same j l → low ≤ j) ∧
              (∀ q ∈ parts, ∃ j, same j l ∧ q.2 = Within x n .read (ea j) ∧
                ∀ i, i < 64 → (hasLane q.1 i = true ↔ same i l ∧ Within x n .read (ea i) = Within x n .read (ea j))) ∧
              (∀ j, j < 64 → (hasLane ls j = true ↔ same j l)) ∧
              (∀ k, k < regsOf w.sub → (64 * (w.d.val + k) + l, id) ∈ g.due) ∧
              (w.ord.isSome = true → id ∈ p.acquires)) ∧
        ∀ id r, SMap.find? t.reqs id = some r → s.nextId ≤ id → ∃ l, x.writes (x.active w.g) l ∧ r.va = ea l ∧
          ∀ id' r', SMap.find? t.reqs id' = some r' → s.nextId ≤ id' → OneRead x n r'.va r.va → id' = id))) ∧
    (∀ w : FmtM (Fin 64) (Fin 32) USrc Size, x.guardOn w.g = true →
      let y := x.sample (USrc.isClk w.b)
      let n : Nat := match w.sub with | .z8 => 1 | .s8 => 1 | .z16 => 2 | .s16 => 2 | .b32 => 4 | .b64 => 8 | .b128 => 16
      let ea : DWord := BitVec.ofInt 64 ((x.g.spair (2 * w.a.val)).toNat + (y.uni w.b).toInt + w.off.toInt * n)
      Checks (.ldu w) s x n .read true false (fun _ => false) [(0, ea)] ∧
      (Allowed x n .read false (fun _ => false) [(0, ea)] → Goes (.ldu w) s (fun t => ∃ g g0 p, Ends x t g p ∧ Others s x t ∧
        Meets y.g g0 ∧ g0.due = g.due ∧ g0.later = g.later ∧
        (∀ k i, (∀ n, w.d.val ≤ n → n < w.d.val + regsOf w.sub → k ≠ 65536 + n) → ((k, i) ∈ g.later ↔ (k, i) ∈ y.g.later)) ∧
        g0.Keeps g { Written.none with s := fun k => w.d.val ≤ k ∧ k < w.d.val + regsOf w.sub } ∧
        p = { x.p.retire w.q .none with acquires := p.acquires, fresh := p.fresh } ∧
        (w.ord = none → p.acquires = x.p.acquires ∧ p.fresh = false) ∧
        (∀ d ∈ y.g.due, d ∈ g.due ∨ ∃ k, w.d.val ≤ k ∧ k < w.d.val + regsOf w.sub ∧ d.1 = 65536 + k) ∧
        match Held x w.ord x.p.mask ea with
          | some b => (HeldBytes x b ea n).2 = false → ∀ k, k < regsOf w.sub →
              IsImage w.sub (HeldBytes x b ea n).1 k (g.sreg (w.d.val + k))
          | none => ∃ r, Asked x t s.nextId .l (.read n) ea (Hits x ea .read) x.p.mask (.uni x.gid w.d.val w.sub) r ∧ r.named = 0 ∧
              (∀ k, k < regsOf w.sub → (65536 + w.d.val + k, s.nextId) ∈ g.due) ∧
              (w.ord.isSome = true → s.nextId ∈ p.acquires) ∧
              ∀ id, s.nextId ≤ id → (SMap.find? t.reqs id).isSome = true → id = s.nextId)))

/-- The bytes of a number, low byte first, that a store sends. -/
def Sys2Proof.Machine.IsBytes (bs : List Byte) (n v : Nat) : Prop := bs.length = n ∧ leNat bs = v % 2 ^ (8 * n)

/-- R256, R257, R259, R260 (14), R71 (03): ST makes R257's checks for its active lanes; then each active lane's bytes leave as
one write, in rising lane order, after what its release covers where it has ORD; STU once, for its path. The line of the own
core's load buffer that a write goes to is invalidated. Memory changes only when a write takes effect at its owner. -/
def Obligations.Stores : Prop :=
  ∀ (s : State) (x : View), s.view = some x → s.NumbersFresh →
    (∀ w : FmtM Src Base Src StSize,
      let y := x.sample ((Src.isClk w.b || Src.isClk w.d) && x.guardOn w.g)
      let n : Nat := match w.sub with | .b8 => 1 | .b16 => 2 | .b32 => 4 | .b64 => 8 | .b128 => 16
      let ea (l : Nat) : DWord := BitVec.ofInt 64 ((y.base w.a l).toNat + (y.lane w.b l).toInt + w.off.toInt * n)
      let as := (lanesBelow x.w (x.active w.g)).map (fun l => (l, ea l))
      let value (l : Nat) : Nat := match w.sub with
        | .b64 => (y.lanePair w.d l).toNat
        | .b128 => (match w.d with
          | .v k => quad (fun j => x.g.vreg (k.val + j) l)
          | .u (.s k) => quad (fun j => x.g.sreg (k.val + j))
          | .u c => quadConst c
          | .l _ => 0)
        | _ => (y.lane w.d l).toNat
      Checks (.st w) s x n .write false true (fun _ => false) as ∧
      (Allowed x n .write true (fun _ => false) as → Goes (.st w) s (fun t => ∃ g p, Ends x t g p ∧ Others s x t ∧
        g = y.g ∧ p = x.p.retire w.q .none ∧ ∃ id : Nat → Nat, ∀ l, x.writes (x.active w.g) l →
          (∀ k, x.writes (x.active w.g) k → k < l → id k < id l) ∧ ∃ r bs, IsBytes bs n (value l) ∧
            Asked x t (id l) .l (.write bs (clean n)) (ea l) (Hits x (ea l) .write) (oneLane l) .none r ∧ r.named = oneLane l ∧
            LineGone x t (ea l) .write ∧ r.after = if w.ord.isSome then x.released else []))) ∧
    (∀ w : FmtM USrc (Fin 32) USrc StSize, x.guardOn w.g = true →
      let y := x.sample (USrc.isClk w.b || USrc.isClk w.d)
      let n : Nat := match w.sub with | .b8 => 1 | .b16 => 2 | .b32 => 4 | .b64 => 8 | .b128 => 16
      let ea : DWord := BitVec.ofInt 64 ((x.g.spair (2 * w.a.val)).toNat + (y.uni w.b).toInt + w.off.toInt * n)
      let value : Nat := match w.sub with
        | .b64 => (y.uniPair w.d).toNat
        | .b128 => (match w.d with | .s k => quad (fun j => x.g.sreg (k.val + j)) | c => quadConst c)
        | _ => (y.uni w.d).toNat
      Checks (.stu w) s x n .write true true (fun _ => false) [(0, ea)] ∧
      (Allowed x n .write true (fun _ => false) [(0, ea)] → Goes (.stu w) s (fun t => ∃ g p, Ends x t g p ∧ Others s x t ∧
        g = y.g ∧ p = x.p.retire w.q .none ∧ ∃ r bs, IsBytes bs n value ∧
          Asked x t s.nextId .l (.write bs (clean n)) ea (Hits x ea .write) x.p.mask .none r ∧ r.named = 0 ∧
          LineGone x t ea .write ∧ r.after = if w.ord.isSome then x.released else [])))

/-- R261, R262 (14): LDP and STP. With no lane active they only go on. They fault on an odd register of 8-byte elements, a
register beyond REGCNT, a pitch below the row, and a base or pitch that is no multiple of the element, in this order, then by
R257's checks; then each element that an active lane holds is read, with the elements of its scratchpad word (03 R63), or
written, by one request on path G. -/
def Obligations.PlaneAccesses : Prop :=
  ∀ (s : State) (x : View) (w : FmtM (Fin 256) (Fin 32) USrc (Fin 8)), s.view = some x → s.NumbersFresh →
    foldOk (x.g.fold w.sub.val) x.w = true →
    let y := x.sample (USrc.isClk w.b && x.guardOn w.g)
    let m := x.active w.g
    let f := FoldWord.of (x.g.fold w.sub.val)
    let row := 2 ^ (f.gx + f.mx) * f.ewb
    let pitch := if (y.uni w.b).toNat = 0 then row else (y.uni w.b).toNat
    let base : DWord := BitVec.ofInt 64 ((x.g.spair (2 * w.a.val)).toNat + w.off.toInt * 4)
    let lanes := 2 ^ (f.gx + f.gy)
    let ea (l e : Nat) : DWord :=
      let c := f.coord (l % lanes) e
      BitVec.ofNat 64 (base.toNat +
        ((((l / lanes * 2 ^ f.s1 + c.s1) * 2 ^ f.s0 + c.s0) * 2 ^ (f.gy + f.my) + c.y) * pitch + c.x * f.ewb))
    let as := (lanesBelow x.w m).flatMap (fun l => (List.range f.locals).map (fun e => (l, ea l e)))
    let odd : Prop := f.ew = 3 ∧ w.d.val % 2 = 1
    let beyond : Prop := x.regs < w.d.val + f.nreg
    let short : Prop := pitch < row
    let mis : Prop := base.toNat % f.ewb ≠ 0 ∨ pitch % f.ewb ≠ 0
    let reg (e : Nat) : Nat := w.d.val + e * f.ewb / 4
    let word (i : Instr) (k : AccessKind) (store : Bool) (done : State → Group → Path → Prop) : Prop :=
      ((∀ l, ¬ x.writes m l) → Completes i s x (fun g p => g = y.g ∧ p = x.p.retire w.q .none)) ∧
      ((∃ l, x.writes m l) →
        (odd → Faults i s x .illegalOperand 0 (m &&& lowLanes x.w) 0) ∧
        (¬ odd → beyond → Faults i s x .registerRange 0 (m &&& lowLanes x.w) 0) ∧
        (¬ odd → ¬ beyond → short → Faults i s x .illegalOperand 0 (m &&& lowLanes x.w) 0) ∧
        (¬ odd → ¬ beyond → ¬ short → mis → Faults i s x .misaligned base (m &&& lowLanes x.w) 0) ∧
        (¬ odd → ¬ beyond → ¬ short → ¬ mis → Checks i s x 1 k false store (fun _ => false) as ∧
          (Allowed x 1 k store (fun _ => false) as → Goes i s (fun t => ∃ g p, Ends x t g p ∧ Others s x t ∧
            g = { y.g with due := g.due, later := g.later, bad := g.bad, flips := g.flips } ∧
            p = { x.p.retire w.q .none with acquires := p.acquires, fresh := p.fresh } ∧ done t g p))))
    let whole (k : Nat) : Prop := ∃ n l, w.d.val ≤ n ∧ n < w.d.val + f.locals * f.ewb / 4 ∧ x.writes m l ∧ k = 64 * n + l
    let part (k : Nat) : Prop := ∃ n l, w.d.val ≤ n ∧ n < w.d.val + f.nreg ∧ x.writes m l ∧ k = 64 * n + l
    word (.ldp w) .read false (fun t g p => (w.ord = none → p.acquires = x.p.acquires ∧ p.fresh = x.p.fresh) ∧
      (∀ d ∈ y.g.due, d ∈ g.due ∨ ∃ l e k, x.writes m l ∧ e < f.locals ∧ k ≤ f.ew / 3 ∧ d.1 = 64 * (reg e + k) + l) ∧
      (∀ k, k ∈ g.bad ↔ k ∈ y.g.bad ∧ ¬ whole k) ∧ (∀ b, b ∈ g.flips ↔ b ∈ y.g.flips ∧ ¬ whole b.1) ∧
      (∀ k i, ¬ part k → ((k, i) ∈ g.later ↔ (k, i) ∈ y.g.later)) ∧
      ∀ l e, x.writes m l → e < f.locals →
        ∃ id r ls parts va, Asked x t id .g (.read (Reads x f.ewb .read (ea l e))) va (ReadsAt x f.ewb (ea l e)) ls
            (.elem x.gid f.ewb parts) r ∧ (l, reg e, e * f.ewb % 4, Within x f.ewb .read (ea l e)) ∈ parts ∧
          hasLane ls l = true ∧ (∃ j i, x.writes m j ∧ i < f.locals ∧ va = ea j i ∧ OneRead x f.ewb va (ea l e)) ∧
          (∀ q ∈ parts, ∃ i, x.writes m q.1 ∧ i < f.locals ∧ q.2.1 = reg i ∧ q.2.2.1 = i * f.ewb % 4 ∧
            OneRead x f.ewb (ea q.1 i) (ea l e) ∧ q.2.2.2 = Within x f.ewb .read (ea q.1 i)) ∧
          (64 * reg e + l, id) ∈ g.due ∧ (w.ord.isSome = true → id ∈ p.acquires)) ∧
    word (.stp w) .write true (fun t g p => g.due = y.g.due ∧ g.later = y.g.later ∧ g.bad = y.g.bad ∧ g.flips = y.g.flips ∧
      p.acquires = x.p.acquires ∧ p.fresh = x.p.fresh ∧
      ∀ l e, x.writes m l → e < f.locals → ∃ id r bs,
        IsBytes bs f.ewb (if f.ew = 3 then (x.g.vreg (reg e) l).toNat + 2 ^ 32 * (x.g.vreg (reg e + 1) l).toNat
          else (x.g.vreg (reg e) l).toNat / 2 ^ (8 * (e * f.ewb % 4))) ∧
        Asked x t id .g (.write bs (clean f.ewb)) (ea l e) (Hits x (ea l e) .write) (oneLane l) .none r ∧ LineGone x t (ea l e) .write ∧
          r.after = if w.ord.isSome then x.released else [])

/-- The shape of an AT word (14 R263, R264): R257's checks; then one indivisible operation of each active lane leaves, each
after that of the lane before, with what a release covers where the word has ORD; its old value will answer to D. The line of the
own core's load buffer is invalidated (03 R71). -/
def Sys2Proof.Machine.AtomicWord {δ β σ : Type} (i : Instr) (s : State) (x : View) (w : FmtM δ Base β σ) (reads : Bool) (size : Nat)
    (k : AccessKind) (cell : Bool) (op : View → Nat → ReqOp) (ret : Nat → Ret) : Prop :=
  let y := x.sample (reads && x.guardOn w.g)
  let deny (t : Target) : Bool := match t with | .host _ => true | .spad _ _ _ => cell | _ => false
  let ea (l : Nat) : DWord := BitVec.ofInt 64 ((y.base w.a l).toNat + w.off.toInt * size)
  let as := (lanesBelow x.w (x.active w.g)).map (fun l => (l, ea l))
  Checks i s x size k false true deny as ∧
  (Allowed x size k true deny as → Goes i s (fun t => ∃ g p, Ends x t g p ∧ Others s x t ∧
    g = { y.g with due := g.due, later := g.later } ∧
    (∀ k i, (∀ l, x.writes (x.active w.g) l → k ∉ (ret l).keys) → ((k, i) ∈ g.later ↔ (k, i) ∈ y.g.later)) ∧
    p = { x.p.retire w.q .none with acquires := p.acquires, fresh := p.fresh } ∧
    (w.ord = none → p.acquires = x.p.acquires ∧ p.fresh = x.p.fresh) ∧
    (∀ d ∈ y.g.due, d ∈ g.due ∨ ∃ l, x.writes (x.active w.g) l ∧ d.1 ∈ (ret l).keys) ∧
    ∃ id : Nat → Nat, ∀ l, x.writes (x.active w.g) l → LineGone x t (ea l) k ∧ ∃ r,
      Asked x t (id l) .l (op y l) (ea l) (Hits x (ea l) k) (oneLane l) (ret l) r ∧ (∀ n ∈ (ret l).keys, (n, id l) ∈ g.due) ∧
      (w.ord.isSome = true → id l ∈ p.acquires ∧ ∀ n ∈ x.released, n ∈ r.after) ∧
      ∀ j, x.writes (x.active w.g) j → j < l → id j < id l ∧
        ((∀ h, j < h → h < l → ¬ x.writes (x.active w.g) h) → id j ∈ r.after)))

/-- R263, R264 (14): every word of AT. -/
def Obligations.Atomics : Prop :=
  ∀ (s : State) (x : View), s.view = some x → s.NumbersFresh →
    (∀ w : FmtM AtDest Base Src Bool,
      let data (y : View) (l : Nat) : DWord := if w.sub then y.lanePair w.b l else (y.lane w.b l).setWidth 64
      let ret (l : Nat) : Ret := match w.d with | .v n => .atom x.gid l n.val w.sub | .none => .none
      let word (i : Instr) (o : AtOp) : Prop := AtomicWord i s x w (Src.isClk w.b) (if w.sub then 8 else 4) .write false
        (fun y l => .atomic o w.sub (data y l) 0 0) ret
      word (.atAdd w) .add ∧ word (.atSub w) .sub ∧ word (.atMin w) .min ∧ word (.atMax w) .max ∧ word (.atMinu w) .minu ∧
      word (.atMaxu w) .maxu ∧ word (.atAnd w) .and ∧ word (.atOr w) .or ∧ word (.atXor w) .xor ∧ word (.atXchg w) .xchg) ∧
    (∀ w : FmtM (Fin 256) Base Src Bool, AtomicWord (.atCas w) s x w (Src.isClk w.b) (if w.sub then 8 else 4) .write false
      (fun y l => .atomic .cas w.sub (if w.sub then y.lanePair w.b l else (y.lane w.b l).setWidth 64)
        (if w.sub then x.g.vpair w.d.val l else (x.g.vreg w.d.val l).setWidth 64) 0)
      (fun l => .atom x.gid l w.d.val w.sub)) ∧
    (∀ w : FmtM AtDest Base Src Unit, AtomicWord (.atFadd w) s x w (Src.isClk w.b) 4 .write false
      (fun y l => .atomic .fadd false ((y.lane w.b l).setWidth 64) 0 x.p.fmt)
      (fun l => match w.d with | .v n => .atom x.gid l n.val false | .none => .none)) ∧
    (∀ w : FmtM Unit Base Src XFmt, AtomicWord (.atXadd w) s x w (Src.isClk w.b) 64 .write true
      (fun y l => .xadd w.sub (y.laneAs (match w.sub with | .f32 => .f32 | .f16 => .f16 | .bf => .bf16) w.b l))
      (fun _ => .none)) ∧
    (∀ w : FmtM (Fin 256) Base Unit Clr, AtomicWord (.atXrd w) s x w false 64 (if w.sub then .write else .read) true
      (fun _ _ => .xrd w.sub) (fun l => .atom x.gid l w.d.val false))

/-- R16 to R20 (01), R264 (14): what an atomic does at its owner with the old bytes: the value that it writes, if it writes
one, and its answer. FADD rounds once under the FMT it carries. An exact-sum cell keeps its sum modulo 2^509 and its three
special bits, and reads as FP32 rounded once, whatever was added. -/
def Obligations.AtomicSteps : Prop :=
  (∀ (o : AtOp) (wide : Bool) (old : List Byte) (a b : DWord) (fmt : BitVec 6), old.length = (if wide then 8 else 4) →
    let n : Nat := if wide then 8 else 4
    let m : Nat := 2 ^ (8 * n)
    let v := leNat old
    let x := a.toNat % m
    let sg (u : Nat) : Int := if u < m / 2 then (u : Int) else (u : Int) - m
    let writes (u : Nat) : Prop := ∃ bs, IsBytes bs n u ∧ (ReqOp.atomic o wide a b fmt).atomicStep old = (some bs, old)
    match o with
    | .add => writes ((v + x) % m)
    | .sub => writes ((v + m - x) % m)
    | .min => writes (if sg x < sg v then x else v)
    | .max => writes (if sg v < sg x then x else v)
    | .minu => writes (min v x)
    | .maxu => writes (max v x)
    | .and => writes (v &&& x)
    | .or => writes (v ||| x)
    | .xor => writes (v ^^^ x)
    | .xchg => writes x
    | .cas => if v = b.toNat % m then writes x else (ReqOp.atomic o wide a b fmt).atomicStep old = (none, old)
    | .fadd => wide = false → writes (FFmt.f32.add (FEnv.of fmt) v x).1) ∧
  (∀ (f : XFmt) (x : Word) (old : List Byte), old.length = 64 →
    let h : FFmt := match f with | .f32 => .f32 | .f16 => .f16 | .bf => .bf16
    let c := leNat old
    ∃ bs, bs.length = 64 ∧ (ReqOp.xadd f x).atomicStep old = (some bs, []) ∧
      match h.val (x.toNat % 2 ^ (1 + h.eb + h.fb)) with
      | .nan .. => leNat bs = c ||| 2 ^ 511
      | .inf t => leNat bs = c ||| 2 ^ (if t then 509 else 510)
      | .num t m e => leNat bs / 2 ^ 509 = c / 2 ^ 509 ∧
          ((leNat bs % 2 ^ 509 : Nat) : Int) = ((c % 2 ^ 509 : Nat) + FVal.units (-149) (.num t m e)) % (2 ^ 509 : Nat)) ∧
  (∀ (clr : Bool) (old : List Byte), old.length = 64 →
    let c := leNat old
    let sum : Int := if c % 2 ^ 509 < 2 ^ 508 then ((c % 2 ^ 509 : Nat) : Int) else ((c % 2 ^ 509 : Nat) : Int) - (2 ^ 509 : Nat)
    let up : Bool := decide (c / 2 ^ 510 % 2 = 1)
    let down : Bool := decide (c / 2 ^ 509 % 2 = 1)
    let out : Nat :=
      if c / 2 ^ 511 % 2 = 1 ∨ (up && down) = true then 0x7FC00000
      else if up then 0x7F800000
      else if down then 0xFF800000
      else (FFmt.f32.round .plain false (decide (sum < 0)) sum.natAbs (-149)).1
    ∃ bs, IsBytes bs 4 out ∧
      (ReqOp.xrd clr).atomicStep old = (if clr then some (List.replicate 64 0) else none, bs))

/-! ## SN and TK (14 R265 to R270, R276; 04 R77 to R88; 13 R246, R249) -/

/-- The load buffer of a core emptied, and its loads in flight kept from filling it (03 R71). -/
def Sys2Proof.Machine.Emptied (s t : State) (core : Nat) : Prop :=
  (t.core core).loads = [] ∧ (t.core core).code = (s.core core).code ∧ (t.core core).handles = (s.core core).handles ∧
  ∀ n r, SMap.find? s.reqs n = some r → ∃ b, SMap.find? t.reqs n = some { r with noFill := b } ∧
    (r.src = core → r.value = none → (∃ pa, r.tgt = .dev pa) → b = true)
/-- The tables that fences leave alone. -/
def Sys2Proof.Machine.Quiet (s : State) (x : View) (t : State) : Prop :=
  Others s x t ∧ t.entries = s.entries ∧ t.deliveries = s.deliveries ∧ t.fabricOut = s.fabricOut ∧ t.nextId = s.nextId
/-- The accesses on L and G in flight that the path's lanes made, where asked only those that read, atomics
among them. -/
def Sys2Proof.Machine.Earlier (x : View) (id : Nat) (reads : Bool) : Prop :=
  ∃ r, (id, r) ∈ x.s.reqs ∧ r.value = none ∧ (r.path = .l ∨ r.path = .g) ∧ r.grp = x.gid ∧ (r.lanes &&& x.p.mask) ≠ 0 ∧
    (reads = true → match r.op with | .write _ _ => False | _ => True)

/-- R266, R267, R270 (14), R246, R249 (13), R71 (03): SN.FENCE puts its path's later L and G accesses behind its earlier
ones (a release: that later reads wait too is the model's choice, log 24) or its earlier reads, those of atomics too (an acquire,
which empties the load buffer at team scope or wider, at once, and by log 24 again once those reads have taken effect); SN.XF
holds its path, and its group's later accesses on the destination paths, behind the group's accesses on the source paths and what
the path still is to acquire; where it names L it empties the load buffer, and towards L by log 24 again when they have; SN.FLUSH
holds its group behind the path's earlier accesses; SN.INV empties the load buffer. (Held, in Loads, says that a load finds no line
after that.) -/
def Obligations.Fences : Prop :=
  ∀ (s : State) (x : View), s.view = some x →
    (∀ w : FmtS Unit Unit FenceMod, x.guardOn w.g = true → Goes (.snFence w) s (fun t => ∃ p, Ends x t x.g p ∧ Quiet s x t ∧
      p = { x.p.retire w.q .none with acquires := p.acquires, fresh := p.fresh } ∧ (∀ n ∈ x.p.acquires, n ∈ p.acquires) ∧
      (p.fresh = true ↔ x.p.fresh = true ∨ (w.sarg.acq = true ∧ w.sarg.scope ≠ .grp ∧ ∃ n, Earlier x n true)) ∧
      (∀ n, (w.sarg.rel = true → Earlier x n false → n ∈ p.acquires) ∧
        (w.sarg.acq = true → Earlier x n true → n ∈ p.acquires)) ∧
      (∀ n ∈ p.acquires, n ∈ x.p.acquires ∨ (w.sarg.rel = true ∧ Earlier x n false) ∨ (w.sarg.acq = true ∧ Earlier x n true)) ∧
      if w.sarg.acq = true ∧ w.sarg.scope ≠ .grp then Emptied s t x.g.core else t.cores = s.cores)) ∧
    (∀ w : FmtS Unit Unit XfMod, x.guardOn w.g = true → Goes (.snXf w) s (fun t => ∃ g p ids, Ends x t g p ∧ Quiet s x t ∧
      (∀ n, n ∈ ids ↔
        (∃ r, (n, r) ∈ s.reqs ∧ r.value = none ∧ r.grp = x.gid ∧
          ((w.sarg.src.l = true ∧ r.path = .l) ∨ (w.sarg.src.g = true ∧ r.path = .g))) ∨
        (w.sarg.src.m = true ∧ ∃ o, (n, o) ∈ s.ops ∧ o.grp = x.gid ∧ o.started = true ∧ match o.kind with
          | .mma .. => True | .zero .. => True | .drain .. => True | .fill .. => True | .check .. => True | _ => False) ∨
        (n ∈ x.p.acquires ∧ s.done n = false)) ∧
      p = { x.p.retire w.q .none with hold := x.p.hold ++ ids } ∧ g = { x.g with xf := g.xf } ∧
      (ids ≠ [] → XfHold.mk ids w.sarg.dst w.sarg.dst.l ∈ g.xf) ∧
      (∀ h ∈ g.xf, h ∈ x.g.xf ∨ (h = XfHold.mk ids w.sarg.dst w.sarg.dst.l ∧ ids ≠ [])) ∧
      (∀ h ∈ x.g.xf, h ∈ g.xf ∨ (h.fresh = false ∧ s.allDone h.ids = true)) ∧
      if w.sarg.src.l = true ∨ w.sarg.dst.l = true then Emptied s t x.g.core else t.cores = s.cores)) ∧
    (∀ w : FmtS Unit Unit Unit, x.guardOn w.g = true →
      Goes (.snFlush w) s (fun t => ∃ ids, (∀ n, n ∈ ids ↔ ∃ r, (n, r) ∈ s.reqs ∧ r.value = none ∧
          (r.path = .l ∨ r.path = .g) ∧ r.grp = x.gid ∧ (r.lanes &&& x.p.mask) ≠ 0) ∧
        t = { ({ x with p := x.p.retire w.q .none } : View).commit with paths := t.paths } ∧
        SMap.find? t.paths x.pid = some { x.p.retire w.q .none with hold := x.p.hold ++ ids } ∧
        ∀ n r, n ≠ x.pid → SMap.find? s.paths n = some r →
          SMap.find? t.paths n = some (if r.grp = x.gid then { r with hold := r.hold ++ ids } else r)) ∧
      Goes (.snInv w) s (fun t => Ends x t x.g (x.p.retire w.q .none) ∧ Quiet s x t ∧ Emptied s t x.g.core))

/-- The barrier after one arrival, and whether its phase flipped (04 R87). -/
def Sys2Proof.Machine.Arrived (r : Barrier) : Bool × Nat × Bool :=
  if r.arrived + 1 < max 1 r.expected then (false, r.arrived + 1, r.phase) else (true, 0, !r.phase)
/-- What BAR.X's fence covers (13 R249, 14 R268): the team's L and G accesses in flight and its matrix work under way. -/
def Sys2Proof.Machine.Fenced (s : State) (team n : Nat) : Prop :=
  (∃ r, (n, r) ∈ s.reqs ∧ r.value = none ∧ r.team = team ∧ (r.path = .l ∨ r.path = .g)) ∨
    ∃ o, (n, o) ∈ s.ops ∧ o.team = team ∧ o.started = true ∧ match o.kind with
      | .mma .. => True | .zero .. => True | .drain .. => True | .fill .. => True | .check .. => True | _ => False
/-- The fence of a BAR.X toward a group that a phase releases: its later accesses on M, L and G follow what the fence covers, and
the load buffer is emptied once more before the next of them that looks it up (13 R249; log 24 for the second time). -/
def Sys2Proof.Machine.FencedBy (g g' : Group) (covers : Nat → Prop) : Prop :=
  ∃ ids : List Nat, (∀ i, i ∈ ids ↔ covers i) ∧
    ∀ h, h ∈ g'.xf ↔ h ∈ g.xf ∨ (ids ≠ [] ∧ h = XfHold.mk ids ⟨true, true, false, true, false⟩ true)
/-- A path waits at barrier b of team n. -/
def Sys2Proof.Machine.WaitsAt (s : State) (n b : Nat) (pid : Nat) (r : Path) (g : Group) : Prop :=
  SMap.find? s.paths pid = some r ∧ (∃ ph, r.wait = .barrier b ph) ∧ SMap.find? s.groups r.grp = some g ∧ g.team = n
/-- What one arrival at barrier b of team n, with .X or not, does to that team, where it was `t` (04 R87, R88): the count or the
phase moves, other barriers and the rest of the team stay, and a flip lets every path but `me` that waits there go on: with its
core's load buffer emptied, and where one of the phase's arrivals had .X, with its group's accesses behind what that fence covers
(13 R249). Groups but `mine` in which none waits there stay. -/
def Sys2Proof.Machine.ArrivesAt (s : State) (u : State) (n b me mine : Nat) (xf : Bool) (t : Team) : Prop :=
  let a := Arrived (t.bar b)
  let fence : Bool := (t.bar b).x || xf
  (∃ t', SMap.find? u.teams n = some t' ∧ (t'.bar b).arrived = a.2.1 ∧ (t'.bar b).phase = a.2.2 ∧
    (t'.bar b).expected = (t.bar b).expected ∧ (t'.bar b).bad = (t.bar b).bad ∧ (∀ k, k ≠ b → t'.bar k = t.bar k) ∧
    t' = { t with bars := t'.bars } ∧
    (t'.bar b).x = (!a.1 && fence) ∧ (a.1 = true → ∀ i, i ∈ (t'.bar b).xids ↔ fence = true ∧ Fenced s n i)) ∧
  (∀ k, k ≠ n → SMap.find? u.teams k = SMap.find? s.teams k) ∧
  (∀ k, k ≠ mine → SMap.rising s.paths = true → (a.1 = false ∨ ∀ pid r g, WaitsAt s n b pid r g → r.grp ≠ k) →
    SMap.find? u.groups k = SMap.find? s.groups k) ∧
  ∀ pid r g, SMap.rising s.paths = true → pid ≠ me → WaitsAt s n b pid r g →
    (a.1 = false → SMap.find? u.paths pid = some r) ∧
    (a.1 = true → SMap.find? u.paths pid = some { r with wait := .none } ∧ (u.core g.core).loads = [] ∧
      ∃ g', SMap.find? u.groups r.grp = some g' ∧ FencedBy g g' (fun i => fence = true ∧ Fenced s n i) ∧
        (r.grp ≠ mine → g' = { g with xf := g'.xf }))

/-- R268 (14), R87 (04), R249 (13): SN.BINIT sets the count of a barrier and faults on one above 65,535. SN.BAR arrives, and
waits unless its own arrival flips the phase; SN.BARA arrives and writes the phase before it; SN.BARW waits while the phase equals
a[0]. The groups that go on after a phase with a BAR.X wait, on M, L and G, for what its fence covers. -/
def Obligations.Barriers : Prop :=
  ∀ (s : State) (x : View), s.view = some x → SMap.rising s.paths = true →
    (∀ w : FmtS Unit USrc (Fin 16), x.guardOn w.g = true →
      let y := x.sample (USrc.isClk w.a)
      let a := (y.uni w.a).toNat
      (65535 < a → Faults (.snBinit w) s x .illegalOperand 0 0 0) ∧
      (a ≤ 65535 → Goes (.snBinit w) s (fun t => Ends x t y.g (x.p.retire w.q .none) ∧ ∃ u, SMap.find? t.teams x.tid = some u ∧
        (u.bar w.sarg.val).expected = a ∧ (u.bar w.sarg.val).arrived = 0 ∧
        (u.bar w.sarg.val).phase = (x.t.bar w.sarg.val).phase ∧ (∀ k, k ≠ w.sarg.val → u.bar k = x.t.bar k) ∧
        u = { x.t with bars := u.bars } ∧ (∀ k, k ≠ x.tid → SMap.find? t.teams k = SMap.find? s.teams k) ∧
        t = { ({ y with p := x.p.retire w.q .none } : View).commit with teams := t.teams }))) ∧
    (∀ w : FmtS Unit Unit BarMod, x.guardOn w.g = true → Goes (.snBar w) s (fun t =>
      let b := w.sarg.bar.val
      let flips := (Arrived (x.t.bar b)).1
      let fence : Bool := (x.t.bar b).x || w.sarg.x
      ArrivesAt s t x.tid b x.pid x.gid w.sarg.x x.t ∧
        ∃ g p, Ends x t g p ∧ g = { x.g with xf := g.xf } ∧
        p = { x.p.retire w.q .none with wait := if flips then .none else .barrier b (x.t.bar b).phase } ∧
        (flips = false → g = x.g) ∧
        (flips = true → Emptied s t x.g.core ∧ FencedBy x.g g (fun i => fence = true ∧ Fenced s x.tid i)))) ∧
    (∀ w : FmtS (Fin 64) Unit (Fin 16), x.guardOn w.g = true → x.p.wait = .none → Goes (.snBara w) s (fun t =>
      ArrivesAt s t x.tid w.sarg.val x.pid x.gid false x.t ∧ ∃ g0 g, Ends x t g (x.p.retire w.q .none) ∧
        x.g.Keeps g0 { Written.none with s := fun n => n = w.d.val } ∧ g = { g0 with xf := g.xf } ∧
        ((∀ pid r h, WaitsAt s x.tid w.sarg.val pid r h → r.grp ≠ x.gid) → g = g0) ∧
        g.sreg w.d.val = if (x.t.bar w.sarg.val).phase then 1 else 0)) ∧
    (∀ w : FmtS Unit USrc (Fin 16), x.guardOn w.g = true →
      let y := x.sample (USrc.isClk w.a)
      let b := x.t.bar w.sarg.val
      (b.phase = (y.uni w.a).getLsbD 0 → Completes (.snBarw w) s x (fun g p => g = y.g ∧
        p = { x.p.retire w.q .none with wait := .barrier w.sarg.val b.phase })) ∧
      (b.phase ≠ (y.uni w.a).getLsbD 0 → Goes (.snBarw w) s (fun t => ∃ g, Others s x t ∧
        Ends x t g { x.p.retire w.q .none with wait := .none } ∧ g = { y.g with xf := g.xf } ∧ Emptied s t x.g.core ∧
        FencedBy y.g g (fun n => n ∈ b.xids ∧ s.done n = false))))

/-- R269 (14), R85 (04): SN.MARM arms the group's monitor on the aligned 128-byte line of an address and discards a pending
wake; it makes R257's checks and may not watch a host page or a peer. SN.MWAIT gives 1 at once without an armed monitor or
under a timeout of 0, 0 for a pending wake, which it consumes, and else waits, without limit under 0xFFFFFFFF. -/
def Sys2Proof.Claim.Monitors : Prop :=
  ∀ (s : State) (x : View), s.view = some x →
    (∀ w : FmtS Unit (Fin 32) Unit, x.guardOn w.g = true →
      let a := x.g.spair (2 * w.a.val)
      let deny (t : Target) : Bool := match t with | .host _ => true | .peer _ _ => true | _ => false
      Checks (.snMarm w) s x 1 .read true false deny [(0, a)] ∧
      (Allowed x 1 .read false deny [(0, a)] → Goes (.snMarm w) s (fun t => ∃ g line, Quiet s x t ∧
        Ends x t g (x.p.retire w.q .none) ∧ g = { x.g with monitor := ⟨some line, false⟩ } ∧
        match line, x.translate a .read with
        | .dev b, .hit (.dev pa) _ => b % 128 = 0 ∧ b ≤ pa ∧ pa < b + 128
        | .spad u i b, .hit (.spad v j o) _ => u = v ∧ i = j ∧ b % 128 = 0 ∧ b ≤ o ∧ o < b + 128
        | _, _ => False))) ∧
    (∀ w : FmtS (Fin 64) USrc Unit, x.guardOn w.g = true →
      let y := x.sample (USrc.isClk w.a)
      let a := (y.uni w.a).toNat
      let armed : Bool := x.g.monitor.line.isSome
      let wake := x.g.monitor.wake
      let gives (v : Word) (m : Monitor) : Prop := Completes (.snMwait w) s x (fun g p =>
        ({ y.g with monitor := m } : Group).Keeps g { Written.none with s := fun n => n = w.d.val } ∧ g.sreg w.d.val = v ∧
          p = x.p.retire w.q .none)
      (armed = false → gives 1 x.g.monitor) ∧
      (armed = true → wake = true → gives 0 { x.g.monitor with wake := false }) ∧
      (armed = true → wake = false → a = 0 → gives 1 x.g.monitor) ∧
      (armed = true → wake = false → a ≠ 0 → Completes (.snMwait w) s x (fun g p => g = { y.g with due := g.due } ∧
        (∀ e, e ∈ g.due ↔ e = (65536 + w.d.val, x.pid) ∨ (e ∈ y.g.due ∧ e.1 ≠ 65536 + w.d.val)) ∧
        p = { x.p.retire w.q .none with
          wait := .monitor w.d.val (if a = 0xFFFFFFFF then none else some (s.cycle + a)) })))

/-- R276 (14), R77, R82 (04): TK.WAIT goes on when COUNT is 0, and until then does not issue; TK.TST tells whether it is;
TK.CNT reads the tag word; TK.CAN completes with status CANCELLED every operation of the tag that waits for a trigger, or is
a stamp or an arrival that waits for what it covers, and nothing else; where COUNT falls to 0, what waits for it as its trigger
starts (R81). -/
def Sys2Proof.Claim.TagWords : Prop :=
  ∀ (s : State) (x : View), s.view = some x →
    let count (k : Fin 8) : Nat := (x.g.tag k.val).count
    (∀ w : FmtA Unit (Fin 8) Unit Unit Unit, x.guardOn w.g = true →
      (count w.a = 0 → Completes (.tkWait w) s x (fun g p => g = x.g ∧ p = x.p.retire w.q .none)) ∧
      (count w.a ≠ 0 → exec (.tkWait w) s = .next s)) ∧
    (∀ w : FmtA (Fin 16) (Fin 8) Unit Unit Unit, x.guardOn w.g = true →
      Completes (.tkTst w) s x (UniPredResult x w.d w.q (decide (count w.a = 0)))) ∧
    (∀ w : FmtA (Dest (Fin 64)) (Fin 8) Unit Unit Unit, x.guardOn w.g = true →
      ∃ r : Word, r.toNat = ((x.g.tag w.a.val).stat * 256 + count w.a) % 2 ^ 32 ∧
        Completes (.tkCnt w) s x (UniResult x w.d w.q r)) ∧
    (∀ w : FmtA Unit (Fin 8) Unit Unit Unit, x.guardOn w.g = true → (s.ops.map (·.1)).Nodup →
      let cancels (n : Nat) (o : Op) : Prop := (n, o) ∈ s.ops ∧ o.grp = x.gid ∧ o.tag = w.a.val ∧ o.started = false ∧
        (o.trig.isSome = true ∨ ((match o.kind with | .stamp .. => True | .arrive .. => True | .fbArrive .. => True | _ => False) ∧
          s.allDone (o.covers ++ o.release) = false))
      Goes (.tkCan w) s (fun t => ∃ g gone, Ends x t g (x.p.retire w.q .none) ∧ gone.Nodup ∧
        (∀ n, n ∈ gone ↔ ∃ o, cancels n o) ∧ (∀ n ∈ gone, SMap.find? t.ops n = none) ∧
        (∀ n o, (n, o) ∈ s.ops → n ∉ gone → n < s.nextId → ∃ o', SMap.find? t.ops n = some o' ∧
          let freed : Prop := gone ≠ [] ∧ (g.tag w.a.val).count = 0 ∧ o.grp = x.gid ∧ o.trig = some w.a.val
          (¬ freed → o' = { o with barred := o'.barred }) ∧
          (freed → o'.trig = none ∧ ((match o.kind with | .stamp .. => True | .arrive .. => True | .fbArrive .. => True | _ => False) ∨
            ((∀ c ∈ o.covers, s.done c = true ∧ c < s.nextId) → o'.started = true)))) ∧
        x.g.Keeps g { Written.none with k := fun n => n = w.a.val } ∧
        (g.tag w.a.val).count = count w.a -
          ((s.ops.filter (fun e => gone.contains e.1)).map (fun e => match e.2.kind with | .lane cs _ => cs.length | _ => 1)).sum ∧
        (gone ≠ [] → (∀ n o, cancels n o → o.status = 0) →
          (g.tag w.a.val).stat = if (x.g.tag w.a.val).stat ≠ 0 then (x.g.tag w.a.val).stat else 3) ∧
        t.mem = s.mem ∧ t.host = s.host ∧ t.teams = s.teams ∧
        ∀ n r, n < s.nextId → SMap.find? s.reqs n = some r → SMap.find? t.reqs n = some r))

/-- R269, R270, R276 (14), R80 to R85 (04): the monitor words, SN.FLUSH, SN.INV and the words of TK. -/
def Obligations.MonitorsAndTags : Prop := Claim.Monitors ∧ Claim.TagWords

/-! ## Operations under a tag: CP, MX, AX and FB (04 R73 to R92; 14 R271 to R275; 18 R290 to R310) -/

/-- A stamp or an arrival, which starts only after what it covers (04 R84, R88). -/
def Sys2Proof.Machine.covers : OpKind → Prop
  | .stamp .. => True
  | .arrive .. => True
  | .fbArrive .. => True
  | _ => False
/-- An operation that makes a release: a stamp, an arrival, a completion counter (13 R246). -/
def Sys2Proof.Machine.releases : OpKind → Prop
  | .mcast _ _ _ _ st => st ≠ none
  | .put m _ => m.st = true
  | .ata _ => True
  | k => covers k
/-- An operation that a word has put under its tag (04 R78, R79, R81): what it is, whose it is, and that it has started exactly
where nothing holds it: no trigger tag with operations left, nothing that it covers or follows. A release that it makes comes after
the path's accesses on L and G in flight (13 R246). -/
def Sys2Proof.Machine.Queued (x : View) (t : State) (id : Nat) (kind : OpKind) (tag : Fin 8) (trig : Option (Fin 8)) (lanes : Lanes)
    (after : List Nat) : Prop :=
  ∃ o, SMap.find? t.ops id = some o ∧ o.kind = kind ∧ o.tag = tag.val ∧ o.grp = x.gid ∧ o.team = x.tid ∧ o.entry = x.eid ∧
    o.fn = x.e.fn ∧ o.ctx = x.e.ctx ∧ o.core = x.g.core ∧ o.pc = x.p.pc ∧ o.lanes = lanes ∧
    o.trig = (match trig with | some n => if (x.g.tag n.val).count = 0 then none else some n.val | none => none) ∧
    (∀ n ∈ after, n ∈ o.covers) ∧ (∀ n, n ∈ o.release ↔ releases kind ∧ Earlier x n false) ∧
    (covers kind → o.barred = (if (x.g.tag tag.val).count = 0 then false else (x.g.tag tag.val).barred)) ∧
    (¬ covers kind → o.barred = false) ∧
    (covers kind → o.started = false ∧ ∀ e ∈ x.s.ops, e.2.grp = x.gid → e.2.tag = tag.val → e.1 ∈ o.covers) ∧
    (¬ covers kind → (∀ n ∈ o.covers, n ∈ after) ∧ (o.started = true → o.trig = none) ∧
      (o.trig = none → after = [] → o.started = true))
/-- COUNT of a tag after `n` operations more: a batch begins where it was 0. -/
def Sys2Proof.Machine.TagUp (g h : Group) (tag : Fin 8) (n : Nat) : Prop :=
  g.Keeps h { Written.none with k := fun k => k = tag.val } ∧
    h.tag tag.val = (if (g.tag tag.val).count = 0 then ⟨n, 0, false⟩
      else { g.tag tag.val with count := (g.tag tag.val).count + n })
/-- A word that puts one operation under its tag and goes on (04 R79, R81). `y` is its view with its sources sampled. -/
def Sys2Proof.Machine.QueuesOne (i : Instr) (s : State) (x y : View) (q : Bool) (tag : Fin 8) (trig : Option (Fin 8)) (ok : OpKind → Prop)
    (after : List Nat) : Prop :=
  ∃ kind, ok kind ∧ Goes i s (fun t => ∃ g, Ends x t g (x.p.retire q .none) ∧ Apart s x t ∧ TagUp y.g g tag 1 ∧
    Queued x t s.nextId kind tag trig x.p.mask after)
/-- The numbers in use are below the next one, as on every run, and TRIG is not the word's own tag, which the decoder refuses
(04 R81). -/
def Sys2Proof.Machine.Numbered (s : State) (tag : Fin 8) (trig : Option (Fin 8)) : Prop := s.NumbersFresh ∧ trig ≠ some tag

/-- Where a word that needs a table stands (10 R186, 14 R274): with the bytes all there and clean it goes on with them; while
loads of them are out it has not issued; before that it faults on alignment, and where R257's checks pass it loads them, on L or, for
a word of FB, on F (13 R243), after the group's accesses on L and G in flight (R302). A poisoned table stops the path, and its launch has an imprecise POISON (23 R347). -/
def Sys2Proof.Machine.TableWord (i : Instr) (s : State) (x : View) (path : APath) (a : DWord) (n align : Nat)
    (f : List Byte → Prop) : Prop :=
  let pieces := (chunks a.toNat a.toNat n).map (fun c => (0, a + BitVec.ofNat 64 c.1))
  (∀ t, x.p.table a n = some t → t.left ≠ [] → exec i s = .next s) ∧
  (∀ t, x.p.table a n = some t → t.left = [] → t.bad ≠ [] → Goes i s (fun u => u.mem = s.mem ∧ u.groups = s.groups ∧
    (∃ p, SMap.find? u.paths x.pid = some p ∧ p.wait = .stopped ∧ p.pc = x.p.pc) ∧
    ∃ d, (t.mesh = true → d = 2) ∧
      (∀ b bs pa l, t.mesh = false → t.bad = b :: bs → x.translate (a + BitVec.ofNat 64 b) .read = .hit (.dev pa) l →
        d = if 2 ^ 45 ≤ pa then 0 else 1) ∧
      u.entries = (s.lateFault x.eid x.tid x.gid 0 x.p.pc .poison a d).entries)) ∧
  (∀ t, x.p.table a n = some t → t.left = [] → t.bad = [] → f ((List.range n).map (fun k => SMap.getD t.data k 0))) ∧
  (x.p.table a n = none →
    (a.toNat % align ≠ 0 → Faults i s x .misaligned a 0 0) ∧
    (a.toNat % align = 0 → (∃ c ∈ pieces, x.outside c.2 = true) → Faults i s x .address a 0 0) ∧
    (a.toNat % align = 0 → Allowed x 1 .read false (fun _ => false) pieces → Goes i s (fun u => ∃ g p t, Apart s x u ∧
      Ends x u g p ∧ g = { x.g with xf := g.xf } ∧ p = { x.p with tables := x.p.tables ++ [t], fresh := p.fresh } ∧
      (path = .f → g = x.g ∧ p.fresh = x.p.fresh) ∧ t.addr = a ∧ t.n = n ∧
      ∀ c ∈ t.left, ∃ r, SMap.find? u.reqs c = some r ∧ r.path = path ∧ r.entry = x.eid ∧ r.named = 0 ∧
        ∀ m, m ∈ r.after ↔ path = .f ∧ ∃ q, (m, q) ∈ s.reqs ∧ q.value = none ∧ q.grp = x.gid ∧ (q.path = .l ∨ q.path = .g))))

/-- R75, R76, R84, R88 (04), R272 to R275 (14): the words of CP queue their copies, stamps and arrivals with the operands as
they stand at issue, stall for room under their tag, and make their checks. -/
def Sys2Proof.Claim.LaneAndBulkCopies : Prop :=
  ∀ (s : State) (x : View), s.view = some x →
    (∀ w : FmtX Base Base Src CopySize, Numbered s w.tag w.trig →
      let y := x.sample (Src.isClk w.cc && x.guardOn w.g)
      let n : Nat := match w.mod with | .b4 => 4 | .b8 => 8 | .b16 => 16 | .b32 => 32
      let ls := lanesBelow x.w (x.active w.g)
      let mis := ls.filter (fun l => (x.base w.b l).toNat % n != 0 || (x.base w.a l).toNat % n != 0)
      let out := ls.filter (fun l => x.rangeOutside (x.base w.b l) n || x.rangeOutside (x.base w.a l) n)
      let count := (x.g.tag w.tag.val).count
      let mask (hits : List Nat) : Lanes := hits.foldl (fun m l => m ||| oneLane l) 0
      (ls = [] → Completes (.cpLane w) s x (fun g p => g = y.g ∧ p = x.p.retire w.q .none)) ∧
      (ls ≠ [] → 255 < count + ls.length → exec (.cpLane w) s = .next s) ∧
      (ls ≠ [] → count + ls.length ≤ 255 →
        (∀ l r, mis = l :: r → Faults (.cpLane w) s x .misaligned
          (if (x.base w.b l).toNat % n ≠ 0 then x.base w.b l else x.base w.a l) (mask mis) 0) ∧
        (mis = [] → ∀ l r, out = l :: r → Faults (.cpLane w) s x .address
          (if x.rangeOutside (x.base w.b l) n then x.base w.b l else x.base w.a l) (mask out) 0) ∧
        (mis = [] → out = [] → Goes (.cpLane w) s (fun t => ∃ g, Ends x t g (x.p.retire w.q .none) ∧ Apart s x t ∧
          TagUp y.g g w.tag ls.length ∧ ∃ id : Nat → Nat,
            let src (l : Nat) : DWord := x.base w.b l
            let dst (l : Nat) : DWord := x.base w.a l
            let one (k l : Nat) : Bool := decide ((src k).toNat / 128 = (src l).toNat / 128 ∧
              (dst k).toNat / 128 = (dst l).toNat / 128 ∧ dst k - src k = dst l - src l)
            ∀ l ∈ ls, (∀ k ∈ ls, id k = id l ↔ one k l = true) ∧
              (∀ k ∈ ls, (∀ i ∈ ls, one i l = true → k < i) → id k < id l) ∧ ∃ cs m after,
              Queued x t (id l) (.lane cs n) w.tag w.trig m after ∧
              (∀ k, k < 64 → (hasLane m k = true ↔ k ∈ ls ∧ one k l = true)) ∧
              cs.map (fun c => (c.src, c.dst, c.n)) =
                (ls.filter (fun k => one k l)).map (fun k => (src k, dst k, min (y.lane w.cc k).toNat n)) ∧
              (∀ k c, ((ls.filter (fun k => one k l)).zip cs).contains (k, c) = true →
                (c.written = false ↔ ∃ i ∈ ls, id i < id l ∧ k < i ∧ dst i = dst k)) ∧
              ∀ i, i ∈ after ↔ ∃ k ∈ ls, i = id k ∧ id k < id l ∧ ∃ j ∈ ls, one j l = true ∧ dst j = dst k)))) ∧
    (∀ w : FmtX (Fin 32) (Fin 32) USrc Bool, Numbered s w.tag w.trig → x.guardOn w.g = true →
      let y := x.sample (USrc.isClk w.cc)
      let r (k : Nat) : Nat := match w.cc with | .s n => (x.g.sreg (n.val + k)).toNat | _ => 0
      let bytes := if w.mod then r 0 else (y.uni w.cc).toNat
      let rows := if w.mod then r 1 else 1
      let sp := if w.mod then r 2 else bytes
      let dp := if w.mod then r 3 else bytes
      let dst := x.g.spair (2 * w.a.val)
      let src := x.g.spair (2 * w.b.val)
      let last (a : DWord) (p : Nat) : DWord := a + BitVec.ofNat 64 ((rows - 1) * p + bytes - 1)
      let sized : Prop := 1 ≤ bytes ∧ bytes ≤ 2 ^ 24 ∧ 1 ≤ rows ∧ rows ≤ 2 ^ 16
      let aligned : Prop := dst.toNat % 4 = 0 ∧ src.toNat % 4 = 0 ∧ bytes % 4 = 0 ∧ sp % 4 = 0 ∧ dp % 4 = 0
      let inside : Prop := ∀ a ∈ [dst, last dst dp, src, last src sp], x.outside a = false
      (255 ≤ (x.g.tag w.tag.val).count → exec (.cpBulk w) s = .next s) ∧
      ((x.g.tag w.tag.val).count < 255 →
        (¬ sized → Faults (.cpBulk w) s x .illegalOperand 0 0 0) ∧
        (sized → ¬ aligned → ∃ a, Faults (.cpBulk w) s x .misaligned a 0 0) ∧
        (sized → aligned → ¬ inside → ∃ a, x.outside a = true ∧ Faults (.cpBulk w) s x .address a 0 0) ∧
        (sized → aligned → inside →
          QueuesOne (.cpBulk w) s x y w.q w.tag w.trig (fun k => k = .bulk src dst bytes rows sp dp) []))) ∧
    (∀ w : FmtX (Fin 32) USrc64 Unit Bool, Numbered s w.tag w.trig → x.guardOn w.g = true →
      let a := x.g.spair (2 * w.a.val)
      (255 ≤ (x.g.tag w.tag.val).count → exec (.cpStamp w) s = .next s) ∧
      ((x.g.tag w.tag.val).count < 255 → (a.toNat % 8 ≠ 0 → Faults (.cpStamp w) s x .misaligned a 0 0) ∧
        (a.toNat % 8 = 0 →
          QueuesOne (.cpStamp w) s x x w.q w.tag w.trig (fun k => k = .stamp a (x.uni64 w.b) w.mod) []))) ∧
    (∀ w : FmtX USrc USrc Unit Unit, Numbered s w.tag w.trig → x.guardOn w.g = true →
      let y := x.sample (USrc.isClk w.a || USrc.isClk w.b)
      let b := (y.uni w.b).toNat
      (255 ≤ (x.g.tag w.tag.val).count → exec (.cpArrv w) s = .next s) ∧
      ((x.g.tag w.tag.val).count < 255 → (15 < b → Faults (.cpArrv w) s x .illegalOperand 0 0 0) ∧
        (b ≤ 15 → QueuesOne (.cpArrv w) s x y w.q w.tag w.trig (fun k => k = .arrive (y.uni w.a) b) [])))

/-- R89 (04), R274 (14): CP.MCAST checks its descriptor, reads the stamp's value and the handles from its list, and queues the
multicast. -/
def Sys2Proof.Claim.Multicast : Prop :=
  ∀ (s : State) (x : View) (w : FmtX (Fin 32) (Fin 16) (Fin 32) Unit), s.view = some x → Numbered s w.tag w.trig →
    x.guardOn w.g = true →
    let r (k : Nat) : Nat := (x.g.sreg (4 * w.b.val + k)).toNat
    let src := x.g.spair (2 * w.a.val)
    let lst := x.g.spair (2 * w.cc.val)
    let stamp : Prop := r 3 ≠ 0xFFFFFFFF
    let bytesOk : Prop := 4 ≤ r 0 ∧ r 0 ≤ 65536 ∧ r 0 % 4 = 0
    let countOk : Prop := 1 ≤ r 2 ∧ r 2 ≤ 64
    (255 ≤ (x.g.tag w.tag.val).count → exec (.cpMcast w) s = .next s) ∧
    ((x.g.tag w.tag.val).count < 255 →
      (¬ bytesOk → Faults (.cpMcast w) s x .illegalOperand 0 0 0) ∧
      (bytesOk → r 1 % 4 ≠ 0 → Faults (.cpMcast w) s x .misaligned (BitVec.ofNat 64 (r 1)) 0 0) ∧
      (bytesOk → r 1 % 4 = 0 → ¬ countOk → Faults (.cpMcast w) s x .illegalOperand 0 0 0) ∧
      (bytesOk → r 1 % 4 = 0 → countOk → stamp → r 3 % 8 ≠ 0 →
        Faults (.cpMcast w) s x .misaligned (BitVec.ofNat 64 (r 3)) 0 0) ∧
      (bytesOk → r 1 % 4 = 0 → countOk → (stamp → r 3 % 8 = 0) →
        (src.toNat % 4 ≠ 0 → Faults (.cpMcast w) s x .misaligned src 0 0) ∧
        (src.toNat % 4 = 0 → TableWord (.cpMcast w) s x .l lst (8 + 4 * r 2) 8 (fun bs =>
          QueuesOne (.cpMcast w) s x x w.q w.tag w.trig (fun k => ∃ hs st, k = .mcast src (r 0) (r 1) hs st ∧
            hs.length = r 2 ∧ (∀ j, j < r 2 → (hs.getD j 0).toNat = leNat ((bs.drop (8 + 4 * j)).take 4)) ∧
            (stamp → ∃ v : DWord, v.toNat = leNat (bs.take 8) ∧ st = some (r 3, v)) ∧ (¬ stamp → st = none)) []))))

/-- R105 (05), R290 to R294 (18): MX.MMA and MX.MMAS check their registers, the group's accumulator window and, for MMAS, the
scratchpad tile against the group's SPADSZ (R293), and queue a multiply with the fragments read from every lane at issue; MX.ZERO queues a zeroing of 64 rows. -/
def Sys2Proof.Claim.MultiplyWords : Prop :=
  ∀ (s : State) (x : View), s.view = some x →
    let window (c : Nat) : Prop := x.g.abase ≤ c ∧ c + 64 ≤ x.g.alimit
    let full (k : Fin 8) : Prop := 255 ≤ (x.g.tag k.val).count
    let fragment (f : FoldWord) (base : Nat) (es : List Nat) : Prop := ∀ r c, r < f.extent .y → c < f.extent .x →
      es.getD (r * f.extent .x + c) 0 = f.at_ x.supplies base 0 ⟨c, r, 0, 0⟩
    let nq (ty : MxType) : Bool := match ty with | .nq4 => true | .nq4e5 => true | _ => false
    let half := if x.e.body.twin then 2 * 16384 else 16384
    let spadsz := 16384 * ((x.e.body.spad + half - 1) / half)
    let mul (i : Instr) (ty : MxType) (grd : Guard) (q : Bool) (tag : Fin 8) (trig : Option (Fin 8)) (y : View) (a : Option Nat)
        (off : Option Nat) (b : Nat) (cc : USrc) : Prop :=
      let fa := fragA x.w ty
      let fb := fragB x.w ty
      let c := (y.uni cc).toNat
      let bad : Prop := nq ty = true ∧ ¬ ∃ n : Fin 64, cc = .s n ∧ n.val % 2 = 0
      let beyond : Prop := (∃ r, a = some r ∧ x.regs < r + fa.nreg) ∨ x.regs < b + fb.nreg + (if nq ty then 2 else 0)
      let bytes : Nat := match ty with | .bf16 => 2048 | .f16 => 2048 | .nq4 => 4096 | .nq4e5 => 4096 | _ => 2048
      let astray (o : Nat) : Prop := o % 128 ≠ 0
      let past (o : Nat) : Prop := spadsz < o + bytes
      x.guardOn grd = true → Numbered s tag trig →
      (bad → Faults i s x .illegalOperand 0 0 0) ∧
      (¬ bad → beyond → Faults i s x .registerRange 0 0 0) ∧
      (¬ bad → ¬ beyond → ¬ window c → Faults i s x .accWindow 0 0 0) ∧
      (¬ bad → ¬ beyond → window c →
        (∀ o, off = some o → astray o → Faults i s x .misaligned (BitVec.ofNat 64 o) 0 0) ∧
        (∀ o, off = some o → ¬ astray o → past o → Faults i s x .address (BitVec.ofNat 64 o) 0 0) ∧
        ((∀ o, off = some o → ¬ astray o ∧ ¬ past o) →
          (full tag → exec i s = .next s) ∧
          (¬ full tag → QueuesOne i s x y q tag trig (fun k => ∃ ea eb codes scale, k = .mma ty ea eb codes off c scale ∧
            (∀ r, a = some r → fragment fa r ea) ∧ fragment fb b eb ∧
            (nq ty = true → (∃ n : Fin 64, cc = .s n ∧ scale = x.g.sreg (n.val + 1)) ∧ ∀ j, j < 64 → codes.getD j 0 =
              (x.supplies (b + fb.nreg + j / 4 / x.w) (j / 4 % x.w)).toNat / 2 ^ (8 * (j % 4)) % 256)) [])))
    (spadsz < 2 ^ 32 → UniSpecial.Holds x .spadsz spadsz) ∧
    (∀ w : FmtX (Fin 256) (Fin 256) USrc MxType,
      mul (.mxMma w) w.mod w.g w.q w.tag w.trig (x.sample (USrc.isClk w.cc)) (some w.a.val) none w.b.val w.cc) ∧
    (∀ w : FmtX USrc (Fin 256) USrc MxType,
      let y := x.sample (USrc.isClk w.cc || USrc.isClk w.a)
      mul (.mxMmas w) w.mod w.g w.q w.tag w.trig y none (some (y.uni w.a).toNat) w.b.val w.cc) ∧
    (∀ w : FmtX Unit Unit USrc Unit, x.guardOn w.g = true → Numbered s w.tag w.trig →
      let y := x.sample (USrc.isClk w.cc)
      let c := (y.uni w.cc).toNat
      (¬ window c → Faults (.mxZero w) s x .accWindow 0 0 0) ∧
      (window c → full w.tag → exec (.mxZero w) s = .next s) ∧
      (window c → ¬ full w.tag → QueuesOne (.mxZero w) s x y w.q w.tag w.trig (fun k => k = .zero c) []))

/-- R117 (06), R297 to R299 (18): AX.WIN is for group 0 alone and sets the accumulator window of one group or of all; AX.DRN,
AX.FIL and AX.CHK check their rows against the window and their plane, and queue their work, FIL with its plane widened
exactly as it stands at issue. -/
def Sys2Proof.Claim.AccumulatorWords : Prop :=
  ∀ (s : State) (x : View), s.view = some x →
    let full (k : Fin 8) : Prop := 255 ≤ (x.g.tag k.val).count
    let rows (b n : Nat) : Prop := 1 ≤ n ∧ x.g.abase ≤ b ∧ b + n ≤ x.g.alimit
    let width (c : AxCvt) : Nat := match c with | .f32 => 2 | .f16 => 1 | .bf16 => 1 | .e4m3 => 0 | .e5m2 => 0
    let shaped (f : FoldWord) (c : AxCvt) (n : Nat) : Prop :=
      f.extent .x = 64 ∧ f.extent .y = n ∧ f.s0 = 0 ∧ f.s1 = 0 ∧ 2 ^ (f.gx + f.gy) = x.w ∧ f.ew = width c
    let word (i : Instr) (q : Bool) (tag : Fin 8) (trig : Option (Fin 8)) (y : View) (plane : Option (Nat × DWord × AxCvt))
        (b n : Nat) (ok : OpKind → Prop) : Prop :=
      (¬ rows b n → Faults i s x .accWindow 0 0 0) ∧
      (rows b n → ∀ d w c, plane = some (d, w, c) → ¬ shaped (FoldWord.of w) c n → Faults i s x .foldInvalid 0 0 0) ∧
      (rows b n → ∀ d w c, plane = some (d, w, c) → shaped (FoldWord.of w) c n → x.regs < d + (FoldWord.of w).nreg →
        Faults i s x .registerRange 0 0 0) ∧
      (rows b n → (∀ d w c, plane = some (d, w, c) → shaped (FoldWord.of w) c n ∧ d + (FoldWord.of w).nreg ≤ x.regs) →
        (full tag → exec i s = .next s) ∧ (¬ full tag → QueuesOne i s x y q tag trig ok []))
    (∀ w : FmtA Unit USrc USrc USrc Unit, x.guardOn w.g = true →
      let y := x.sample (USrc.isClk w.a || USrc.isClk w.b || USrc.isClk w.cc)
      let a := (y.uni w.a).toNat
      let b := (y.uni w.b).toNat
      let c := (y.uni w.cc).toNat
      let ok : Prop := (a = 0xFFFFFFFF ∨ a < x.e.body.groups) ∧ b ≤ c ∧ c ≤ x.e.body.accRows
      (x.g.idx ≠ 0 → Faults (.axWin w) s x .illegalInstruction 0 0 0) ∧
      (x.g.idx = 0 → ¬ ok → Faults (.axWin w) s x .illegalOperand 0 0 0) ∧
      (x.g.idx = 0 → ok → Goes (.axWin w) s (fun t => SMap.find? t.paths x.pid = some (x.p.retire w.q .none) ∧
        t = { ({ y with p := x.p.retire w.q .none } : View).commit with groups := t.groups } ∧
        ∀ n g, SMap.find? s.groups n = some g → SMap.find? t.groups n = some
          (let h := if n = x.gid then y.g else g
          let clean (k : Nat) : Bool := k != 65784 && k != 65785
          if g.team = x.tid ∧ (a = 0xFFFFFFFF ∨ g.idx = a) then
            { h with abase := b, alimit := c, bad := h.bad.filter clean, flips := h.flips.filter (fun e => clean e.1) }
          else h)))) ∧
    (∀ w : FmtX (Fin 256) USrc USrc DrnMod, x.guardOn w.g = true → Numbered s w.tag w.trig →
      let y := x.sample (USrc.isClk w.b || USrc.isClk w.cc)
      let fw := x.g.fold w.mod.freg.val
      word (.axDrn w) w.q w.tag w.trig y (some (w.a.val, fw, w.mod.cvt)) (y.uni w.b).toNat (y.uni w.cc).toNat
        (fun k => k = .drain w.mod w.a.val fw (y.uni w.b).toNat (y.uni w.cc).toNat)) ∧
    (∀ w : FmtX (Fin 256) USrc USrc FilMod, x.guardOn w.g = true → Numbered s w.tag w.trig →
      let y := x.sample (USrc.isClk w.b || USrc.isClk w.cc)
      let fw := x.g.fold w.mod.freg.val
      let f := FoldWord.of fw
      word (.axFil w) w.q w.tag w.trig y (some (w.a.val, fw, w.mod.cvt)) (y.uni w.b).toNat (y.uni w.cc).toNat
        (fun k => ∃ ws, k = .fill ws (y.uni w.b).toNat (y.uni w.cc).toNat ∧
          ∀ r c, r < f.extent .y → c < 64 → ws.getD (r * 64 + c) 0 =
            BitVec.ofNat 32 (let e := f.at_ x.supplies w.a.val 0 ⟨c, r, 0, 0⟩
              match w.mod.cvt with
              | .f32 => e
              | .f16 => (FFmt.f32.ofVal .noFmt false (FFmt.f16.val e)).1
              | .bf16 => (FFmt.f32.ofVal .noFmt false (FFmt.bf16.val e)).1
              | .e4m3 => (FFmt.f32.ofVal .noFmt false (FFmt.fE4m3.val e)).1
              | .e5m2 => (FFmt.f32.ofVal .noFmt false (FFmt.fE5m2.val e)).1))) ∧
    (∀ w : FmtX Unit USrc USrc Unit, x.guardOn w.g = true → Numbered s w.tag w.trig →
      let y := x.sample (USrc.isClk w.b || USrc.isClk w.cc)
      word (.axChk w) w.q w.tag w.trig y none (y.uni w.b).toNat (y.uni w.cc).toNat
        (fun k => k = .check (y.uni w.b).toNat (y.uni w.cc).toNat))

/-- R300 to R303 (18), R371 (24): FB.PUT, FB.GET and FB.RED take each contributing lane's control word, make their checks in
order over all of them, and queue one operation with the lanes' addresses, sizes and peers, which reads after the group's
earlier accesses on L and G. With no lane contributing they only go on. FB.PUT.MC first reads each 64-byte half of its groups'
entries of the multicast table, one in a step (R371, 01 R13), waiting where a half lies in a derived tile that is not VALID (02
R49); poison there goes unnoticed, which is the model's choice (log 62). -/
def Sys2Proof.Claim.FabricLanes : Prop :=
  ∀ (s : State) (x : View), s.view = some x →
    let word (i : Instr) (grd : Guard) (q : Bool) (tag : Fin 8) (trig : Option (Fin 8)) (a b : Base) (cc : Src)
        (mc sp st : Bool) (near far : Nat → Nat) (align : Nat) (kind : List FbLane → OpKind) : Prop := ∀ bs : Nat → Byte,
      let y := x.sample (Src.isClk cc && x.guardOn grd)
      let ctl (l : Nat) : Nat := (y.lane cc l).toNat
      let ls := (lanesBelow x.w (x.active grd)).filter (fun l => decide (ctl l / 4096 ≠ 0))
      let entry (l : Nat) : Nat := (s.fn x.e.fn).mcgBase.toNat + 128 * (ctl l % 4096)
      let blocks (l : Nat) : List Nat := if mc ∧ ctl l % 4096 < 256 then [entry l, entry l + 64] else []
      let unread (b : Nat) : Prop := ∀ t ∈ x.p.tables, t.addr.toNat ≠ b
      let two (a : Nat) : Nat := (bs a).toNat + 256 * (bs (a + 1)).toNat
      let peers (l : Nat) : List Nat :=
        if mc then
          let n := two (entry l)
          let p (k : Nat) : Nat := two (entry l + 2 + 2 * k)
          if 256 ≤ ctl l % 4096 ∨ n = 0 ∨ 63 < n ∨ (∃ k < n, s.domsize ≤ p k) then [] else (List.range n).map p
        else if ctl l % 4096 < s.domsize then [ctl l % 4096] else []
      let loc (l : Nat) : DWord := x.base a l
      let rem (l : Nat) : DWord := x.base b l
      let there (l : Nat) : Nat := if sp then (rem l).toNat % 2 ^ 32 else (rem l).toNat
      let none_ (l : Nat) : Bool := (peers l).isEmpty
      let mis (l : Nat) : Bool := decide ((loc l).toNat % 4 ≠ 0) || decide (there l % align ≠ 0) || decide (ctl l / 4096 % 4 ≠ 0)
      let out (l : Nat) : Bool := x.rangeOutside (loc l) (near (ctl l / 4096)) ||
        (!sp && decide (2 ^ 57 ≤ (rem l).toNat + far (ctl l / 4096) - 1))
      let stamp (l : Nat) : Bool := st && ls.getLast? == some l
      let odd (l : Nat) : Bool := stamp l && ctl l / 4096 != 8
      let skew (l : Nat) : Bool := stamp l && (decide ((loc l).toNat % 8 ≠ 0) || decide (there l % 8 ≠ 0))
      let fails (c : Code) (p : Nat → Bool) (detail : Nat) : Prop :=
        ∃ addr m, (∀ l, l < 64 → (hasLane m l = true ↔ l ∈ ls ∧ p l = true)) ∧ Faults i s x c addr m detail
      let clear (p : Nat → Bool) : Prop := ∀ l ∈ ls, p l = false
      Numbered s tag trig → (mc = true → 128 ∣ (s.fn x.e.fn).mcgBase.toNat ∧
        ∀ t ∈ x.p.tables, t.addr.toNat % 64 = 0 → ∀ k, k < 64 → SMap.getD t.data k 0 = bs (t.addr.toNat + k)) →
      (ls = [] → Completes i s x (fun g p => g = y.g ∧ p = x.p.retire q .none)) ∧
      (ls ≠ [] → 255 ≤ (x.g.tag tag.val).count → exec i s = .next s) ∧
      (ls ≠ [] → (x.g.tag tag.val).count < 255 → (∃ l ∈ ls, ∃ b ∈ blocks l, unread b) → ∃ l ∈ ls, ∃ b ∈ blocks l, unread b ∧
        (s.notValid b 64 ≠ [] → exec i s = .next (s.startStale b 64 x.e.fn)) ∧
        (s.notValid b 64 = [] → ∃ t, exec i s = .next ({ x with p := { x.p with tables := x.p.tables ++ [t] } } : View).commit ∧
          t.addr = BitVec.ofNat 64 b ∧ ∀ k, k < 64 → SMap.getD t.data k 0 = s.mem.byte (b + k))) ∧
      (ls ≠ [] → (x.g.tag tag.val).count < 255 → (∀ l ∈ ls, ∀ b ∈ blocks l, ¬ unread b) →
        (¬ clear none_ → fails .fabric none_ 0x7F) ∧
        (clear none_ → ¬ clear mis → fails .misaligned mis 0) ∧
        (clear none_ → clear mis → ¬ clear out → fails .address out 0) ∧
        (clear none_ → clear mis → clear out → ¬ clear odd → fails .illegalOperand odd 0) ∧
        (clear none_ → clear mis → clear out → clear odd → ¬ clear skew → fails .misaligned skew 0) ∧
        (clear none_ → clear mis → clear out → clear odd → clear skew →
          Goes i s (fun t => ∃ g m after, Ends x t g (x.p.retire q .none) ∧ Apart s x t ∧ TagUp y.g g tag 1 ∧
            (∀ l, l < 64 → (hasLane m l = true ↔ l ∈ ls)) ∧
            (∀ n, n ∈ after ↔ ∃ r, (n, r) ∈ s.reqs ∧ r.value = none ∧ r.grp = x.gid ∧ (r.path = .l ∨ r.path = .g)) ∧
            Queued x t s.nextId (kind (ls.map (fun l => ⟨loc l, rem l, ctl l / 4096, peers l⟩))) tag trig m after)))
    (∀ w : FmtX Base Base Src PutMod, word (.fbPut w) w.g w.q w.tag w.trig w.a w.b w.cc w.mod.mc w.mod.sp w.mod.st
      (fun n => n) (fun n => n) 4 (.put w.mod)) ∧
    (∀ w : FmtX Base Base Src Unit, word (.fbGet w) w.g w.q w.tag w.trig w.a w.b w.cc false false false
      (fun n => n) (fun n => n) 4 .get) ∧
    (∀ w : FmtX Base Base Src FbRedMod, word (.fbRed w) w.g w.q w.tag w.trig w.a w.b w.cc false false false
      (fun n => if w.mod.rs then 2 * n else n) (fun n => if w.mod.ty = .xc then 16 * n else n)
      (if w.mod.ty = .xc then 64 else 4) (.red w.mod))

/-- R306, R308 (18): which layout maps, combine records and slot tables are valid. -/
def Sys2Proof.Claim.Records : Prop :=
  let fld (m lo w : Nat) : Nat := m / 2 ^ lo % 2 ^ w
  let product (f : Nat → Nat) : Nat := f 0 * f 1 * f 2 * f 3
  (∀ m dom me : Nat,
    let esize := fld m 0 8
    let rank := fld m 8 8
    let order (o : Nat) : Prop := (∀ a, a < rank → ∃ k, k < rank ∧ o / 4 ^ k % 4 = a) ∧ o < 4 ^ rank
    let n (a : Nat) : Nat := fld m (128 + 32 * a) 32
    let p (a : Nat) : Nat := fld m (256 + 16 * a) 16
    let q (a : Nat) : Nat := fld m (320 + 16 * a) 16
    let base := fld m 384 16
    mapOk m dom me = true ↔
      (∀ b, b < 1024 → (16 ≤ b ∧ b < 24 ∨ 40 ≤ b ∧ b < 128 ∨ 400 ≤ b ∧ b < 448 ∨ 640 ≤ b) → fld m b 1 = 0) ∧
      (esize = 2 ∨ esize = 4 ∨ esize = 8 ∨ esize = 16) ∧ 1 ≤ rank ∧ rank ≤ 4 ∧ order (fld m 24 8) ∧ order (fld m 32 8) ∧
      (∀ a, a < rank → 1 ≤ n a ∧ n a ≤ 2 ^ 24 ∧ 0 < p a ∧ p a ∣ n a ∧ 0 < q a ∧ q a ∣ n a) ∧
      (∀ a, rank ≤ a → a < 4 → n a = 1 ∧ p a = 1 ∧ q a = 1) ∧ product p = product q ∧ base + product p ≤ dom ∧
      base ≤ me ∧ me < base + product p ∧ esize ∣ fld m 448 64 ∧ esize ∣ fld m 512 64 ∧ 8 ∣ fld m 576 64) ∧
  (∀ r : Nat, cmbOk r = true ↔
    (∀ b, b < 512 → (56 ≤ b ∧ b < 64 ∨ 320 ≤ b) → fld r b 1 = 0) ∧ 1 ≤ fld r 0 32 ∧ fld r 0 32 ≤ 2 ^ 20 ∧
      1 ≤ fld r 32 8 ∧ fld r 32 8 ≤ 16 ∧ fld r 40 8 ≤ 2 ∧ fld r 48 8 ≤ 2 ∧ 1 ≤ fld r 64 32 ∧ fld r 64 32 ≤ 65536 ∧
      4 ∣ fld r 96 32 ∧ fld r 64 32 * (if fld r 48 8 = 0 then 4 else 2) ≤ fld r 96 32 ∧ 4 ∣ fld r 256 64) ∧
  ∀ (r dom : Nat) (slot : List Byte), slotsOk r dom slot = true ↔
    ∀ i, i < fld r 0 32 * fld r 32 8 →
      let e := leNat ((slot.drop (16 * i)).take 16)
      fld e 16 48 = 0 ∧ (fld e 0 16 = 0xFFFF ∨ fld e 0 16 < dom ∧ (if fld r 40 8 = 0 then 4 else 2) ∣ fld e 64 64)

/-- R303, R136 (18, 07): what a reduction makes of each element: the old element and the contribution added once and rounded to
nearest even in the type's format, subnormals kept and a NaN canonical; a 32-bit integer sum that wraps; an exact contribution to
a 64-byte cell, as AT.XADD makes it. An element that meets poison keeps its bytes and is poisoned (the model's deduction, log 20). -/
def Sys2Proof.Claim.Reductions : Prop :=
  ∀ (ty : RedType) (old data : List Byte) (obad bad : List Bool) (e : Nat),
    let k : Nat := match ty with | .f16 | .bf16 => 2 | _ => 4
    let w : Nat := if ty = .xc then 64 else k
    let at_ {α : Type} (l : List α) (n : Nat) : List α := (l.drop (e * n)).take n
    let hit : Bool := (at_ obad w).contains true || (at_ bad k).contains true
    let a := leNat (at_ old w)
    let b := leNat (at_ data k)
    let env : FEnv := ⟨0, false, false, false, true⟩
    old.length = data.length / k * w → e < data.length / k →
      at_ (redAll ty old obad data bad).2 w = List.replicate w hit ∧
      (hit = true → at_ (redAll ty old obad data bad).1 w = at_ old w) ∧
      (hit = false → match ty with
        | .f32 => at_ (redAll ty old obad data bad).1 w = leBytes w (FFmt.f32.add env a b).1
        | .bf16 => at_ (redAll ty old obad data bad).1 w = leBytes w (FFmt.bf16.add env a b).1
        | .f16 => at_ (redAll ty old obad data bad).1 w = leBytes w (FFmt.f16.add env a b).1
        | .i32 => at_ (redAll ty old obad data bad).1 w = leBytes w ((a + b) % 2 ^ 32)
        | .xc => (ReqOp.xadd .f32 (BitVec.ofNat 32 b)).atomicStep (at_ old w) = (some (at_ (redAll ty old obad data bad).1 w), []))

/-- R306, R308, R310 (18): FB.ATA reads its 128-byte layout map and FB.CMB its 64-byte record with the gate and slot tables
that the record names; what the model's checks of R306 and R308 refuse faults with RECORD-INVALID. FB.ARRV faults on a peer
outside the domain and on a barrier above 15. Each then queues its operation. -/
def Sys2Proof.Claim.FabricTables : Prop :=
  ∀ (s : State) (x : View), s.view = some x →
    let full (k : Fin 8) : Prop := 255 ≤ (x.g.tag k.val).count
    let earlier := s.flying (fun r => r.grp == x.gid && r.isLG)
    (∀ w : FmtX (Fin 32) Unit Unit Unit, x.guardOn w.g = true → Numbered s w.tag w.trig →
      let a := x.g.spair (2 * w.a.val)
      ((full w.tag → exec (.fbAta w) s = .next s ∧ exec (.fbCmb w) s = .next s) ∧
      (¬ full w.tag → TableWord (.fbAta w) s x .f a 128 8 (fun bs =>
          (mapOk (leNat bs) s.domsize s.peerid = true →
            QueuesOne (.fbAta w) s x x w.q w.tag w.trig (fun k => k = .ata (leNat bs)) earlier) ∧
          (mapOk (leNat bs) s.domsize s.peerid = false → Faults (.fbAta w) s x .recordInvalid a 0 2)) ∧
        TableWord (.fbCmb w) s x .f a 64 64 (fun bs =>
          let r := leNat bs
          let n := (r % 2 ^ 32) * (r / 2 ^ 32 % 2 ^ 8)
          (cmbOk r = false → Faults (.fbCmb w) s x .recordInvalid a 0 3) ∧
          (cmbOk r = true → TableWord (.fbCmb w) s x .f (BitVec.ofNat 64 (r / 2 ^ 128)) (4 * n) 1 (fun gate =>
            TableWord (.fbCmb w) s x .f (BitVec.ofNat 64 (r / 2 ^ 192)) (16 * n) 1 (fun slot =>
              (slotsOk r s.domsize slot = true →
                QueuesOne (.fbCmb w) s x x w.q w.tag w.trig (fun k => k = .cmb r gate slot) earlier) ∧
              (slotsOk r s.domsize slot = false → Faults (.fbCmb w) s x .recordInvalid a 0 3)))))))) ∧
    (∀ w : FmtX USrc USrc USrc Unit, x.guardOn w.g = true → Numbered s w.tag w.trig →
      let y := x.sample (USrc.isClk w.a || USrc.isClk w.b || USrc.isClk w.cc)
      let p := (y.uni w.a).toNat
      let b := (y.uni w.cc).toNat
      (full w.tag → exec (.fbArrv w) s = .next s) ∧
      (¬ full w.tag → s.domsize ≤ p → Faults (.fbArrv w) s x .fabric 0 0 0x7F) ∧
      (¬ full w.tag → p < s.domsize → 15 < b → Faults (.fbArrv w) s x .illegalOperand 0 0 0) ∧
      (¬ full w.tag → p < s.domsize → b ≤ 15 →
        QueuesOne (.fbArrv w) s x y w.q w.tag w.trig (fun k => k = .fbArrive p (y.uni w.b) b) []))

/-- R271 to R275 (14): the words of CP. -/
def Obligations.CopyWords : Prop := Claim.LaneAndBulkCopies ∧ Claim.Multicast

/-- R290 to R299 (18): the words of MX and AX. -/
def Obligations.MatrixWords : Prop := Claim.MultiplyWords ∧ Claim.AccumulatorWords

/-- R300 to R310 (18): the words of FB, and which of their records are valid. -/
def Obligations.FabricWords : Prop := Claim.FabricLanes ∧ Claim.Records ∧ Claim.FabricTables

/-! ## BR and SY (10 R178 to R193; 06 R107, R111 to R115) -/

/-- A word that transfers control: the path goes on at an address with no chain, latch or table left. -/
def Sys2Proof.Machine.Jumps (x : View) (q : Bool) (a : DWord) (p : Path) : Prop :=
  p.pc = a ∧ p.branch = some x.p.pc ∧ p.chain = [] ∧ p.pos = 0 ∧ p.latches = [] ∧ p.tables = [] ∧ p = x.p.jump q a

/-- R178, R179, R182, R185, R186 (10): the uniform branches. BRA goes to the word's address plus 8 × TGT24, JOIN to the
innermost pending join, CALL saves the next word's address in s62:s63, RET goes to a pair's address, BRX past the end of its
table or by its entry; computed targets that are not multiples of 8 fault at the branch. -/
def Sys2Proof.Claim.UniformBranches : Prop :=
  ∀ (s : State) (x : View), s.view = some x →
    (∀ w : FmtB, x.guardOn w.g = true →
      let target : DWord := BitVec.ofInt 64 (x.p.pc.toNat + 8 * w.tgt.toInt)
      Completes (.brBra w) s x (fun g p => g = x.g ∧ Jumps x w.q target p) ∧
      (∀ j, x.g.joinOf x.p = some j → Completes (.brJoin w) s x (fun g p => g = x.g ∧ Jumps x w.q j p)) ∧
      (x.g.joinOf x.p = none → Completes (.brJoin w) s x (fun g p => g = x.g ∧ p = x.p.retire w.q .none)) ∧
      Completes (.brCall w) s x (fun g p => x.g.Keeps g { Written.none with s := fun n => n = 62 ∨ n = 63 } ∧
        g.spair 62 = x.p.pc + (if w.q then 16 else 8) ∧ Jumps x w.q target p)) ∧
    (∀ w : FmtA Unit (Fin 32) Unit Unit Unit, x.guardOn w.g = true →
      let a := x.g.spair (2 * w.a.val)
      (a.toNat % 8 ≠ 0 → Faults (.brRet w) s x .misaligned a 0 0) ∧
      (a.toNat % 8 = 0 → Completes (.brRet w) s x (fun g p => g = x.g ∧ Jumps x w.q a p))) ∧
    (∀ w : FmtA Unit USrc (Fin 32) USrc Unit, x.guardOn w.g = true → s.NumbersFresh →
      let y := x.sample (USrc.isClk w.a || USrc.isClk w.cc)
      let a := (y.uni w.a).toNat
      let tab := x.g.spair (2 * w.b.val)
      ((y.uni w.cc).toNat ≤ a → Completes (.brBrx w) s x (fun g p => g = y.g ∧ p = x.p.retire w.q .none)) ∧
      (a < (y.uni w.cc).toNat → tab.toNat % 4 ≠ 0 → Faults (.brBrx w) s x .misaligned tab 0 0) ∧
      (a < (y.uni w.cc).toNat → tab.toNat % 4 = 0 →
        let at_ : DWord := BitVec.ofNat 64 (tab.toNat + 4 * a)
        TableWord (.brBrx w) s x .l at_ 4 4 (fun bs =>
          let n := leNat bs
          let off : Int := if n < 2 ^ 31 then (n : Int) else (n : Int) - 2 ^ 32
          Completes (.brBrx w) s x (fun g p => g = y.g ∧ Jumps x w.q (BitVec.ofInt 64 (x.p.pc.toNat + 8 * off)) p))))

/-- R107 (06), R114, R180 (10): BR.BRV. With no taken lane the path goes on; with JOIN16 0, or every lane taken, it branches
whole. Otherwise each live lane goes to the target or to the next word: in a slice whose lanes agree its path goes on with
those that agree; an undivided slice whose lanes disagree becomes two paths with a record of its join; a path that is already
an arm runs the direction of the lower lane first and pushes the other. Where whole slices part from whole slices, the
direction of fewer slices takes a fresh key. A taken direction keeps the branch's address, for a fetch that fails (R178). -/
def Sys2Proof.Claim.LaneBranch : Prop :=
  ∀ (s : State) (x : View) (w : FmtB), s.view = some x → (∀ e ∈ s.paths, e.1 < s.nextId) →
    let T := x.active w.g &&& lowLanes x.w
    let F := x.p.mask &&& ~~~ x.g.exited &&& ~~~ T
    let target : DWord := BitVec.ofInt 64 (x.p.pc.toNat + 8 * w.tgt.toInt)
    let next : DWord := x.p.pc + (if w.q then 16 else 8)
    let join : DWord := BitVec.ofNat 64 (x.p.pc.toNat + 8 * w.join.toNat)
    let has (m : Lanes) (j : Nat) : Prop := ∃ l, l / 4 = j ∧ hasLane m l = true
    let arm : Prop := x.p.frames ≠ [] ∨ ∃ j r, (∀ k, k < 16 → (k = j ↔ has x.p.mask k)) ∧ SMap.find? x.g.tops j = some r
    (T = 0 → Completes (.brBrv w) s x (fun g p => g = x.g ∧ p = x.p.retire w.q .none)) ∧
    (T ≠ 0 → w.join = 0 ∨ F = 0 → Completes (.brBrv w) s x (fun g p => g = x.g ∧ Jumps x w.q target p)) ∧
    (T ≠ 0 → w.join ≠ 0 → F ≠ 0 → arm → Completes (.brBrv w) s x (fun g p => ∃ low, low = decide (lowestLane T < lowestLane F) ∧
      g = x.g ∧ p.pc = (if low then target else next) ∧ p.mask = (if low then T else F) ∧ p.exec = x.p.exec &&& p.mask ∧
      p.fmt = x.p.fmt ∧ p.fstat = x.p.fstat ∧ p.branch = (if low then some x.p.pc else none) ∧
      ∃ f, p.frames = f :: x.p.frames ∧ f.join = join ∧ f.fmt = x.p.fmt ∧
        f.pend = [⟨if low then next else target, if low then F else T, x.p.exec &&& (if low then F else T), x.p.fmt,
          x.p.fstat, 0, if low then none else some x.p.pc⟩] ∧ f.arrMask = 0)) ∧
    (T ≠ 0 → w.join ≠ 0 → F ≠ 0 → ¬ arm → Goes (.brBrv w) s (fun t =>
      (∀ l, hasLane x.p.mask l = true → hasLane x.g.exited l = false → ∃ n p, SMap.find? t.paths n = some p ∧
        (n = x.pid ∨ s.nextId ≤ n) ∧ p.grp = x.gid ∧ hasLane p.mask l = true ∧ p.pc = (if hasLane T l then target else next) ∧
        hasLane p.exec l = hasLane x.p.exec l ∧ p.fmt = x.p.fmt ∧ p.fstat = x.p.fstat ∧ p.frames = [] ∧ p.chain = []) ∧
      (∀ n, n ≠ x.pid → n < s.nextId → SMap.find? t.paths n = SMap.find? s.paths n) ∧
      t.mem = s.mem ∧ t.host = s.host ∧ t.reqs = s.reqs ∧ t.ops = s.ops ∧ t.teams = s.teams ∧
      ∃ g e, SMap.find? t.groups x.gid = some g ∧ SMap.find? t.entries x.eid = some e ∧
        g = { x.g with tops := g.tops, keys := g.keys } ∧ e = { x.e with keyCtr := e.keyCtr } ∧
        (∀ j, j < 16 → SMap.find? g.tops j = if hasLane T (4 * j) || hasLane T (4 * j + 1) || hasLane T (4 * j + 2) ||
            hasLane T (4 * j + 3) then (if F &&& sliceLanes j ≠ 0 then some ⟨join, x.p.fmt, 0, 0, 0⟩ else SMap.find? x.g.tops j)
          else SMap.find? x.g.tops j) ∧
        let take := (List.range 16).filter (fun j => decide (T &&& sliceLanes j ≠ 0) && decide (F &&& sliceLanes j = 0))
        let stay := (List.range 16).filter (fun j => decide (T &&& sliceLanes j = 0) && decide (F &&& sliceLanes j ≠ 0))
        let k := SMap.getD x.e.keyCtr x.g.core 1
        let fresh : Prop := target ≠ next ∧ take ≠ [] ∧ stay ≠ []
        (fresh → SMap.getD e.keyCtr x.g.core 1 = (if k = 65535 then 1 else k + 1) ∧
          ∀ j, g.key j = if j ∈ (if take.length ≤ stay.length then take else stay) then k else x.g.key j) ∧
        (¬ fresh → e.keyCtr = x.e.keyCtr ∧ ∀ j, g.key j = x.g.key j)))

/-- R114, R181 (10): a path that stops at the join of its last serial split runs the pushed direction next, and after the last
one goes on at the join with the lanes and EXEC of both, the split's FMT and both FSTATs ORed; the two arms of a slice that
both wait at its join go on as one path likewise. -/
def Sys2Proof.Claim.Joins : Prop :=
  (∀ (p : Path) (live : Lanes) (f : Frame) (fs : List Frame),
    let m := f.arrMask ||| live
    let e := f.arrExec ||| (p.exec &&& live)
    let st := f.arrFstat ||| p.fstat
    let q := p.stopDirection live f fs
    (∀ d ds, f.pend = d :: ds → q.pc = d.pc ∧ q.mask = d.mask ∧ q.exec = d.exec ∧ q.fmt = d.fmt ∧ q.fstat = d.fstat ∧
      q.branch = d.branch ∧ q.entry = d.entry ∧ q.frames = { f with pend := ds, arrMask := m, arrExec := e, arrFstat := st } :: fs) ∧
    (f.pend = [] → q.pc = f.join ∧ q.mask = m ∧ q.exec = e ∧ q.fmt = f.fmt ∧ q.fstat = st ∧ q.frames = fs)) ∧
  ∀ (s : State) (grp j m n : Nat) (g : Group) (r : TopRec) (a b : Path), SMap.find? s.groups grp = some g →
    SMap.find? g.tops j = some r → s.armsAt grp j = [(m, a), (n, b)] → m ≠ n → SMap.find? s.paths m = some a →
    let t := s.mergeTop grp j
    (a.wait = .join → b.wait = .join → ∃ p g', SMap.find? t.paths m = some p ∧ SMap.find? t.paths n = none ∧
      p.pc = r.join ∧ p.mask = a.mask ||| b.mask ||| r.arrMask ∧ p.exec = a.exec ||| b.exec ||| r.arrExec ∧ p.fmt = r.fmt ∧
      p.fstat = a.fstat ||| b.fstat ||| r.arrFstat ∧ p.frames = a.frames ∧ p.wait = .none ∧
      SMap.find? t.groups grp = some g' ∧ SMap.find? g'.tops j = none) ∧
    (a.wait ≠ .join ∨ b.wait ≠ .join → t = s)

/-- Slice j of a group stands at the regang word `a`: every path with unexited lanes of it waits there. -/
def Sys2Proof.Machine.StandsAt (s : State) (grp : Nat) (g : Group) (j : Nat) (a : DWord) : Prop :=
  (∃ e ∈ s.paths, e.2.grp = grp ∧ e.2.mask &&& ~~~ g.exited &&& sliceLanes j ≠ 0) ∧
  ∀ e ∈ s.paths, e.2.grp = grp → e.2.mask &&& ~~~ g.exited &&& sliceLanes j ≠ 0 → ∃ n, e.2.wait = .regang n a
/-- Slice j names slice k. -/
def Sys2Proof.Machine.NamesSlice (s : State) (grp : Nat) (g : Group) (j k : Nat) : Prop :=
  ∃ e ∈ s.paths, e.2.grp = grp ∧ e.2.mask &&& ~~~ g.exited &&& sliceLanes j ≠ 0 ∧ ∃ n a, e.2.wait = .regang n a ∧ n.testBit k = true
/-- Slice j is in the largest set of slices at `a` that names no unexited slice outside it (R183). -/
def Sys2Proof.Machine.Released (s : State) (grp : Nat) (g : Group) (j : Nat) (a : DWord) : Prop :=
  ∃ S : Nat → Prop, S j ∧ ∀ i, S i → i < 16 ∧ StandsAt s grp g i a ∧ ∀ k, k < 16 → NamesSlice s grp g i k →
    (∃ e ∈ s.paths, e.2.grp = grp ∧ e.2.mask &&& ~~~ g.exited &&& sliceLanes k ≠ 0) → S k

/-- R183, R184 (10), R107, R113 (06): BR.REGANG puts its path to wait at the word. The group then releases, at each regang
word, the largest set of slices there that names no slice outside: they go on, with the lowest key among them. Where no slice is divided, each of
them takes the FMT of the path with the lowest lane and the OR of their FSTATs, with FMTX where an FMT differed; the two arms of a
slice released alone go on as one path, with the FMT of the arm that holds its lowest lane (that FMTX is not set there is the model's
choice, log 51), and a lone arm as it is; the slice's join stays pending while lanes wait there. Where none can go on and every unexited slice waits at a regang word or a join, the launch faults with REJOIN-CYCLE
at the word of the lowest-numbered slice; else nothing moves. -/
def Sys2Proof.Claim.Regang : Prop :=
  (∀ (s : State) (x : View) (w : FmtA Unit USrc Unit Unit Unit), s.view = some x → x.guardOn w.g = true →
    let y := x.sample (USrc.isClk w.a)
    let names := (y.uni w.a).toNat % 2 ^ (x.w / 4)
    exec (.brRegang w) s = .next (State.regangCheck
      ({ y with p := { x.p.retire w.q .none with wait := .regang names x.p.pc } } : View).commit x.gid)) ∧
  ∀ (s : State) (grp : Nat) (g : Group), SMap.find? s.groups grp = some g → (s.paths.map (·.1)).Nodup →
    (∀ j, g.key j ≤ 65535) →
    let t := s.regangCheck grp
    (∀ j a, Released s grp g j a →
      (∀ e ∈ s.paths, e.2.grp = grp → ∀ l, l / 4 = j → hasLane e.2.mask l = true → hasLane g.exited l = false →
        ∃ n p, SMap.find? t.paths n = some p ∧ p.grp = grp ∧ hasLane p.mask l = true ∧ p.wait = .none ∧
          ∃ d ∈ s.paths, d.2.grp = grp ∧ (∃ k, d.2.wait = .regang k a) ∧ p.pc = d.2.pc) ∧
      ∃ g', SMap.find? t.groups grp = some g' ∧ (∀ i, Released s grp g i a → g'.key j ≤ g.key i) ∧
        ∃ i, Released s grp g i a ∧ g'.key j = g.key i) ∧
    (let holds (p : Path) (j : Nat) : Prop := p.grp = grp ∧ p.mask &&& ~~~ g.exited &&& sliceLanes j ≠ 0
      let low (p : Path) : Nat := lowestLane (p.mask &&& ~~~ g.exited)
      (SMap.rising s.paths = true → (∀ j, SMap.find? g.tops j = none) →
        (∀ e ∈ s.paths, ∀ d ∈ s.paths, ∀ k, k < 16 → holds e.2 k → holds d.2 k → e.1 = d.1) →
        ∀ j a, Released s grp g j a → ∀ n p l, SMap.find? t.paths n = some p → p.grp = grp → l / 4 = j → hasLane p.mask l = true →
          hasLane g.exited l = false →
          let met (d : Path) : Prop := ∃ i, Released s grp g i a ∧ holds d i
          (∃ d ∈ s.paths, met d.2 ∧ p.fmt = d.2.fmt ∧ ∀ e ∈ s.paths, met e.2 → low d.2 ≤ low e.2) ∧
          (∀ b, b ≠ 6 → (p.fstat.getLsbD b = true ↔ ∃ d ∈ s.paths, met d.2 ∧ d.2.fstat.getLsbD b = true)) ∧
          (p.fstat.getLsbD 6 = true ↔ ∃ d ∈ s.paths, met d.2 ∧ (d.2.fstat.getLsbD 6 = true ∨ d.2.fmt ≠ p.fmt))) ∧
      (∀ j a m n p q r, SMap.rising s.paths = true → (∀ i, Released s grp g i a ↔ i = j) → SMap.find? g.tops j = some r →
        SMap.find? s.paths m = some p → SMap.find? s.paths n = some q → m ≠ n → low p < low q → p.frames = [] → q.frames = [] →
        (∀ i, i < 16 → (holds p i ↔ i = j) ∧ (holds q i ↔ i = j)) →
        (∀ e ∈ s.paths, holds e.2 j → e.1 = m ∨ e.1 = n) →
        SMap.find? t.paths n = none ∧ ∃ k, SMap.find? t.paths m = some k ∧ k.mask = p.mask ||| q.mask ∧
          k.exec = p.exec ||| q.exec ∧ k.fmt = p.fmt ∧ k.fstat = p.fstat ||| q.fstat ∧ k.pc = p.pc ∧ k.wait = .none ∧
          ∃ g', SMap.find? t.groups grp = some g' ∧
            SMap.find? g'.tops j = if r.arrMask &&& ~~~ g.exited = 0 then none else some r) ∧
      (∀ j a m p, SMap.rising s.paths = true → (∀ i, Released s grp g i a ↔ i = j) → SMap.find? s.paths m = some p →
        (∀ i, i < 16 → (holds p i ↔ i = j)) → (∀ e ∈ s.paths, holds e.2 j → e.1 = m) →
        SMap.find? t.paths m = some { p with wait := .none } ∧
          ∃ g', SMap.find? t.groups grp = some g' ∧ SMap.find? g'.tops j = SMap.find? g.tops j)) ∧
    ((∀ j a, ¬ Released s grp g j a) →
      let waits (p : Path) : Prop := p.wait = .join ∨ ∃ n a, p.wait = .regang n a
      let live (p : Path) : Prop := p.grp = grp ∧ p.mask &&& ~~~ g.exited ≠ 0
      ((∃ e ∈ s.paths, live e.2 ∧ ¬ waits e.2) → t = s) ∧
      ((∀ e ∈ s.paths, live e.2 → waits e.2) → (∃ e ∈ s.paths, live e.2 ∧ e.2.wait ≠ .join) →
        ∃ e ∈ s.paths, live e.2 ∧ ∃ n a, e.2.wait = .regang n a ∧
          (∃ j, j < 16 ∧ e.2.mask &&& ~~~ g.exited &&& sliceLanes j ≠ 0 ∧ ∀ d ∈ s.paths, live d.2 → d.2.wait ≠ .join → ∀ k, k < 16 →
            d.2.mask &&& ~~~ g.exited &&& sliceLanes k ≠ 0 → j ≤ k) ∧
          ∀ x, s.viewOf e.1 = some x → t = ({ x with p := { x.p with pc := a } } : View).raise .rejoinCycle 0 0 0))

/-- R187 (10): BR.CALLV with its table entries read, under a guard that holds (under a uniform guard that does not hold it writes
nothing, by 08 R141: log 67). It writes the return point; with no active lane it goes on. Where its target words lie in derived
tiles that are not VALID, or are reached through such bytes, it is held (02 R49). A target that
is no multiple of 8 faults, naming the lanes that have one. Otherwise each active lane's path, or its pushed direction, is at
its target with the table entry of a lane that calls the same target, the lowest active lane's running at once; every other
lane is at the return point or waits there. -/
def Obligations.LaneCall : Prop :=
  ∀ (s : State) (x : View) (w : FmtA (Fin 32) CallSrc Unit Unit Unit), s.view = some x → (∀ e ∈ s.paths, e.1 < s.nextId) →
    x.guardOn w.g = true →
    let m := x.active w.g
    let ret : DWord := x.p.pc + (if w.q then 16 else 8)
    let entry (l : Nat) : DWord := x.callAddr w.a l
    let as := (lanesBelow x.w m).map (fun l => (l, entry l))
    let wrote (g : Group) : Prop :=
      x.g.Keeps { g with tops := x.g.tops } { Written.none with s := fun n => n = 2 * w.d.val ∨ n = 2 * w.d.val + 1 } ∧
        g.spair (2 * w.d.val) = ret
    ((∀ l, ¬ x.writes m l) → Completes (.brCallv w) s x (fun g p => wrote g ∧ p = x.p.retire w.q .none)) ∧
    ((∃ l, x.writes m l) → Checks (.brCallv w) s x 8 .read false false (fun _ => false) as ∧
      ∀ tgt : Nat → DWord, Allowed x 8 .read false (fun _ => false) as →
        (∀ l, x.writes m l → ∃ t, x.p.table (entry l) 8 = some t ∧ t.left = [] ∧ t.bad = [] ∧
          tgt l = BitVec.ofNat 64 (leNat ((List.range 8).map (fun k => SMap.getD t.data k 0)))) →
        (∀ l, x.writes m l → (tgt l).toNat % 8 ≠ 0 → ∃ a k, (∀ i, i < 64 → (hasLane k i = true ↔
          x.writes m i ∧ (tgt i).toNat % 8 ≠ 0)) ∧ Faults (.brCallv w) s x .misaligned a k 0) ∧
        ((∀ l, x.writes m l → (tgt l).toNat % 8 = 0) → (∀ l, x.writes m l → x.peekWalk (tgt l) = none ∧ ∀ pa, x.peekAt (tgt l) = some pa → s.notValid pa 8 = []) →
          Goes (.brCallv w) s (fun t =>
          (∃ g, SMap.find? t.groups x.gid = some g ∧ wrote g) ∧
          (∀ n, n ≠ x.pid → n < s.nextId → SMap.find? t.paths n = SMap.find? s.paths n) ∧
          t.mem = s.mem ∧ t.host = s.host ∧ t.reqs = s.reqs ∧ t.ops = s.ops ∧ t.teams = s.teams ∧
          (∀ l, x.writes m l → ∃ n p k, SMap.find? t.paths n = some p ∧ (n = x.pid ∨ s.nextId ≤ n) ∧ x.writes m k ∧
            tgt k = tgt l ∧
            ((hasLane p.mask l = true ∧ hasLane p.exec l = true ∧ p.pc = tgt l ∧ p.entry = entry k ∧
              p.branch = some x.p.pc) ∨
              ((∃ i, i < l ∧ x.writes m i) ∧ ∃ f fs d, p.frames = f :: fs ∧ d ∈ f.pend ∧ f.join = ret ∧
                hasLane d.mask l = true ∧ hasLane d.exec l = true ∧ d.pc = tgt l ∧ d.entry = entry k ∧
                d.branch = some x.p.pc))) ∧
          ∀ l, hasLane x.p.mask l = true → hasLane x.g.exited l = false → ¬ x.writes m l →
            ∃ n p, SMap.find? t.paths n = some p ∧ (n = x.pid ∨ s.nextId ≤ n) ∧
              ((hasLane p.mask l = true ∧ p.pc = ret) ∨
                (∃ f fs, p.frames = f :: fs ∧ f.join = ret ∧ hasLane f.arrMask l = true) ∨
                ∃ g r, SMap.find? t.groups x.gid = some g ∧ SMap.find? g.tops (l / 4) = some r ∧ r.join = ret ∧
                  hasLane r.arrMask l = true))))

/-- R188, R189, R190, R193 (10), R116 (06): SY.NOP and SY.YIELD only go on. SY.EXIT takes the active lanes out of the group
and of every EXEC. SY.SLEEP waits for its number of cycles. SY.BKPT only goes on without the function's debug enable; with it
the event is posted and a full save of the team is asked for. SY.HALT takes every lane of the team out, of a group within a chain
once the chain is done, and gives up a save. -/
def Sys2Proof.Claim.GroupWords : Prop :=
  ∀ (s : State) (x : View), s.view = some x →
    (∀ w : FmtS Unit Unit Unit,
      Completes (.syNop w) s x (fun g p => g = x.g ∧ p = x.p.retire w.q .none) ∧
      Completes (.syYield w) s x (fun g p => g = x.g ∧ p = x.p.retire w.q .none) ∧
      ((∀ l, ¬ x.writes (x.active w.g) l) → Completes (.syExit w) s x (fun g p => g = x.g ∧ p = x.p.retire w.q .none)) ∧
      ((∃ l, x.writes (x.active w.g) l) → Goes (.syExit w) s (fun t => ∃ g, SMap.find? t.groups x.gid = some g ∧
        (∀ l, hasLane g.exited l = true ↔ hasLane x.g.exited l = true ∨ x.writes (x.active w.g) l) ∧
        (∀ e ∈ t.paths, e.2.grp = x.gid → ∀ l, x.writes (x.active w.g) l → hasLane e.2.exec l = false) ∧
        t.mem = s.mem ∧ t.host = s.host ∧ t.reqs = s.reqs ∧ t.ops = s.ops ∧ t.teams = s.teams)) ∧
      (x.guardOn w.g = true →
        ((s.fn x.e.fn).debug = false → Completes (.syBkpt w) s x (fun g p => g = x.g ∧ p = x.p.retire w.q .none)) ∧
        ((s.fn x.e.fn).debug = true → x.t.place = .resident → x.t.halted = false → Goes (.syBkpt w) s (fun t =>
          (∃ u, SMap.find? t.teams x.tid = some u ∧ u.debug = true ∧ u.save = some ⟨s.cycle, true, true, true⟩) ∧
          t.fn x.e.fn = { s.fn x.e.fn with dbgPc := x.p.pc, dbgTeam := x.t.handle, dbgValid := true, dbgId := x.tid } ∧
          t.mem = s.mem ∧ t.reqs = s.reqs ∧ ∃ g p, Ends x t g p ∧ g = x.g ∧
            p = { x.p.retire w.q .none with safe := p.safe } ∧ ∀ n r h, SMap.find? t.paths n = some r →
              SMap.find? s.groups r.grp = some h → h.team = x.tid → r.safe = none)) ∧
        Goes (.syHalt w) s (fun t => (∃ u, SMap.find? t.teams x.tid = some u ∧ u.halted = true ∧ u.save = none ∧ u.debug = false) ∧
          (∀ n g, SMap.find? s.groups n = some g → g.team = x.tid → ∃ h, SMap.find? t.groups n = some h ∧
            (h.halted = true ∨ h.exited = BitVec.allOnes 64)) ∧ t.mem = s.mem ∧ t.host = s.host ∧ t.reqs = s.reqs ∧ t.ops = s.ops))) ∧
    (∀ w : FmtS Unit USrc Unit, x.guardOn w.g = true →
      let y := x.sample (USrc.isClk w.a)
      let a := (y.uni w.a).toNat
      Completes (.sySleep w) s x (fun g p => g = y.g ∧
        p = if a = 0 then x.p.retire w.q .none else { x.p.retire w.q .none with wait := .sleep (s.cycle + a) }))

/-- R111 to R113 (06), R188 (10): SY.GETS and SY.SETS read and write the path's FSTAT, SY.SFMT its FMT, SY.GETX and SY.SETX its
EXEC; a value with bits beyond the field faults, and EXEC takes no lane that is outside the path or has exited. -/
def Sys2Proof.Claim.PathState : Prop :=
  ∀ (s : State) (x : View), s.view = some x →
    (∀ w : FmtS (Fin 64) Unit Unit, x.guardOn w.g = true → Completes (.syGets w) s x (fun g p =>
      x.g.Keeps g { Written.none with s := fun n => n = w.d.val } ∧ (g.sreg w.d.val).toNat = x.p.fstat.toNat ∧
        p = x.p.retire w.q .none)) ∧
    (∀ w : FmtS Unit USrc Unit, x.guardOn w.g = true →
      let y := x.sample (USrc.isClk w.a)
      let a := (y.uni w.a).toNat
      (a < 2 ^ 7 → Completes (.sySets w) s x (fun g p => g = y.g ∧ p.fstat.toNat = a ∧
        p = { x.p.retire w.q .none with fstat := p.fstat })) ∧
      (2 ^ 7 ≤ a → Faults (.sySets w) s x .illegalOperand 0 0 0) ∧
      (a < 2 ^ 6 → Completes (.sySfmt w) s x (fun g p => g = y.g ∧ p.fmt.toNat = a ∧
        p = { x.p.retire w.q .none with fmt := p.fmt })) ∧
      (2 ^ 6 ≤ a → Faults (.sySfmt w) s x .illegalOperand 0 0 0)) ∧
    (∀ w : FmtS Unit USrc64 Unit, x.guardOn w.g = true → Completes (.sySetx w) s x (fun g p => g = x.g ∧
      (∀ l, hasLane p.exec l = true ↔ hasLane (x.uni64 w.a) l = true ∧ hasLane x.p.mask l = true ∧
        hasLane x.g.exited l = false ∧ l < x.w) ∧ p = { x.p.retire w.q .none with exec := p.exec })) ∧
    (∀ w : FmtS (Fin 32) Unit Unit, x.guardOn w.g = true → ∃ r : DWord,
      (∀ l, l < 64 → (r.getLsbD l = true ↔ hasLane x.p.exec l = true ∧ l < x.w)) ∧
        Completes (.syGetx w) s x (PairResult x w.d w.q r))

/-- R115 (06), R191, R192 (10): SY.TRAP with an active lane enters the launch's handler: TRAPCODE is 0x10 under the bind code
and 0x11 otherwise, TRAPPC the word's address, TRAPARG its operand, BINDLO and BINDHI the path's call-table entry under the bind code
and 0 otherwise (as R115 says; R191's listing differs, and the choice is the model's, log 59), and the path goes on at the handler with its lanes, EXEC, FMT and FSTAT. It waits while another path of the group is
in the handler or its team is being saved (23 R357), and then enters without another test of its guard; without a handler, or within
it, the launch faults. SY.TRET returns: to the word after TRAPPC, or to a pair's address; it clears the
saved values, faults outside the handler, and puts the group's later L accesses behind the path's earlier ones. -/
def Obligations.Traps : Prop :=
  ∀ (s : State) (x : View), s.view = some x →
    (∀ w : FmtS Unit USrc Bool,
      let y := x.sample (USrc.isClk w.a)
      let arg := y.uni w.a
      let alone : Prop := x.e.body.trappc = 0 ∨ x.p.inHandler = true
      let busy : Prop := x.t.save ≠ none ∨ ∃ e ∈ s.paths, e.2.grp = x.gid ∧ e.1 ≠ x.pid ∧ e.2.inHandler = true
      let enters (bind : Bool) (a : Word) (p : Path) : Prop := p.trapCode = (if bind then 0x10 else 0x11) ∧
        p.trapPc = x.p.pc ∧ p.trapArg = a ∧ p.bindAddr = (if bind then x.p.entry else 0) ∧ p.inHandler = true ∧
        p.pc = x.e.body.trappc ∧ p.chain = [] ∧ p.mask = x.p.mask ∧ p.exec = x.p.exec ∧ p.fmt = x.p.fmt ∧ p.fstat = x.p.fstat ∧
        p.frames = x.p.frames ∧ p.wait = .none ∧ p.trapQ = w.q
      let tries (bind : Bool) (a : Word) (h : Group) : Prop :=
        (alone → Faults (.syTrap w) s x (if bind then .bind else .userTrap) 0 0 a.toNat) ∧
        (¬ alone → busy → Completes (.syTrap w) s x (fun g p => g = h ∧
          p = { x.p with wait := .handler bind a x.p.pc, trapQ := w.q, pos := 0, latches := [] })) ∧
        (¬ alone → ¬ busy → Completes (.syTrap w) s x (fun g p => g = h ∧ enters bind a p))
      ((∀ l, ¬ x.writes (x.active w.g) l) → (∀ b a c, x.p.wait ≠ .handler b a c) → Completes (.syTrap w) s x (fun g p => g = x.g ∧ p = x.p.retire w.q .none)) ∧
      ((∃ l, x.writes (x.active w.g) l) → (∀ b a c, x.p.wait ≠ .handler b a c) →
        tries w.sarg arg y.g) ∧
      (∀ b a c, x.p.wait = .handler b a c → tries b a x.g)) ∧
    (∀ w : FmtS Unit RetSrc Unit, x.guardOn w.g = true →
      let pc : DWord := match w.a with
        | .next => x.p.trapPc + (if x.p.trapQ then 16 else 8)
        | .s n => x.g.spair (2 * n.val)
      (x.p.inHandler = false → Faults (.syTret w) s x .illegalInstruction 0 0 0) ∧
      (x.p.inHandler = true → pc.toNat % 8 ≠ 0 → Faults (.syTret w) s x .misaligned pc 0 0) ∧
      (x.p.inHandler = true → pc.toNat % 8 = 0 → Completes (.syTret w) s x (fun g p =>
        g = { x.g with xf := g.xf } ∧ ((∀ n, ¬ Earlier x n false) → g.xf = x.g.xf) ∧
        ((∃ n, Earlier x n false) → ∃ h, g.xf = x.g.xf ++ [h] ∧ (∀ n, n ∈ h.ids ↔ Earlier x n false) ∧
          h.dst = ⟨true, false, false, false, false⟩ ∧ h.fresh = true) ∧
        p.pc = pc ∧ p.inHandler = false ∧ p.trapCode = 0 ∧ p.trapPc = 0 ∧ p.trapArg = 0 ∧ p.bindAddr = 0 ∧ p.chain = [] ∧
        p.mask = x.p.mask ∧ p.exec = x.p.exec ∧ p.fmt = x.p.fmt ∧ p.fstat = x.p.fstat ∧ p.frames = x.p.frames)))

/-! ## DV and IC (02 R54 to R58; 10 R194 to R196) -/

/-- An operation that writes memory: a copy, a stamp, a packet set; not matrix work, a recompute or an arrival (13 R242). -/
def Sys2Proof.Machine.writesBytes : OpKind → Prop
  | .mma .. | .zero _ | .drain .. | .fill .. | .check .. | .warm .. | .arrive .. | .fbArrive .. => False
  | _ => True

/-- R54 to R58 (02): DV.REG reads a 64-byte record and registers it under the lowest free handle (the model's choice, log 45) once
its group's earlier writes, those of its operations among them, and the stores in flight to its derived pages have taken effect
(the stores of other groups, and the second try that this takes, are the model's reading, log 40), or faults where the model's checks
of R42 refuse it; a walk that its pages need and that meets a derived tile that is not VALID is held (R49);
DV.UNREG removes a record whose tiles have all been VALID, and else recomputes them while its group waits; DV.QRY reads a
tile's state; DV.WARM queues a recompute of tiles under a tag. A handle that the function does not have faults. -/
def Obligations.DerivationWords : Prop :=
  ∀ (s : State) (x : View), s.view = some x →
    (∀ w : FmtA (Fin 64) IntPair Unit Unit Unit, x.guardOn w.g = true → s.NumbersFresh →
      let a : DWord := match w.a with
        | .s n => x.g.spair (2 * n.val)
        | .nat n => BitVec.ofNat 64 n.val
        | .neg n => BitVec.ofInt 64 (-32 + n.val)
      TableWord (.dvReg w) s x .l a 64 64 (fun bs =>
        let d : Deriv := ⟨0, x.e.fn, x.e.ctx, leNat bs, [], [], [], []⟩
        ((d.fieldsOk = false ∨ s.captureRecord d = .error none) → Faults (.dvReg w) s x .recordInvalid a 0 1) ∧
        (d.fieldsOk = true → ∀ pte, s.captureRecord d = .error (some pte) → exec (.dvReg w) s = .next (s.startWalk pte x.e.ctx)) ∧
        (d.fieldsOk = true → ∀ c, s.captureRecord d = .ok c →
          let meets : Prop := pagesMeet c.outs c.bases = true ∨ ∃ o ∈ s.derivs, pagesMeet c.outs o.outs = true
          let cyclic : Prop := s.reaches c.bases 4096 c = true
          let deep : Prop := 4 < s.depthUp 6 c + s.depthDown 6 c
          (meets → Faults (.dvReg w) s x .recordInvalid a 0 1) ∧
          (¬ meets → cyclic → Faults (.dvReg w) s x .cyclicDerivation a 0 0) ∧
          (¬ meets → ¬ cyclic → deep → Faults (.dvReg w) s x .recordInvalid a 0 1) ∧
          (¬ meets → ¬ cyclic → ¬ deep →
            let first (n : Nat) : Prop :=
              (∃ r, (n, r) ∈ s.reqs ∧ r.value = none ∧ r.writes = true ∧
                (r.grp = x.gid ∨ (r.path = .l ∨ r.path = .g) ∧ ∃ pa, r.tgt = .dev pa ∧ inPages c.outs pa = true)) ∨
              ∃ o, (n, o) ∈ s.ops ∧ o.grp = x.gid ∧ writesBytes o.kind
            ((∃ h, h < 4096 ∧ ∀ o ∈ s.derivs, o.handle ≠ h) → (∃ n, first n) → Goes (.dvReg w) s (fun t => t.derivs = s.derivs ∧
              t.mem = s.mem ∧ ∃ p l, Ends x t x.g p ∧ p = { x.p with wait := .register l } ∧ ∀ n, n ∈ l ↔ first n)) ∧
            (∀ h, h < 4096 → (∀ k, k < h → ∃ o ∈ s.derivs, o.handle = k) → (∀ o ∈ s.derivs, o.handle ≠ h) → (∀ n, ¬ first n) →
              Goes (.dvReg w) s (fun t => t.derivs = s.derivs ++ [{ c with handle := h }] ∧ t.teams = s.teams ∧ t.host = s.host ∧
                ∃ g p, Ends x t g p ∧ x.g.Keeps g { Written.none with s := fun n => n = w.d.val } ∧
                  (g.sreg w.d.val).toNat = h ∧ p = { x.p.retire w.q .none with wait := .none, hold := p.hold } ∧
                  ∀ n r, (n, r) ∈ s.reqs → r.value = none → (∃ pa, r.tgt = .dev pa ∧ inPages (c.outs ++ c.bases) pa = true) →
                    n ∈ p.hold)) ∧
            ((∀ h, h < 4096 → ∃ o ∈ s.derivs, o.handle = h) → Completes (.dvReg w) s x (fun g p =>
              x.g.Keeps g { Written.none with s := fun n => n = w.d.val } ∧ g.sreg w.d.val = 0xFFFFFFFF ∧
                p = { x.p.retire w.q .none with wait := .none })))))) ∧
    (∀ w : FmtA (Fin 64) IntSrc Unit Unit Unit, x.guardOn w.g = true →
      (x.deriv (x.int w.a) = none → Faults (.dvUnreg w) s x .recordInvalid 0 0 1) ∧
      (∀ d, x.deriv (x.int w.a) = some d → (∀ o ∈ s.derivs, o.handle = d.handle → o = d) →
        (((∃ h, x.p.wait = .derive h []) ∨
          (x.p.wait = .none ∧ ∀ k, k < d.tiles → s.tileState d.handle k = some .valid)) → Goes (.dvUnreg w) s (fun t =>
            t.derivs = s.derivs.filter (fun o => o.handle != d.handle) ∧ (∀ e ∈ t.tiles, e.handle ≠ d.handle) ∧
            ∃ g p, Ends x t g p ∧ x.g.Keeps g { Written.none with s := fun n => n = w.d.val } ∧ g.sreg w.d.val = 0 ∧
              p = { x.p.retire w.q .none with wait := .none, hold := p.hold })) ∧
        (∀ h k ks, x.p.wait = .derive h (k :: ks) → exec (.dvUnreg w) s = .next s) ∧
        (x.p.wait = .none → (∃ k, k < d.tiles ∧ s.tileState d.handle k ≠ some .valid) → Goes (.dvUnreg w) s (fun t =>
          t.derivs = s.derivs ∧ t.mem = s.mem ∧ ∃ p left, Ends x t x.g p ∧ p = { x.p with wait := .derive d.handle left } ∧
            (∀ k, k ∈ left ↔ k < d.tiles ∧ s.tileState d.handle k ≠ some .valid) ∧
            ∀ k, k < d.tiles → s.tileState d.handle k = none → t.tileState d.handle k = some .computing)))) ∧
    (∀ w : FmtA (Fin 64) IntSrc IntSrc Unit Unit, x.guardOn w.g = true →
      (x.deriv (x.int w.a) = none → Faults (.dvQry w) s x .recordInvalid 0 0 1) ∧
      (∀ d, x.deriv (x.int w.a) = some d →
        let t := (x.int w.b).toNat
        let code : Nat := match s.tileState d.handle t with
          | some .valid => 0 | none => 1 | some .computing => 2 | some .computingStale => 3 | some .exclusive => 4
        let tries : Nat := match s.recomputes.find? (fun r => r.handle == d.handle && r.tile == t) with
          | some r => r.tries | none => 0
        Completes (.dvQry w) s x (fun g p => x.g.Keeps g { Written.none with s := fun n => n = w.d.val } ∧
          (g.sreg w.d.val).toNat = (if d.tiles ≤ t then 7 else code + 8 * tries) % 2 ^ 32 ∧ p = x.p.retire w.q .none))) ∧
    (∀ w : FmtX IntSrc IntSrc IntSrc Unit, x.guardOn w.g = true → Numbered s w.tag w.trig →
      (255 ≤ (x.g.tag w.tag.val).count → exec (.dvWarm w) s = .next s) ∧
      ((x.g.tag w.tag.val).count < 255 → (x.deriv (x.int w.a) = none → Faults (.dvWarm w) s x .recordInvalid 0 0 1) ∧
        (∀ d, x.deriv (x.int w.a) = some d → QueuesOne (.dvWarm w) s x x w.q w.tag w.trig
          (fun k => k = .warm d.handle (x.int w.b).toNat (x.int w.cc).toNat) [])))

/-- R194 to R196 (10): IC.LOCK first translates its pages, one in each step; it gives 0 where the group's core would lock more than 64 lines, fetches lines that are absent and
does not issue before they are there, and else locks them and gives 1; IC.UNLK drops the group's locks on its lines; IC.INV
takes its lines of the context out of the core's buffer. Memory and every other register stay. -/
def Obligations.InstructionCache : Prop :=
  ∀ (s : State) (x : View), s.view = some x →
    let covers (a : DWord) (b : Word) (l : Nat) : Prop := b ≠ 0 ∧ a.toNat / 256 ≤ l ∧ l ≤ (a.toNat + b.toNat - 1) / 256
    let buffer (t : State) : List CodeLine := (t.core x.g.core).code
    let mine (a : DWord) (b : Word) (l : CodeLine) : Prop := l.ctx = x.e.ctx ∧ covers a b l.line
    (∀ w : FmtA (Fin 16) (Fin 32) USrc Unit Unit, x.guardOn w.g = true →
      let y := x.sample (USrc.isClk w.b)
      let a := x.g.spair (2 * w.a.val)
      let b := y.uni w.b
      let n : Nat := if b = 0 then 0 else (a.toNat + b.toNat - 1) / 256 + 1 - a.toNat / 256
      let pages : Nat := if b = 0 then 0 else (a.toNat + b.toNat - 1) / 4096 + 1 - a.toNat / 4096
      let page : DWord := if x.p.locking = 0 then a else BitVec.ofNat 64 ((a.toNat / 4096 + x.p.locking) * 4096)
      let others := ((buffer s).filter (fun l => !l.locks.isEmpty && !(l.ctx == x.e.ctx &&
        decide (b ≠ 0) && decide (a.toNat / 256 ≤ l.line) && decide (l.line ≤ (a.toNat + b.toNat - 1) / 256)))).length
      let held (l : Nat) : Bool := (buffer s).any (fun c => c.ctx == x.e.ctx && c.line == l && !c.bytes.isEmpty)
      let absent : List (Nat × DWord) := (((List.range n).map (fun k => a.toNat / 256 + k)).filter (fun l => !held l)).map (fun l =>
        (0, if l * 256 < a.toNat then a else BitVec.ofNat 64 (l * 256)))
      (x.p.locking < pages → Checks (.icLock w) s x 1 .fetch true false (fun _ => false) [(0, page)] ∧
        (Allowed x 1 .fetch false (fun _ => false) [(0, page)] → Goes (.icLock w) s (fun t =>
          Ends x t y.g { x.p with locking := x.p.locking + 1 } ∧ Others s x t))) ∧
      (pages ≤ x.p.locking →
        (64 < others + n → Goes (.icLock w) s (fun t => ∃ g, Ends x t g (x.p.retire w.q .none) ∧ Others s x t ∧
          y.g.Keeps g { Written.none with q := fun k => k = w.d.val } ∧ g.qreg w.d.val = false ∧ t.cores = s.cores)) ∧
        (others + n ≤ 64 → absent ≠ [] → Checks (.icLock w) s x 1 .fetch true false (fun _ => false) absent ∧
          (Allowed x 1 .fetch false (fun _ => false) absent → Goes (.icLock w) s (fun t => t.paths = s.paths ∧ t.groups = s.groups ∧
            t.mem = s.mem ∧ t.cores = s.cores))) ∧
        (others + n ≤ 64 → absent = [] → Goes (.icLock w) s (fun t => ∃ g, Ends x t g (x.p.retire w.q .none) ∧
          Others s x t ∧ y.g.Keeps g { Written.none with q := fun k => k = w.d.val } ∧ g.qreg w.d.val = true ∧
          (buffer t).length = (buffer s).length ∧ ∀ (i : Nat) (c : CodeLine), (buffer s)[i]? = some c → ∃ d, (buffer t)[i]? = some d ∧
            d = { c with locks := d.locks } ∧ (mine a b c → x.gid ∈ d.locks) ∧
            ∀ k, k ≠ x.gid ∨ ¬ mine a b c → (k ∈ d.locks ↔ k ∈ c.locks))))) ∧
    (∀ w : FmtA Unit (Fin 32) USrc Unit Unit, x.guardOn w.g = true →
      let y := x.sample (USrc.isClk w.b)
      let a := x.g.spair (2 * w.a.val)
      let b := y.uni w.b
      Goes (.icUnlk w) s (fun t => Ends x t y.g (x.p.retire w.q .none) ∧ Others s x t ∧
        (buffer t).length = (buffer s).length ∧ ∀ (i : Nat) (c : CodeLine), (buffer s)[i]? = some c → ∃ d, (buffer t)[i]? = some d ∧
          d = { c with locks := d.locks } ∧ ∀ k, k ∈ d.locks ↔ k ∈ c.locks ∧ ¬ (k = x.gid ∧ mine a b c)) ∧
      Goes (.icInv w) s (fun t => t.mem = s.mem ∧ t.host = s.host ∧ t.teams = s.teams ∧ t.ops = s.ops ∧ t.reqs = s.reqs ∧
        (∃ g, Ends x t g (x.p.retire w.q .none) ∧ g = { y.g with fallback := g.fallback }) ∧
        (∀ c, c ∈ buffer t ↔ c ∈ buffer s ∧ ¬ mine a b c)))

/-- R178, R180, R186 (10): branches. -/
def Obligations.Branches : Prop := Claim.UniformBranches ∧ Claim.LaneBranch

/-- R181, R183, R184 (10), R113 (06): what ends a split. -/
def Obligations.JoinsAndRegangs : Prop := Claim.Joins ∧ Claim.Regang

/-- R188 to R190, R193 (10), R107 (06): the remaining words of SY, of groups and of path state. -/
def Obligations.GroupAndPathWords : Prop := Claim.GroupWords ∧ Claim.PathState

/-! ## Steps at the owners (01 R13 to R21, R32, R36; 02 R47 to R50; 03 R71) -/

/-- Two numbers of one source (01 R14): the sluice engines serve the requests numbered 16,384 plus the core, eight cores each (04
R73). -/
def Sys2Proof.Machine.SameSource (a b : Nat) : Prop := a = b ∨ (16384 ≤ a ∧ 16384 ≤ b ∧ (a - 16384) / 8 = (b - 16384) / 8)
/-- A request's turn at its owner (01 R14, 13 R248): it has not taken effect, everything that it follows has, and so has every
earlier request of its source and path to that owner; of an engine, every one that it served earlier (04 R73). -/
def Sys2Proof.Machine.Turn (s : State) (id : Nat) (r : Req) : Prop :=
  SMap.find? s.reqs id = some r ∧ r.value = none ∧ (16384 ≤ r.src → r.served ≠ 0) ∧ (∀ n ∈ r.after, s.done n = true) ∧
    ∀ e ∈ s.reqs, SameSource e.2.src r.src → e.2.path = r.path → ownerOf e.2.tgt = ownerOf r.tgt →
      (if 16384 ≤ r.src then e.2.served ≠ 0 ∧ e.2.served < r.served else e.1 < id) → e.2.value ≠ none
/-- A request's fault on poison reaches its launch, imprecisely, where none is recorded: alone, or with those of other lanes of
its word as one fault, whose LANES are all of them and whose ADDR is the lowest lane's (23 R349, R353). -/
def Sys2Proof.Machine.Poisoned (s t : State) (r : Req) (detail : BitVec 32) : Prop :=
  ∀ e, SMap.find? s.entries r.entry = some e → e.fault = none →
    let at_ : DWord := match r.ret with | .table _ _ off => r.va - BitVec.ofNat 64 off | _ => r.va
    ((∀ g ∈ e.faults, g.word = (r.born, r.arm) → g.pc ≠ r.pc) →
      ∃ f, SMap.find? t.entries r.entry = some { e with faults := e.faults ++ [f] } ∧ f.code = .poison ∧ f.precise = false ∧
        f.addr = at_ ∧ f.pc = r.pc ∧ f.lanes = r.named ∧ f.detail = detail) ∧
    (∀ g, e.faults = [g] → g.code = .poison → g.precise = false → g.lanes ≠ 0 → r.named ≠ 0 → g.word = (r.born, r.arm) → g.pc = r.pc →
      ∃ f, SMap.find? t.entries r.entry = some { e with faults := [f] } ∧ f.code = .poison ∧ f.precise = false ∧ f.pc = r.pc ∧
        f.lanes = g.lanes ||| r.named ∧ f.addr = if lowestLane r.named < lowestLane g.lanes then at_ else g.addr)
/-- The bytes of a memory after a write of `data` at `a`: those of the write, and every other byte as before. -/
def Sys2Proof.Machine.Wrote (m m' : Memory) (a : Nat) (data : List Byte) : Prop :=
  ∀ b, m'.byte b = if a ≤ b ∧ b < a + data.length then data.getD (b - a) 0 else m.byte b
/-- What a write to a range marks (02 R47, R51): each dependent tile that was VALID is STALE, one being recomputed is
COMPUTING-STALE, and one that holds writes stays so. -/
def Sys2Proof.Machine.Marked (s t : State) (pa n : Nat) : Prop :=
  ∀ x ∈ s.dependents pa n, match s.tileState x.1.handle x.2 with
    | some .valid => t.tileState x.1.handle x.2 = none
    | some .computing => t.tileState x.1.handle x.2 = some .computingStale
    | a => t.tileState x.1.handle x.2 = a
/-- The answer of a request stands beside it; it has not returned yet. -/
def Sys2Proof.Machine.Answered (t : State) (id : Nat) (r : Req) (data : List Byte) (bad : List Bool) : Prop :=
  ∃ k, SMap.find? t.reqs id = some { r with value := some (data, bad), doneAt := k }

/-- Some bytes of a write at `a` have landed, those at the offsets listed, and every other byte is as before. -/
def Sys2Proof.Machine.WroteSome (m m' : Memory) (a : Nat) (data : List Byte) (now : List Nat) : Prop :=
  ∀ b, m'.byte b = if a ≤ b ∧ b - a ∈ now then data.getD (b - a) 0 else m.byte b

/-- R13, R16, R36 (01), R47 to R50 (02), R71 (03), R303 (18): what a request does at its owner when its turn has come. A read takes
its bytes in one step, with their poison, and leaves memory alone; a load that fills a line of its core's load buffer reads the line's
two halves in two steps, in address order, and one that fills nothing leaves no older line behind (R245). The reads of merged lane
copies in one 64-byte half are one step (04 R74). A read of a derived tile that is not VALID is held, and the recompute of a STALE one
starts. A write changes exactly its bytes, after the tiles that depend on them are marked, the bytes of a copy or of a packet set one
part after another in any order (log 41); work of an engine and of the host leaves derived frames alone. An atomic reads and writes
its bytes in one step, not while a copy has landed in part in its 64-byte block, and gives its old value back where its form does;
poison leaves its bytes unchanged and its launch faults. A reduction does so element by element; an exact-sum cell that carries
poison is not written (R21). That a load which acquires at team scope or wider fills no line is the model's choice (log 48), and so is
that a line with a tile which is not VALID is not filled (log 40). -/
def Sys2Proof.Claim.OwnerWork : Prop :=
  ∀ (s : State) (id : Nat) (r : Req), Turn s id r → (∀ p n, r.ret ≠ .peer p n) →
    let reads (t : State) (old : List Byte × List Bool) : Prop := t.mem = s.mem ∧ t.host = s.host ∧ t.groups = s.groups ∧
      t.paths = s.paths ∧ t.teams = s.teams ∧ t.ops = s.ops ∧ t.tiles = s.tiles ∧ Answered t id r old.1 old.2
    let at_ (pa n : Nat) : List Byte × List Bool :=
      ((List.range n).map (fun i => s.mem.byte (pa + i)), (List.range n).map (fun i => s.badByte (pa + i)))
    let spoilt (r : Req) (bad : List Bool) : List Bool := if r.mesh then bad.map (fun _ => true) else bad
    let fills (pa : Nat) : Prop := r.noFill = false ∧ r.acquire = false ∧ r.mesh = false ∧ s.notValid (pa / 128 * 128) 128 = []
    let merged (q : Req) (n : Nat) : Prop := ∃ k o cs z, q.ret = .op n k ∧ SMap.find? s.ops n = some o ∧ o.kind = .lane cs z
    let part : Prop := ∃ n k o, r.ret = .op n k ∧ SMap.find? s.ops n = some o ∧ (∀ p, o.pieces[k]? = some p → p.last = false) ∧
      ((∃ cs z, o.kind = .lane cs z) ∨ (∃ a b n k i j, o.kind = .bulk a b n k i j) ∨ (∃ m ls, o.kind = .put m ls) ∨
        (∃ ls, o.kind = .get ls) ∨ (∃ m, o.kind = .ata m) ∨ ∃ m g l, o.kind = .cmb m g l)
    let beside (pa n : Nat) (l : Line) : Prop := l.line < pa / 128 ∨ (pa + n - 1) / 128 < l.line
    let passed (t : State) (pa n : Nat) : Prop := ∀ c l, l ∈ (t.core c).loads ↔ l ∈ (s.core c).loads ∧
      (c = r.src → c < 256 → r.acquire = false ∧ (r.path = .l → beside pa n l))
    let own (t : State) (pa n : Nat) : Prop := (r.path = .l ∨ r.path = .g) → r.src < 256 → ∀ l ∈ (t.core r.src).loads, beside pa n l
    let apart (pa n : Nat) : Prop := ∀ e ∈ s.reqs, e.2.value = none → e.2.part ≠ [] → ∀ a, e.2.tgt = .dev a →
      (a + e.2.op.width - 1) / 64 < pa / 64 ∨ (pa + n - 1) / 64 < a / 64
    let landing (t : State) (m m' : Memory) (a : Nat) (data : List Byte) (now : List Nat) : Prop := now.Nodup ∧
      (∀ i ∈ now, i < data.length ∧ i ∉ r.part) ∧ ((∃ i, i < data.length ∧ i ∉ r.part) → now ≠ []) ∧ WroteSome m m' a data now ∧
      if now.length + r.part.length < data.length then SMap.find? t.reqs id = some { r with part := r.part ++ now }
      else SMap.find? t.reqs id = none
    (∀ n pa, r.op = .read n → r.tgt = .dev pa → r.half = none → (∀ o, ¬ merged r o) → s.notValid pa n = [] →
      (¬ fills pa → Goes (.sliceRead id) s (fun t => reads t ((at_ pa n).1, spoilt r (at_ pa n).2) ∧ passed t pa n)) ∧
      (fills pa → Goes (.sliceRead id) s (fun t =>
        t = { s with reqs := SMap.put s.reqs id { r with half := some (at_ (pa / 128 * 128) 64) } }))) ∧
    (∀ n pa h, r.op = .read n → r.tgt = .dev pa → r.half = some h → (∀ o, ¬ merged r o) →
      (64 ≤ pa % 128 → s.notValid pa n = []) →
      let old := if pa % 128 < 64 then ((h.1.drop (pa % 128)).take n, (h.2.drop (pa % 128)).take n) else at_ pa n
      (fills pa → Goes (.sliceRead id) s (fun t => reads t old ∧
        ⟨pa / 128, h.1 ++ (at_ (pa / 128 * 128 + 64) 64).1, h.2 ++ (at_ (pa / 128 * 128 + 64) 64).2, false⟩ ∈ (t.core r.src).loads)) ∧
      (¬ fills pa → Goes (.sliceRead id) s (fun t => t.mem = s.mem ∧ t.host = s.host ∧ t.groups = s.groups ∧ t.paths = s.paths ∧
        Answered t id { r with half := none } old.1 (spoilt r old.2) ∧ passed t pa n))) ∧
    (∀ n pa o, r.op = .read n → r.tgt = .dev pa → merged r o → SMap.rising s.reqs = true →
      let mate (q : Req) (a m : Nat) : Prop := q.value = none ∧ merged q o ∧ q.op = .read m ∧ q.tgt = .dev a ∧ a / 128 = pa / 128
      let now (q : Req) (a m : Nat) : Prop := mate q a m ∧ ((∃ e ∈ s.reqs, ∃ b k, mate e.2 b k ∧ b % 128 < 64) → a % 128 < 64)
      (∀ e ∈ s.reqs, ∀ a m, now e.2 a m → e.2.half = none) →
      ((∀ e ∈ s.reqs, ∀ a m, now e.2 a m → s.notValid a m = []) → Goes (.sliceRead id) s (fun t => t.mem = s.mem ∧ t.host = s.host ∧
        ∀ e ∈ s.reqs, ∀ a m, now e.2 a m → Answered t e.1 e.2 (at_ a m).1 (spoilt e.2 (at_ a m).2))) ∧
      (∀ e ∈ s.reqs, ∀ a m, now e.2 a m → s.notValid a m ≠ [] → Goes (.sliceRead id) s (fun t => t.mem = s.mem ∧ t.reqs = s.reqs ∧
        ∀ x ∈ s.notValid a m, t.tileState x.1.handle x.2 =
          (if s.tileState x.1.handle x.2 = none then some .computing else s.tileState x.1.handle x.2)))) ∧
    (∀ n pa, r.op = .read n → r.tgt = .dev pa → (r.half = none ∨ 64 ≤ pa % 128) → (∀ o, ¬ merged r o) → s.notValid pa n ≠ [] →
      Goes (.sliceRead id) s (fun t =>
      t.mem = s.mem ∧ t.reqs = s.reqs ∧ t.groups = s.groups ∧
      ∀ x ∈ s.notValid pa n, t.tileState x.1.handle x.2 =
        (if s.tileState x.1.handle x.2 = none then some .computing else s.tileState x.1.handle x.2))) ∧
    (∀ data bad pa, r.op = .write data bad → r.tgt = .dev pa → s.writesHeld pa data.length = false →
      let refused : Prop := (r.ofEngine = true ∨ r.src = 1024) ∧ s.derivedFrame pa = true
      (¬ refused → ¬ part → Goes (.sliceWrite id) s (fun t => Wrote s.mem t.mem pa data ∧ t.host = s.host ∧ t.teams = s.teams ∧
        Marked s t pa data.length ∧ own t pa data.length ∧ SMap.find? t.reqs id = none)) ∧
      (¬ refused → part → Goes (.sliceWrite id) s (fun t => t.host = s.host ∧ t.teams = s.teams ∧
        ∃ now, landing t s.mem t.mem pa data now ∧ ∀ i ∈ now, Marked s t (pa + i) 1)) ∧
      (refused → Goes (.sliceWrite id) s (fun t => t.mem = s.mem ∧ t.tiles = s.tiles ∧ SMap.find? t.reqs id = none))) ∧
    (∀ data bad pa, r.op = .write data bad → r.tgt = .dev pa → s.writesHeld pa data.length = true →
      exec (.sliceWrite id) s = .next s) ∧
    (∀ data bad n side off u, r.op = .write data bad → r.tgt = .spad n side off → side < 2 → SMap.find? s.teams n = some u →
      Goes (.sliceWrite id) s (fun t => t.mem = s.mem ∧ t.host = s.host ∧ (¬ part → SMap.find? t.reqs id = none) ∧
        ∃ v, SMap.find? t.teams n = some v ∧ v.side (1 - side) = u.side (1 - side) ∧
          (¬ part → Wrote (u.side side).spad (v.side side).spad off data) ∧
          (part → ∃ now, landing t (u.side side).spad (v.side side).spad off data now))) ∧
    (∀ data bad ha, r.op = .write data bad → r.tgt = .host ha → Goes (.hostWriteCompletion id) s (fun t =>
      Wrote s.host t.host ha data ∧ t.mem = s.mem ∧ t.teams = s.teams ∧ SMap.find? t.reqs id = none)) ∧
    (∀ pa, r.op.modifies = true → r.tgt = .dev pa → (s.writesHeld pa r.op.width = true ∨ ¬ apart pa r.op.width) →
      exec (.sliceAtomic id) s = .next s) ∧
    (∀ pa, r.op.modifies = true → (∀ ty d b, r.op ≠ .red ty d b) → r.tgt = .dev pa → s.writesHeld pa r.op.width = false →
      apart pa r.op.width → ((r.ofEngine = false ∧ r.src ≠ 1025) ∨ s.derivedFrame pa = false) →
      let old := (List.range r.op.width).map (fun i => s.mem.byte (pa + i))
      (r.mesh = false → (∀ i, i < r.op.width → s.badByte (pa + i) = false) → Goes (.sliceAtomic id) s (fun t =>
        (match (r.op.atomicStep old).1 with
          | some d => Wrote s.mem t.mem pa d
          | none => t.mem = s.mem) ∧ t.teams = s.teams ∧ t.host = s.host ∧ own t pa r.op.width ∧
        (if r.op.returns = true ∧ r.ret ≠ .none ∧ r.ofEngine = false then
            Answered t id r (r.op.atomicStep old).2 (clean (r.op.atomicStep old).2.length)
          else SMap.find? t.reqs id = none))) ∧
      ((r.mesh = true ∨ ∃ i, i < r.op.width ∧ s.badByte (pa + i) = true) → Goes (.sliceAtomic id) s (fun t => t.mem = s.mem ∧
        t.groups = s.groups ∧ SMap.find? t.reqs id = none ∧
        Poisoned s t r (if r.mesh then 2 else if 2 ^ 45 ≤ pa then 0 else 1)))) ∧
    (∀ ty data bad pa, r.op = .red ty data bad → r.tgt = .dev pa → s.writesHeld pa r.op.width = false →
      apart pa r.op.width → ((r.ofEngine = false ∧ r.src ≠ 1025) ∨ s.derivedFrame pa = false) →
      let old := (List.range r.op.width).map (fun i => s.mem.byte (pa + i))
      let obad := (List.range r.op.width).map (fun i => s.badByte (pa + i))
      Goes (.sliceAtomic id) s (fun t => Wrote s.mem t.mem pa (redAll ty old obad data bad).1 ∧ SMap.find? t.reqs id = none ∧
        (ty = .xc → pa % 64 = 0 → ∀ k, 64 * k < r.op.width → (∃ i, i < 64 ∧ s.badByte (pa + 64 * k + i) = true) →
          ∀ i, i < 64 → t.badByte (pa + 64 * k + i) = s.badByte (pa + 64 * k + i)) ∧
        (ty = .xc → (∃ b ∈ obad, b = true) → Poisoned s t r (if r.mesh then 2 else if 2 ^ 45 ≤ pa then 0 else 1))))

/-- R73, R74 (04): a sluice engine serves the requests of its eight cores in turn, beginning after the core it served last (the first
core is the model's choice, log 55): the oldest of the first core that has one leaves the engine, with the reads or writes of its line
request; others wait. -/
def Sys2Proof.Claim.EngineTurns : Prop :=
  ∀ (s : State) (e : Nat), SMap.rising s.reqs = true → SMap.getD s.turns e 7 < 8 →
    let last := SMap.getD s.turns e 7
    let waits (c id : Nat) (r : Req) : Prop := (id, r) ∈ s.reqs ∧ r.src = 16384 + 8 * e + c ∧ r.value = none ∧ r.served = 0
    ((∀ c id r, c < 8 → ¬ waits c id r) → s.engineServe e = s) ∧
    ∀ c id r pa, c < 8 → waits c id r → r.tgt = .dev pa →
      (∀ k i q, k < 8 → waits k i q → (c + 7 - last) % 8 ≤ (k + 7 - last) % 8) → (∀ i q, waits c i q → id ≤ i) →
      let t := s.engineServe e
      let merged (q : Req) : Prop := ∃ o k j x cs z a, r.ret = .op o k ∧ q.ret = .op o j ∧ SMap.find? s.ops o = some x ∧
        x.kind = .lane cs z ∧ q.value = none ∧ q.writes = r.writes ∧ q.tgt = .dev a ∧ a / 128 = pa / 128
      t = { s with reqs := t.reqs, turns := t.turns, nextId := s.nextId + 1 } ∧ SMap.getD t.turns e 7 = c ∧
      ∀ i q, SMap.find? s.reqs i = some q → ∃ n, SMap.find? t.reqs i = some { q with served := n } ∧
        (i = id ∨ (merged q ∧ q.served = 0) → n = s.nextId) ∧ (i ≠ id → ¬ merged q → n = q.served) ∧
        (i ≠ id → q.served ≠ 0 → n = q.served)

/-- The steps of requests at their owners, the turns of the sluice engines, and what a reduction makes of each element. -/
def Obligations.OwnerSteps : Prop := Claim.OwnerWork ∧ Claim.EngineTurns ∧ Claim.Reductions

/-! ## Answers and waits that end (14 R258, 10 R188, R189, 04 R85) -/

/-- The bytes of register n of a lane that no later word has written are those of `r`; the others stay (06 R110). -/
def Sys2Proof.Machine.Lands (g h : Group) (id n l : Nat) (r : Word) : Prop :=
  ∀ i, i < 4 → (h.vreg n l).toNat / 2 ^ (8 * i) % 256 =
    (if (64 * n + l, id, i) ∈ g.later then (g.vreg n l).toNat else r.toNat) / 2 ^ (8 * i) % 256

/-- R258 (14), R110 (06), R189 (10), R36 (01): the answer of a load or an atomic reaches those bytes of its registers that no later
word has written, in the lanes that have not exited, as the image of its bytes, and nothing else of the group changes; poison writes
no register and faults the launch, imprecisely. A word's table and a line of instructions gather their bytes. The host's own read
gets its bytes. R85 (04), R188 (10): a wait at SN.MWAIT whose time has come ends with code 1 (where no later word has written its register, R110), unless a save
has stopped the path there (R277), and a sleeping path whose cycle has come goes on; nothing else changes. -/
def Obligations.AnswersAndWaits : Prop :=
  (∀ (s : State) (id : Nat) (r : Req) (data : List Byte) (bad : List Bool) (g : Group),
    SMap.find? s.reqs id = some r → r.value = some (data, bad) →
    (∀ e ∈ s.reqs, e.2.value ≠ none → SameSource e.2.src r.src → ownerOf e.2.tgt = ownerOf r.tgt → r.doneAt ≤ e.2.doneAt) →
    SMap.find? s.groups r.grp = some g →
    let bytes (z : Size) : Nat := match z with | .z8 => 1 | .s8 => 1 | .z16 => 2 | .s16 => 2 | .b32 => 4 | .b64 => 8 | .b128 => 16
    let takes (n l : Nat) : Prop := l < 64 ∧ hasLane g.exited l = false ∧ (64 * n + l, id) ∈ g.due
    let returns (w : Written) (ok : Group → Prop) : Prop := Goes (.loadReturn id) s (fun t =>
      SMap.find? t.reqs id = none ∧ t.mem = s.mem ∧ t.paths = s.paths ∧ t.teams = s.teams ∧ t.entries = s.entries ∧
      (∀ n, n ≠ r.grp → SMap.find? t.groups n = SMap.find? s.groups n) ∧
      ∃ h, SMap.find? t.groups r.grp = some h ∧ (∀ d ∈ h.due, d.2 ≠ id) ∧ (∀ d ∈ h.later, d.2.1 ≠ id) ∧
        ({ g with due := g.due.filter (fun d => d.2 != id), later := g.later.filter (fun d => d.2.1 != id) } : Group).Keeps h w ∧ ok h)
    ((∀ b ∈ bad, b = false) →
      (∀ grp parts d z, r.ret = .lanes grp parts d z → parts.Pairwise (fun p q => p.1 &&& q.1 = 0) → d + regsOf z ≤ 256 →
        (∀ p ∈ parts, p.2 + bytes z ≤ data.length) →
        returns { Written.none with v := fun n l => d ≤ n ∧ n < d + regsOf z ∧ takes n l ∧ ∃ p ∈ parts, hasLane p.1 l = true }
          (fun h => ∀ p ∈ parts, ∀ l k, hasLane p.1 l = true → k < regsOf z → takes (d + k) l →
            ∃ v, IsImage z ((data.drop p.2).take (bytes z)) k v ∧ Lands g h id (d + k) l v)) ∧
      (∀ grp d z, r.ret = .uni grp d z → data.length = bytes z → d + regsOf z ≤ 64 →
        returns { Written.none with s := fun n => d ≤ n ∧ n < d + regsOf z ∧ (65536 + n, id) ∈ g.due }
          (fun h => ∀ k, k < regsOf z → (65536 + d + k, id) ∈ g.due → IsImage z data k (h.sreg (d + k)))) ∧
      (∀ grp l d wide, r.ret = .atom grp l d wide → data.length = (if wide then 8 else 4) → l < 64 → d + 2 ≤ 256 →
        let m : Nat := if wide then 2 else 1
        returns { Written.none with v := fun n k => d ≤ n ∧ n < d + m ∧ k = l ∧ takes n l }
          (fun h => ∀ k, k < m → takes (d + k) l → Lands g h id (d + k) l (BitVec.ofNat 32 (leNat data / 2 ^ (32 * k))))) ∧
      (∀ grp n parts, r.ret = .elem grp n parts → (n = 1 ∨ n = 2 ∨ n = 4 ∨ n = 8) →
        (∀ p ∈ parts, p.1 < 64 ∧ p.2.1 + n / 8 < 256 ∧ p.2.2.1 % n = 0 ∧ p.2.2.1 < 4 ∧ p.2.2.2 + n ≤ data.length) →
        parts.Pairwise (fun p q => p.1 ≠ q.1 ∨ (p.2.1 ≠ q.2.1 ∧ p.2.1 + n / 8 ≠ q.2.1 ∧ q.2.1 + n / 8 ≠ p.2.1) ∨
          (n < 4 ∧ p.2.1 = q.2.1 ∧ p.2.2.1 ≠ q.2.2.1)) →
        returns { Written.none with v := fun d l => takes d l ∧ ∃ p ∈ parts, p.1 = l ∧ (d = p.2.1 ∨ d = p.2.1 + n / 8) }
          (fun h => ∀ p ∈ parts,
            (n < 4 → takes p.2.1 p.1 → ∀ i, i < 4 → (h.vreg p.2.1 p.1).toNat / 2 ^ (8 * i) % 256 =
              match parts.find? (fun q => q.1 == p.1 && q.2.1 == p.2.1 && decide (q.2.2.1 ≤ i) && decide (i < q.2.2.1 + n)) with
              | some q => if (64 * p.2.1 + p.1, id, i) ∈ g.later then (g.vreg p.2.1 p.1).toNat / 2 ^ (8 * i) % 256
                else (data.getD (q.2.2.2 + i - q.2.2.1) 0).toNat
              | none => (g.vreg p.2.1 p.1).toNat / 2 ^ (8 * i) % 256) ∧
            (4 ≤ n → ∀ k, k < n / 4 → takes (p.2.1 + k) p.1 →
              Lands g h id (p.2.1 + k) p.1 (BitVec.ofNat 32 (leNat ((data.drop (p.2.2.2 + 4 * k)).take 4)))))) ∧
      (∀ p k off q u, r.ret = .table p k off → SMap.find? s.paths p = some q → q.tables[k]? = some u →
        Goes (.loadReturn id) s (fun t => SMap.find? t.reqs id = none ∧ t.groups = s.groups ∧ t.mem = s.mem ∧ ∃ q' u',
          SMap.find? t.paths p = some q' ∧ q' = { q with tables := q'.tables } ∧ q'.tables[k]? = some u' ∧
          u'.left = u.left.filter (· ≠ id) ∧ ∀ n, SMap.getD u'.data n 0 =
            if off ≤ n ∧ n < off + data.length then data.getD (n - off) 0 else SMap.getD u.data n 0)) ∧
      (∀ f off u, r.ret = .line f off → SMap.find? s.fills f = some u →
        Goes (.loadReturn id) s (fun t => SMap.find? t.reqs id = none ∧ t.groups = s.groups ∧ t.paths = s.paths ∧ t.mem = s.mem ∧
          ∃ u', SMap.find? t.fills f = some u' ∧ u' = { u with got := u'.got } ∧ u'.got.left = u.got.left.filter (· ≠ id) ∧
            ∀ n, SMap.getD u'.got.data n 0 =
              if off ≤ n ∧ n < off + data.length then data.getD (n - off) 0 else SMap.getD u.got.data n 0)) ∧
      (r.ret = .host → Goes (.loadReturn id) s (fun t => t = { s with reqs := SMap.del s.reqs id, hostReply := data }))) ∧
    ((∃ b ∈ bad, b = true) →
      ((∃ grp parts d z, r.ret = .lanes grp parts d z) ∨ (∃ grp d z, r.ret = .uni grp d z) ∨
        (∃ grp l d w, r.ret = .atom grp l d w) ∨ (∃ grp n parts, r.ret = .elem grp n parts)) →
      Goes (.loadReturn id) s (fun t => t.groups = s.groups ∧ t.mem = s.mem ∧ SMap.find? t.reqs id = none ∧
        Poisoned s t r (if r.mesh then 2 else match r.tgt with
          | .dev pa => if 2 ^ 45 ≤ pa then 0 else 1
          | .spad _ _ _ => 1
          | _ => 2)))) ∧
  (∀ (s : State) (grp pid d c : Nat) (p : Path) (g : Group), SMap.find? s.paths pid = some p → p.grp = grp →
    SMap.find? s.groups grp = some g → c ≤ s.cycle →
    (p.wait = .monitor d (some c) → d < 64 → ∀ u, SMap.find? s.teams g.team = some u →
      let stops : Prop := u.place ≠ .resident ∨ ∃ r, u.save = some r ∧ p.pos = 0 ∧ (p.safe.isSome = true ∨ r.bound = true)
      (stops → exec (.mwaitTimeout grp pid) s = .next s) ∧
      (¬ stops → Goes (.mwaitTimeout grp pid) s (fun t => ∃ h, t = (s.setGroup grp h).setPath pid { p with wait := .none } ∧
        ((65536 + d, pid) ∈ g.due → g.Keeps h { Written.none with s := fun n => n = d } ∧ h.sreg d = 1) ∧
        ((65536 + d, pid) ∉ g.due → h = g)))) ∧
    (p.wait = .sleep c → Goes (.sleepExpire grp pid) s (fun t => t = s.setPath pid { p with wait := .none })))

/-! ## Steps of operations in flight (04 R75 to R92; 18 R290 to R299) -/

/-- The completion of an operation (04 R78, R79, R81, R84): it is gone, COUNT of its tag falls by one, or by the number of lanes of a line request, the batch keeps its first status
that is not OK, what covers a cancelled or failed operation is barred, and what waited for COUNT to be 0 waits no longer: it starts in
the same step, where it follows nothing else (a matrix operation then stands in its engine's order, 18 R291, R295); a stamp or an
arrival starts in a step of its own. -/
def Sys2Proof.Machine.Completed (s t : State) (id : Nat) (o : Op) (st : Nat) : Prop :=
  let lost : Bool := o.failed || st == 3
  let w : Nat := match o.kind with | .lane cs _ => cs.length | _ => 1
  let word (k : Tag) : Tag :=
    ⟨k.count - w, if k.stat = 0 then (if o.status = 0 then st else o.status) else k.stat, k.barred || lost⟩
  SMap.find? t.ops id = none ∧
  ∀ g, SMap.find? s.groups o.grp = some g →
    (∃ h, SMap.find? t.groups o.grp = some h ∧ h.tag o.tag = word (g.tag o.tag) ∧ ∀ k, k ≠ o.tag → h.tag k = g.tag k) ∧
    (s.NumbersFresh → ∀ n x, n ≠ id → SMap.find? s.ops n = some x →
      let freed : Prop := (g.tag o.tag).count ≤ w ∧ x.grp = o.grp ∧ x.trig = some o.tag
      let y : Op := { x with
        barred := x.barred || (lost && x.covers.contains id)
        trig := if (g.tag o.tag).count ≤ w ∧ x.grp = o.grp ∧ x.trig = some o.tag then none else x.trig }
      let begins : Prop := freed ∧ x.started = false ∧ ¬ covers x.kind
      (¬ begins ∨ (∃ m ∈ x.covers, m ≠ id ∧ s.done m = false) → SMap.find? t.ops n = some y) ∧
      (begins → (∀ m ∈ x.covers, m ≠ id ∧ s.done m = true) →
        (∃ z, SMap.find? t.ops n = some z ∧ z.started = true ∧ z.trig = none ∧ z.kind = x.kind ∧ z.tag = x.tag ∧ z.grp = x.grp ∧
          z.entry = x.entry ∧ z.barred = y.barred) ∧ (x.kind.onM = true → n ∈ (t.core x.core).mxOrder)))
/-- An operation that waits for nothing any more: its trigger, if it had one, has been 0, and what it covers or follows is
done. -/
def Sys2Proof.Machine.Unheld (s : State) (id : Nat) (o : Op) : Prop :=
  SMap.find? s.ops id = some o ∧ o.started = false ∧ o.trig = none ∧ (∀ n ∈ o.covers, s.done n = true) ∧
    (covers o.kind → ∀ n ∈ o.release, s.done n = true)

/-- R81 (04), R291 (18): a queued operation starts: a matrix operation joins the order of its core's engine, DV.WARM starts
the recompute of each STALE tile of its range, a lane copy reads its bytes at its source. R83: when everything of an operation
has taken effect, it completes. Memory and registers do not change here. -/
def Sys2Proof.Claim.StartAndComplete : Prop :=
  ∀ (s : State) (id : Nat) (o : Op),
    (Unheld s id o → (∀ a v sys, o.kind ≠ .stamp a v sys) → (∀ h b, o.kind ≠ .arrive h b) → (∀ p h b, o.kind ≠ .fbArrive p h b) →
      Goes (.triggerStart id) s (fun t => t.mem = s.mem ∧ t.host = s.host ∧ t.groups = s.groups ∧ t.teams = s.teams ∧
        (∃ p, SMap.find? t.ops id = some p ∧ p.started = true ∧ p.kind = o.kind ∧ p.tag = o.tag ∧ p.grp = o.grp ∧
          p.entry = o.entry) ∧
        (o.kind.onM = true → (t.core o.core).mxOrder = (s.core o.core).mxOrder ++ [id]) ∧
        (∀ cs size k c pa, o.kind = .lane cs size → cs[k]? = some c → 0 < c.n → s.reach o c.src .read = .at_ (.dev pa) →
          ∃ n r, s.nextId ≤ n ∧ SMap.find? t.reqs n = some r ∧ r.op = .read c.n ∧ r.tgt = .dev pa ∧ r.ret = .op id k ∧ r.path = .c) ∧
        (∀ h first count d k, o.kind = .warm h first count → s.derivs.find? (fun d => d.handle == h) = some d → first ≤ k →
          k < min (first + count) d.tiles → s.tileState h k = none → t.tileState h k = some .computing))) ∧
    (SMap.find? s.ops id = some o → o.started = true → o.kind.onM = false → o.waiting = [] → o.left = [] →
      (∀ p ∈ o.pieces, p.put = true) → Goes (.copyComplete id) s (fun t => Completed s t id o 0 ∧ t.mem = s.mem ∧
        t.host = s.host ∧ t.teams = s.teams ∧ t.paths = s.paths ∧
        (s.NumbersFresh → ∀ n r, SMap.find? s.reqs n = some r → SMap.find? t.reqs n = some r) ∧
        ∀ g, SMap.find? s.groups o.grp = some g → ∃ h, SMap.find? t.groups o.grp = some h ∧
          g.Keeps h { Written.none with k := fun n => n = o.tag }))

/-- R84 (04): a stamp whose covered operations are done writes its eight bytes at its address in one step, and completes; one
that covers a cancelled or failed operation is never written (log 21: it completes as CANCELLED). R88: so does an arrival at its
team's barrier; where no team stands behind the handle, it is STALE. R89: a delivery lands in its team's scratchpad, in the half
of the home core (log 22), the payload of CP.MCAST one part after another in any order (log 41), or is dropped as STALE, or lies
beyond the team's scratchpad and faults its launch; each way its operation knows. R310 (18): an arrival of FB.ARRV stands before its
slot on this module, or leaves for its peer. -/
def Sys2Proof.Claim.StampsAndArrivals : Prop :=
  ∀ (s : State) (id : Nat),
    (∀ o addr val sys, Unheld s id o → o.kind = .stamp addr val sys →
      (o.barred = true → Goes (.stampWrite id) s (fun t => Completed s t id o 3 ∧ t.mem = s.mem ∧ t.host = s.host)) ∧
      (∀ pa, o.barred = false → s.reach o addr .write = .at_ (.dev pa) → s.writesHeld pa 8 = false → s.derivedFrame pa = false →
        o.waiting = [] → o.left = [] → (∀ e ∈ s.reqs, SameSource e.2.src (16384 + o.core) → e.2.value ≠ none) →
        Goes (.stampWrite id) s (fun t => Completed s t id o 0 ∧ Wrote s.mem t.mem pa (leBytes 8 val.toNat) ∧
          t.host = s.host))) ∧
    (∀ o h b, Unheld s id o → o.kind = .arrive h b →
      (o.barred = true → Goes (.arrivalLand id) s (fun t => Completed s t id o 3 ∧ t.teams = s.teams)) ∧
      (o.barred = false → s.behindSlot h o.fn = none → Goes (.arrivalLand id) s (fun t => Completed s t id o 1 ∧
        t.teams = s.teams)) ∧
      (∀ n u, o.barred = false → s.behindSlot h o.fn = some (n, u) → SMap.find? s.teams n = some u →
        Goes (.arrivalLand id) s (fun t => Completed s t id o 0 ∧ t.mem = s.mem ∧ ∀ me, ArrivesAt s t n b me o.grp false u))) ∧
    (∀ d, SMap.find? s.ops id = none → SMap.find? s.deliveries id = some d → d.data = none →
      (s.behindSlot d.handle d.fn = none → Goes (.arrivalLand id) s (fun t => SMap.find? t.deliveries id = none ∧
        t.teams = s.teams)) ∧
      (∀ n u, s.behindSlot d.handle d.fn = some (n, u) → SMap.find? s.teams n = some u →
        Goes (.arrivalLand id) s (fun t => SMap.find? t.deliveries id = none ∧ t.mem = s.mem ∧
          ∀ me mine, ArrivesAt s t n d.bar me mine false u))) ∧
    (∀ o p h b, Unheld s id o → o.kind = .fbArrive p h b →
      (o.barred = true → Goes (.arrivalLand id) s (fun t => Completed s t id o 3 ∧ t.teams = s.teams)) ∧
      (o.barred = false → p = s.peerid → Goes (.arrivalLand id) s (fun t => t.teams = s.teams ∧ t.mem = s.mem ∧
        ∃ n d, SMap.find? t.deliveries n = some d ∧ d.handle = h ∧ d.fn = o.fn ∧ d.data = none ∧ d.bar = b)) ∧
      (o.barred = false → p ≠ s.peerid → Goes (.arrivalLand id) s (fun t => t.teams = s.teams ∧ t.mem = s.mem ∧
        ∃ n r, SMap.find? t.reqs n = some r ∧ r.op = .arrive h b ∧ r.tgt = .peer p 0 ∧ r.path = .f ∧ r.fn = o.fn))) ∧
    (∀ d off bytes bad, SMap.find? s.deliveries id = some d → d.data = some (off, bytes, bad) →
      let tells (t : State) (st : Nat) (failed : Bool) : Prop := ∀ n k x, d.ret = .op n k → SMap.find? s.ops n = some x →
        SMap.find? t.ops n = some { x with
          status := if x.status = 0 then st else x.status
          failed := x.failed || failed
          waiting := x.waiting.filter (· ≠ id) }
      let part : Prop := ∃ n k x, d.ret = .op n k ∧ SMap.find? s.ops n = some x ∧ (∃ a b c h st, x.kind = .mcast a b c h st) ∧
        ∀ p, x.pieces[k]? = some p → p.last = false
      (s.behindSlot d.handle d.fn = none → Goes (.deliveryLand id) s (fun t => SMap.find? t.deliveries id = none ∧
        t.teams = s.teams ∧ t.mem = s.mem ∧ tells t 1 false)) ∧
      (∀ n u e, s.behindSlot d.handle d.fn = some (n, u) → SMap.find? s.teams n = some u → SMap.find? s.entries u.entry = some e →
        (e.body.spadBytes < off + bytes.length → Goes (.deliveryLand id) s (fun t => SMap.find? t.deliveries id = none ∧
          t.teams = s.teams ∧ t.mem = s.mem ∧ tells t 4 true)) ∧
        (off + bytes.length ≤ e.body.spadBytes → ¬ part → Goes (.deliveryLand id) s (fun t => SMap.find? t.deliveries id = none ∧
          t.mem = s.mem ∧ tells t 0 false ∧ ∃ v, SMap.find? t.teams n = some v ∧ Wrote u.side0.spad v.side0.spad off bytes ∧
            v.side1 = u.side1)) ∧
        (off + bytes.length ≤ e.body.spadBytes → part → Goes (.deliveryLand id) s (fun t => t.mem = s.mem ∧
          ∃ now v, SMap.find? t.teams n = some v ∧ WroteSome u.side0.spad v.side0.spad off bytes now ∧ v.side1 = u.side1 ∧
            now.Nodup ∧ (∀ i ∈ now, i < bytes.length ∧ i ∉ d.part) ∧ ((∃ i, i < bytes.length ∧ i ∉ d.part) → now ≠ []) ∧
            if now.length + d.part.length < bytes.length then SMap.find? t.deliveries id = some { d with part := d.part ++ now }
            else SMap.find? t.deliveries id = none ∧ tells t 0 false))))

/-- R13 (01), R75, R76 (04): the bytes of a copy move in pieces that follow one another from its first byte to its last, and no
piece crosses a 64-byte block at its source or its destination, so that the owning slice takes each in one step. -/
def Sys2Proof.Claim.Pieces : Prop :=
  ∀ a b n : Nat,
    (∀ c ∈ chunks a b n, 0 < c.2 ∧ c.1 + c.2 ≤ n ∧ (a + c.1) / 64 = (a + c.1 + c.2 - 1) / 64 ∧
      (b + c.1) / 64 = (b + c.1 + c.2 - 1) / 64) ∧
    (chunks a b n).Pairwise (fun c d => c.1 + c.2 ≤ d.1) ∧ ∀ i, i < n → ∃ c ∈ chunks a b n, c.1 ≤ i ∧ i < c.1 + c.2

/-- R75, R76, R84, R89 (04), R302, R307 (18), R246 (13): the order of an operation's writes. A piece is written once its bytes are
there; the rows of a bulk copy in increasing order; a lane copy after the lower lanes of its line request that it overlaps; and what
is written last, a stamp or a counter, when everything else for its target has landed, when the path's accesses that it covers have
taken effect, and never once a covered operation has failed. -/
def Sys2Proof.Claim.WriteOrder : Prop :=
  ∀ (s : State) (o : Op) (k : Nat) (p : Piece), o.pieces[k]? = some p → s.mayPut o k p = true →
    let landed (q : Piece) : Prop := q.put = true ∧ q.id ∉ o.waiting
    (∃ d, p.data = some d) ∧ p.put = false ∧
    ((∃ a b n r i j, o.kind = .bulk a b n r i j) → ∀ q ∈ o.pieces, q.key < p.key → landed q) ∧
    ((∃ cs n, o.kind = .lane cs n) → ∀ i q a b, i < k → o.pieces[i]? = some q → q.dst = .mem a → p.dst = .mem b →
      a.toNat < b.toNat + (p.n + p.pad) → b.toNat < a.toNat + (q.n + q.pad) → landed q) ∧
    (p.last = true → o.failed = false ∧ o.barred = false ∧ (∀ n ∈ o.release, s.done n = true) ∧
      ∀ q ∈ o.pieces, q.key = p.key → q.last = false → landed q)

/-- R81 to R84, R88, R89 (04): the steps of operations in flight. -/
def Obligations.OperationSteps : Prop := Claim.StartAndComplete ∧ Claim.StampsAndArrivals ∧ Claim.Pieces ∧ Claim.WriteOrder

/-! ## The matrix engine's step (07 R133, R134; 18 R290 to R299) -/

/-- The checksums of a granule agree with its words (03 R68). -/
def Sys2Proof.Machine.Sound (s : State) (team side g : Nat) : Prop :=
  (∀ i, i < 64 → s.rowXor team side (64 * g + i) = SMap.getD (s.sideOf team side).accCol (64 * g + i) 0) ∧
    ∀ c, c < 64 → s.colXor team side g c = SMap.getD (s.sideOf team side).accRow (64 * g + c) 0
/-- An accumulator word. -/
def Sys2Proof.Machine.AccWord (s : State) (team side k : Nat) : Word := SMap.getD (s.sideOf team side).acc k 0

/-- R291, R294, R297 to R299 (18): the oldest operation of a core's matrix engine takes effect whole, on rows whose checksums
agree: MMA gives each word of the tile its sum of products, ZERO clears, FIL writes its words, DRN puts each word's image where
its folding places it and may clear, CHK changes nothing; the other words of the accumulator stay, the checksums agree again, and
the operation completes. Where the words of one row and one column of a granule disagree with their checksums by the same bits,
the word is corrected; where two rows disagree, the launch faults with ACC-INTEGRITY and nothing is written. -/
def Sys2Proof.Claim.MatrixOperations : Prop :=
  ∀ (s : State) (id : Nat) (o : Op) (u : Team) (e : Entry) (g : Group), SMap.find? s.ops id = some o → o.kind.onM = true →
    (s.core o.core).mxOrder.head? = some id → SMap.find? s.teams o.team = some u → SMap.find? s.entries o.entry = some e →
    SMap.find? s.groups o.grp = some g →
    let side := g.side e.body
    let run (t : State) (row n : Nat) (f : Nat → Word) : Prop := Completed s t id o 0 ∧ t.mem = s.mem ∧
      (t.core o.core).mxOrder = (s.core o.core).mxOrder.tail ∧
      (∀ k, AccWord t o.team side k = if 64 * row ≤ k ∧ k < 64 * (row + n) then f (k - 64 * row) else AccWord s o.team side k) ∧
      ∀ j, j ∈ rowGranules row n → Sound t o.team side j
    let ok (row n : Nat) : Prop := 0 < n ∧ (∀ j ∈ rowGranules row n, Sound s o.team side j ∧
      ∀ k, 4096 * j ≤ k → k < 4096 * (j + 1) → s.accPoison o.team side k = false)
    (∀ ty a b codes row scale, o.kind = .mma ty a b codes none row scale → ok row 64 →
      Goes (.matrixOpComplete id) s (fun t => run t row 64 (fun k => BitVec.ofNat 32 (mmaElem ty a b codes scale (k / 64) (k % 64)
        (AccWord s o.team side (64 * row + k)).toNat)))) ∧
    (∀ ty a b codes off row scale, o.kind = .mma ty a b codes (some off) row scale → ok row 64 →
      (∀ i, i < 4096 → (s.spadRead o.team side off 4096).2.getD i false = false) →
      Goes (.matrixOpComplete id) s (fun t => run t row 64 (fun k => BitVec.ofNat 32 (mmaElem ty (s.tileA o.team side off ty).1 b codes
        scale (k / 64) (k % 64) (AccWord s o.team side (64 * row + k)).toNat)))) ∧
    (∀ row, o.kind = .zero row → ok row 64 → Goes (.matrixOpComplete id) s (fun t => run t row 64 (fun _ => 0))) ∧
    (∀ ws row n, o.kind = .fill ws row n → ok row n → Goes (.matrixOpComplete id) s (fun t => run t row n (fun k => ws.getD k 0))) ∧
    (∀ m d w row n, o.kind = .drain m d w row n → ok row n → foldOk w e.body.width = true → (FoldWord.of w).extent .x = 64 →
      (FoldWord.of w).extent .y = n → (FoldWord.of w).ew = castEw m.cvt → d + (FoldWord.of w).nreg ≤ 256 →
      Goes (.matrixOpComplete id) s (fun t =>
        run t row (if m.clr then n else 0) (fun _ => 0) ∧ ∃ h, SMap.find? t.groups o.grp = some h ∧
          g.Keeps h { Written.none with v := fun k _ => d ≤ k ∧ k < d + (FoldWord.of w).nreg, k := fun k => k = o.tag } ∧
          ∀ c r, c < 64 → r < n → (FoldWord.of w).at_ h.vreg d 0 ⟨c, r, 0, 0⟩ =
            drainCast m (AccWord s o.team side (64 * row + (64 * r + c))))) ∧
    (∀ row n, o.kind = .check row n → ok row n → Goes (.matrixOpComplete id) s (fun t => run t row 0 (fun _ => 0) ∧
      t.teams = s.teams)) ∧
    (∀ j i c b, o.kind = .check (64 * j) 64 → i < 64 → c < 64 → b ≠ 0 →
      (∀ r, r < 64 → s.rowXor o.team side (64 * j + r) ^^^ SMap.getD (s.sideOf o.team side).accCol (64 * j + r) 0 =
        if r = i then b else 0) →
      (∀ k, k < 64 → s.colXor o.team side j k ^^^ SMap.getD (s.sideOf o.team side).accRow (64 * j + k) 0 = if k = c then b else 0) →
      Goes (.matrixOpComplete id) s (fun t => Completed s t id o 0 ∧ AccWord t o.team side (64 * (64 * j + i) + c) =
        s.accSeen o.team side (64 * (64 * j + i) + c) ^^^ b)) ∧
    (∀ j i k x y, o.kind = .check (64 * j) 64 → i < k → k < 64 → x ≠ 0 → y ≠ 0 → e.fault = none →
      s.rowXor o.team side (64 * j + i) ^^^ SMap.getD (s.sideOf o.team side).accCol (64 * j + i) 0 = x →
      s.rowXor o.team side (64 * j + k) ^^^ SMap.getD (s.sideOf o.team side).accCol (64 * j + k) 0 = y →
      Goes (.matrixOpComplete id) s (fun t => SMap.find? t.ops id = none ∧ t.teams = s.teams ∧
        ∃ f, SMap.find? t.entries o.entry = some { e with faults := e.faults ++ [f] } ∧ f.code = .accIntegrity ∧ f.precise = false))

/-- R133, R134 (07): a multiply's sums: each group of products of finite elements is summed exactly, an exact zero with sign − only
where every term is −0.0, and added to the accumulator with one rounding; a NaN, the product of zero and an infinity, and infinities of
both signs give the canonical NaN, an infinity otherwise gives itself. -/
def Sys2Proof.Claim.MatrixArithmetic : Prop :=
  (∀ q ts, (∀ x ∈ ts, ∃ s m e, x = FVal.num s m e ∧ q ≤ e) →
    (groupSum ts).units q = ts.foldl (fun a x => a + x.units q) 0 ∧ ∃ s m e, groupSum ts = .num s m e ∧
      (ts ≠ [] → m = 0 → (s = true ↔ ∀ x ∈ ts, ∃ e, x = .num true 0 e))) ∧
  (∀ ts : List FVal, ((∃ x ∈ ts, x.isNan = true) ∨ (.inf true ∈ ts ∧ .inf false ∈ ts) → (groupSum ts).isNan = true) ∧
    ∀ s, .inf s ∈ ts → (∀ x ∈ ts, x.isNan = false) → .inf (!s) ∉ ts → groupSum ts = .inf s) ∧
  (∀ (acc : Nat) (s : Bool) (m : Nat) (e : Int) (t : Bool) (n : Nat) (d : Int), FFmt.f32.val acc = .num s m e →
    ∃ b k c, accAdd acc (.num t n d) = (FFmt.f32.round .plain false b k c).1 ∧
      (∀ q, q ≤ e → q ≤ d → q ≤ c → (FVal.num b k c).units q = (FVal.num s m e).units q + (FVal.num t n d).units q) ∧
      (k = 0 → b = (s && t))) ∧
  (∀ (acc : Nat) (p : FVal), (FFmt.f32.val acc).isNan = true ∨ p.isNan = true ∨ (∃ s, FFmt.f32.val acc = .inf s ∧ p = .inf (!s)) →
    accAdd acc p = 0x7FC00000) ∧
  (∀ (acc : Nat) (p : FVal) (s : Bool), (FFmt.f32.val acc).isNan = false → p.isNan = false →
    (FFmt.f32.val acc = .inf s ∧ p ≠ .inf (!s) ∨ FFmt.f32.val acc ≠ .inf (!s) ∧ p = .inf s) →
    accAdd acc p = if s then 0xFF800000 else 0x7F800000) ∧
  (∀ (a b : Bool) (m n : Nat) (e d : Int), ∃ k c, productOf (.num a m e) (.num b n d) = .num (a != b) k c ∧
    ∀ q r : Int, q ≤ e → r ≤ d → q + r ≤ c →
      (FVal.num (a != b) k c).units (q + r) = (FVal.num a m e).units q * (FVal.num b n d).units r) ∧
  (∀ x y : FVal, x.isNan = true ∨ y.isNan = true → (productOf x y).isNan = true) ∧
  ∀ (a b : Bool) (m : Nat) (e : Int), productOf (.inf a) (.inf b) = .inf (a != b) ∧
    (m = 0 → (productOf (.inf a) (.num b m e)).isNan = true ∧ (productOf (.num b m e) (.inf a)).isNan = true) ∧
    (m ≠ 0 → productOf (.inf a) (.num b m e) = .inf (a != b) ∧ productOf (.num b m e) (.inf a) = .inf (a != b))

/-- R133, R123 (07), R291, R292, R294, R299 (18): an element of the tile after a multiply: the accumulator goes through the groups of
its K products in order of K, one addition for each; A's and B's elements by type, an NQ4 element its code's value times its column's
block scale (scaled before the sum, the model's choice, log 54). A's tile in the scratchpad lies row by row. A drained word is cast to
its format under RNE with subnormals kept, an overflow by R126 or under SAT the largest value of its sign (that a NaN and an overflow to
E4M3 keep their sign is the model's choice, log 52). -/
def Sys2Proof.Claim.MatrixElements : Prop :=
  let types : List (MxType × Nat × Nat × FFmt × FFmt) :=
    [(.e4m3, 32, 8, .fE4m3, .fE4m3), (.e4e5, 32, 8, .fE4m3, .fE5m2), (.e5e4, 32, 8, .fE5m2, .fE4m3), (.e5m2, 32, 8, .fE5m2, .fE5m2),
      (.bf16, 16, 4, .bf16, .bf16), (.f16, 16, 4, .f16, .f16)]
  let steps (ty : MxType) (K G : Nat) (a b codes : List Nat) (scale : Word) (i j : Nat) (x y : Nat → FVal) : Prop :=
    ∀ acc, ∃ sum : Nat → Nat, sum 0 = acc ∧ mmaElem ty a b codes scale i j acc = sum (K / G) ∧
      ∀ n, n < K / G → sum (n + 1) = accAdd (sum n) (groupSum ((List.range G).map (fun k => productOf (x (n * G + k)) (y (n * G + k)))))
  (∀ ty K G f h, (ty, K, G, f, h) ∈ types → ∀ (a b codes : List Nat) (scale : Word) (i j : Nat),
    steps ty K G a b codes scale i j (fun k => f.val (a.getD (i * K + k) 0)) (fun k => h.val (b.getD (k * 64 + j) 0))) ∧
  (∀ ty f, (ty, f) ∈ ([(.nq4, .fE4m3), (.nq4e5, .fE5m2)] : List (MxType × FFmt)) → ∀ (a b codes : List Nat) (scale : Word) (i j : Nat),
    steps ty 64 64 a b codes scale i j (fun k => f.val (a.getD (i * 64 + k) 0)) (fun k =>
      productOf (nqVal (b.getD (k / 2 * 64 + j) 0 / 16 ^ (k % 2) % 16)) (FFmt.f32.val (blockScale scale.toNat (codes.getD j 0))))) ∧
  (∀ (s : State) (team side off : Nat) (ty : MxType) (K z i : Nat), (K, z) = (match ty with
      | .bf16 => (16, 2) | .f16 => (16, 2) | .nq4 => (64, 1) | .nq4e5 => (64, 1) | _ => (32, 1)) → i < 64 * K →
    (s.tileA team side off ty).1.getD i 0 = leNat (((s.spadRead team side off (64 * K * z)).1.drop (i * z)).take z) ∧
    ((s.tileA team side off ty).2 = true ↔ true ∈ (s.spadRead team side off (64 * K * z)).2)) ∧
  (castEw .f32 = 2 ∧ castEw .f16 = 1 ∧ castEw .bf16 = 1 ∧ castEw .e4m3 = 0 ∧ castEw .e5m2 = 0) ∧
  ∀ (m : DrnMod) (x : Word),
    (m.cvt = .f32 → drainCast m x = x.toNat) ∧
    ∀ c f, (c, f) ∈ ([(.f16, .f16), (.bf16, .bf16), (.e4m3, .fE4m3), (.e5m2, .fE5m2)] : List (AxCvt × FFmt)) → m.cvt = c →
      (∀ s k e, FFmt.f32.val x.toNat = .num s k e → drainCast m x = (f.round ⟨0, false, false, false, false⟩ m.sat s k e).1) ∧
      (∀ s, FFmt.f32.val x.toNat = .inf s → drainCast m x =
        f.sign s (if !f.e4m3 then f.infBits else if m.sat then 0x7E else 0x7F)) ∧
      (∀ s fr q, FFmt.f32.val x.toNat = .nan s fr q → drainCast m x =
        f.sign s (if f.e4m3 then 0x7F else f.infBits + (fr / 2 ^ (52 - f.fb) ||| 2 ^ (f.fb - 1))))

/-- R290 to R299 (18), R133, R134 (07): the matrix engine's step and its arithmetic. -/
def Obligations.MatrixSteps : Prop := Claim.MatrixOperations ∧ Claim.MatrixArithmetic ∧ Claim.MatrixElements

/-! ## Translations, invalidations and recomputes (01 R24 to R31; 02 R44 to R52; 21 R327 to R330) -/

/-- A translation stands in the TLB of a core and in its die's (01 R27). -/
def Sys2Proof.Machine.Holds (t : State) (core ctx base : Nat) (leaf : Leaf) : Prop :=
  (⟨core, ctx, base, leaf⟩ : TlbEntry) ∈ t.tlb ∧ (⟨256 + core / 64, ctx, base, leaf⟩ : TlbEntry) ∈ t.tlb
/-- A miss that waits on a walk for the same die, context and page. -/
def Sys2Proof.Machine.Waits (w e : Walk) : Prop := e.core / 64 = w.core / 64 ∧ e.ctx = w.ctx ∧ e.page = w.page ∧ e.kind = w.kind

/-- R25, R27 (01), R48 to R50 (02): a walk that meets an entry in a derived tile that is not VALID is held, and starts the recompute of
a STALE one. A walk that ends with a leaf sets its A bit with an atomic write of the entry, changes no other byte (it leaves an entry in
a derived frame or one that carries poison alone, and waits its turn as a request while a recompute holds writes: what the walk itself
does then, that it uses poisoned bytes as they stand, and that it refuses a leaf whose page runs past its range's end are the model's
choices, logs 63, 62 and 61), and the
translation reaches the TLBs of every core of the die that waits for it; one that ends without a leaf gives its DETAIL to every
path that waits. R29: so does the answer of the host to an ATS request, but an address inside the device's own BARs is DETAIL 4;
without access it is a page request of a context with PRI enabled (R30), or DETAIL 4. R30: Success asks again for what still waits, any
other answer is DETAIL 3. -/
def Sys2Proof.Claim.Walks : Prop :=
  ∀ s : State, (∀ e ∈ s.walks, e.1 < s.nextId) →
    (∀ id w pte, SMap.find? s.walks id = some w → w.kind = 0 → s.walkWaits w.ctx (w.page * 4096) = some pte →
      s.notValid pte 8 ≠ [] ∧ Goes (.pageWalkComplete id) s (fun t => t.mem = s.mem ∧ t.walks = s.walks ∧ t.groups = s.groups ∧
        ∀ x ∈ s.notValid pte 8, t.tileState x.1.handle x.2 =
          (if s.tileState x.1.handle x.2 = none then some .computing else s.tileState x.1.handle x.2))) ∧
    (∀ id w, SMap.find? s.walks id = some w → w.kind = 0 → s.walkWaits w.ctx (w.page * 4096) = none →
      (∀ leaf base pte, s.walkTables w.ctx (w.page * 4096) = .found leaf base pte → Goes (.pageWalkComplete id) s (fun t =>
        (∀ n e, SMap.find? s.walks n = some e → Waits w e → SMap.find? t.walks n = none ∧ Holds t e.core w.ctx base leaf) ∧
        (let alone : Prop := s.derivedFrame pte = true ∨ ∃ i, i < 8 ∧ s.badByte (pte + i) = true
        let busy : Prop := ∃ r ∈ s.reqs, r.2.src = 1025 ∧ r.2.tgt = .dev pte
        let old := leNat (s.mem.bytes pte 8)
        let later : Prop := busy ∨ (old / 64 % 2 = 0 ∧ s.writesHeld pte 8 = true)
        (alone → t.mem = s.mem) ∧
        (¬ alone → ¬ later → leNat (t.mem.bytes pte 8) = (if old / 64 % 2 = 0 then old + 64 else old) ∧
          ∀ a, ¬ (pte ≤ a ∧ a < pte + 8) → t.mem.byte a = s.mem.byte a) ∧
        (¬ alone → later → t.mem = s.mem ∧ ∃ n r, s.nextId ≤ n ∧ SMap.find? t.reqs n = some r ∧ r.src = 1025 ∧ r.tgt = .dev pte ∧
          r.op = .atomic .or true 64 0 0)) ∧
        ((∀ e ∈ s.groups, ∀ l, e.2.monitor.line = some l → touchesLine l (.dev pte) 8 = false) → t.groups = s.groups) ∧
        t.teams = s.teams)) ∧
      (∀ d, s.walkTables w.ctx (w.page * 4096) = .refused d → Goes (.pageWalkComplete id) s (fun t => t.mem = s.mem ∧
        t.groups = s.groups ∧ ∀ n e p, SMap.find? s.walks n = some e → Waits w e → e.core ≠ queueUnit →
          SMap.find? s.paths e.arm = some p → SMap.find? t.walks n = none ∧
          ∃ q, SMap.find? t.paths e.arm = some q ∧ (w.page, d) ∈ q.refused))) ∧
    (∀ ctx va n0 e0, SMap.find? s.walks n0 = some e0 → e0.ctx = ctx → e0.page = va / 4096 → e0.kind = 1 →
      let mine (e : Walk) : Prop := e.ctx = ctx ∧ e.page = va / 4096 ∧ e.kind = 1
      let refuses (a : Option AtsGrant) : Prop := Goes (.atsTranslationCompletion ctx va a) s (fun t => t.mem = s.mem ∧
        ∀ n e p, SMap.find? s.walks n = some e → mine e → e.core ≠ queueUnit → SMap.find? s.paths e.arm = some p →
          SMap.find? t.walks n = none ∧ ∃ q, SMap.find? t.paths e.arm = some q ∧ (va / 4096, 4) ∈ q.refused)
      (∀ g : AtsGrant, Goes (.atsTranslationCompletion ctx va (some g)) s (fun t => t.mem = s.mem ∧
        let own := Config.inOwnBars (g.frame * 4096)
        (own = false → t.groups = s.groups) ∧ ∀ n e, SMap.find? s.walks n = some e → mine e →
          (own = true → e.core ≠ queueUnit → ∀ p, SMap.find? s.paths e.arm = some p → SMap.find? t.walks n = none ∧
            ∃ q, SMap.find? t.paths e.arm = some q ∧ (va / 4096, 4) ∈ q.refused) ∧
          (own = false → SMap.find? t.walks n = none ∧
            Holds t e.core ctx (va / 4096 * 4096) ⟨2, 0, g.frame * 4096, 12, false, false, false, g.w, g.x, noPte⟩))) ∧
      ((s.context ctx).pri = false → refuses none) ∧
      ((s.context ctx).pri = true → s.pagesAsked (s.context ctx).fn < (s.fn (s.context ctx).fn).priAlloc →
        Goes (.atsTranslationCompletion ctx va none) s (fun t => t = { s with walks := t.walks } ∧
          ∀ n e, SMap.find? s.walks n = some e → mine e → SMap.find? t.walks n = some { e with kind := 2 }))) ∧
    (∀ ctx va n0 e0, SMap.find? s.walks n0 = some e0 → e0.ctx = ctx → e0.page = va / 4096 → e0.kind = 2 →
      SMap.rising s.walks = true → (∀ e ∈ s.walks, e.2.kind = 3 → (s.context e.2.ctx).fn ≠ (s.context ctx).fn) →
      let mine (e : Walk) : Prop := e.ctx = ctx ∧ e.page = va / 4096 ∧ e.kind = 2
      Goes (.pageRequestResponse ctx va .success) s (fun t => t = { s with walks := t.walks } ∧
        ∀ n e, SMap.find? s.walks n = some e → mine e →
          let waits : Prop := e.core = queueUnit ∨ SMap.find? s.paths e.arm ≠ none ∨ SMap.find? s.ops e.arm ≠ none
          (waits → SMap.find? t.walks n = some { e with kind := 1 }) ∧ (¬ waits → SMap.find? t.walks n = none)) ∧
      ∀ r, r ≠ .success → Goes (.pageRequestResponse ctx va r) s (fun t => t.mem = s.mem ∧
        ∀ n e p, SMap.find? s.walks n = some e → mine e → e.core ≠ queueUnit → SMap.find? s.paths e.arm = some p →
          SMap.find? t.walks n = none ∧ ∃ q, SMap.find? t.paths e.arm = some q ∧ (va / 4096, 3) ∈ q.refused))

/-- R327 to R329 (21): a line whose bytes are all there enters the core's instruction buffer, where it has room or a line that
no arm and no lock holds; nothing else of the memory or the registers changes. -/
def Sys2Proof.Claim.LineFills : Prop :=
  ∀ (s : State) (id : Nat) (f : Fill), SMap.find? s.fills id = some f → f.got.left = [] →
    let c := s.core f.core
    ((∃ l ∈ c.code, l.ctx = f.ctx ∧ l.line = f.line) ∨ c.code.length < 256 ∨ s.victim f.core ≠ none) →
    Goes (.lineFill id) s (fun t => SMap.find? t.fills id = none ∧ t.mem = s.mem ∧ t.paths = s.paths ∧
      (∃ l ∈ (t.core f.core).code, l.ctx = f.ctx ∧ l.line = f.line ∧ l.flips = [] ∧
        l.bytes = (List.range f.got.n).map (fun i => SMap.getD f.got.data i 0) ∧
        l.bad = (List.range f.got.n).map (fun i => f.got.bad.contains i)) ∧
      ∀ l ∈ c.code, l.locks ≠ [] → ¬ (l.ctx = f.ctx ∧ l.line = f.line) → l ∈ (t.core f.core).code)

/-- R330 (21): where no line of the buffer can be replaced, a line whose bytes are all there enters its group's fallback slot, if that is
empty, its own arm's, or has been used. -/
def Sys2Proof.Claim.FallbackFills : Prop :=
  ∀ (s : State) (id : Nat) (f : Fill) (p : Path) (g : Group), SMap.find? s.fills id = some f → f.got.left = [] →
    SMap.find? s.paths f.arm = some p → SMap.find? s.groups p.grp = some g →
    let c := s.core f.core
    (∀ l ∈ c.code, ¬ (l.ctx = f.ctx ∧ l.line = f.line)) → 256 ≤ c.code.length → s.victim f.core = none →
    (∀ b, g.fallback = some b → b.arm = f.arm ∨ b.used = true) →
    Goes (.lineFill id) s (fun t => SMap.find? t.fills id = none ∧ t.mem = s.mem ∧ t.paths = s.paths ∧ t.cores = s.cores ∧
      ∃ h b l, SMap.find? t.groups p.grp = some h ∧ h = { g with fallback := some b } ∧ b.arm = f.arm ∧ b.used = false ∧ l ∈ b.lines ∧
        l.line = f.line ∧ l.bytes = (List.range f.got.n).map (fun i => SMap.getD f.got.data i 0) ∧
        l.bad = (List.range f.got.n).map (fun i => f.got.bad.contains i))

/-- R25 to R30 (01), R327 to R329 (21): answers to walks and to fills. -/
def Obligations.TranslationSteps : Prop := Claim.Walks ∧ Claim.LineFills ∧ Claim.FallbackFills

/-- R28 (01), R367 (24): a command to INVCMD removes every translation of its context that meets its range, from every TLB, and
sets BUSY; while BUSY is set a command is ignored. BUSY clears once what used them is done, and not before. R31: an ATS
invalidation does the same for the contexts of a PASID in shared-virtual mode. -/
def Obligations.Invalidations : Prop :=
  ∀ s : State,
    let starts (i : Instr) (ctx lo hi : Nat) : Prop :=
      (s.invcmd.getLsbD 63 = true → exec i s = .next s) ∧
      (s.mode = .running → s.invcmd.getLsbD 63 = false → Goes i s (fun t => t.invcmd.getLsbD 63 = true ∧
        (∀ e, e ∈ t.tlb ↔ e ∈ s.tlb ∧ ¬ (e.ctx = ctx ∧ e.base < hi ∧ lo < e.base + 2 ^ e.leaf.log)) ∧
        (∃ ids, t.invals = s.invals ++ [⟨0, ids⟩] ∧ ∀ n r, SMap.find? s.reqs n = some r → r.value = none → r.ctx = ctx →
          lo ≤ r.va.toNat → r.va.toNat < hi → n ∈ ids) ∧
        t = { s with tlb := t.tlb, invals := t.invals, invcmd := t.invcmd }))
    let a := s.invaddr.toNat / 4096 * 4096
    (∀ ctx, starts (.invalidateContext ctx) ctx 0 (2 ^ 57) ∧ starts (.invalidatePage ctx) ctx a (a + 4096) ∧
      ∀ pages, pages < 2 ^ 47 → starts (.invalidateRange ctx pages) ctx a (a + 4096 * pages)) ∧
    (∀ j ∈ s.invals, j.kind = 0 → (∀ i ∈ s.invals, ∀ n ∈ i.ids, s.done n = true) → Goes .invalidationComplete s (fun t =>
      t.invals = [] ∧ t.invcmd.getLsbD 63 = false ∧ t = { s with invals := t.invals, invcmd := t.invcmd })) ∧
    ((∀ i ∈ s.invals, ∃ n ∈ i.ids, s.done n = false) → exec .invalidationComplete s = .next s) ∧
    (∀ pasid va pages, s.mode = .running → Goes (.atsInvalidationRequest pasid va pages) s (fun t =>
      let lo := va / 4096 * 4096
      (∀ e, e ∈ t.tlb ↔ e ∈ s.tlb ∧ ¬ ((s.context e.ctx).svm = true ∧ (s.context e.ctx).pasid.toNat = pasid ∧
        e.base < min (2 ^ 56) (lo + 4096 * pages) ∧ lo < e.base + 2 ^ e.leaf.log)) ∧
      t = { s with tlb := t.tlb, invals := t.invals }))

/-- The bytes that a recompute writes: address and data of each run of the tile and of its scale codes (02 R44). -/
def Sys2Proof.Machine.tileWrites (s : State) (d : Deriv) (t : Nat) : List (Nat × List Byte) :=
  ((d.runs t).zip (s.tileBytes d t).1).filterMap (fun x => (paOf d.pagesD x.1.1).map (fun a => (a, x.2.1))) ++
    ((d.scaleRuns t).zip (s.tileBytes d t).2).filterMap (fun x => (paOf d.pagesS x.1.1).map (fun a => (a, x.2.1)))

/-- R50, R51 (02): where a write has passed it, a recompute starts again at once, for the function of the first (R61 names no other: the
model's choice, log 70); the tries are counted from 0 (log 40). A recompute whose bases are all there, and whose base versions have not moved, writes its tile's bytes and no
other byte, and the tile is VALID, or, where a write has passed it meanwhile, is recomputed once more; a marking while it ran makes it try again, and the fourth try holds the writes to its bases.
A recompute whose bases are derived tiles that are not VALID starts theirs first. -/
def Sys2Proof.Claim.Recomputes : Prop :=
  ∀ (s : State) (h t : Nat) (r : Recompute) (d : Deriv), s.recomputes.find? (fun r => r.handle == h && r.tile == t) = some r →
    s.derivs.find? (fun d => d.handle == h) = some d →
    let bases := (d.needs t).flatMap d.baseRuns
    ((∀ b ∈ bases, s.notValid b.1 b.2 = []) →
      (r.moved = true → s.tileState h t ≠ some .exclusive → Goes (.recomputeComplete h t) s (fun u => u.mem = s.mem ∧
        u.reqs = s.reqs ∧ (r.tries = 3 → u.tileState h t = some .exclusive) ∧ (r.tries ≠ 3 → u.tiles = s.tiles) ∧
        u.recomputes.find? (fun r => r.handle == h && r.tile == t) = some { r with moved := false, tries := r.tries + 1 })) ∧
      (r.moved = false ∨ s.tileState h t = some .exclusive → s.tileState h t ≠ some .computingStale →
        (tileWrites s d t).Pairwise (fun x y => x.1 + x.2.length ≤ y.1 ∨ y.1 + y.2.length ≤ x.1) →
        Goes (.recomputeComplete h t) s (fun u => u.tileState h t = some .valid ∧
          u.recomputes.find? (fun r => r.handle == h && r.tile == t) = none ∧ u.host = s.host ∧ u.teams = s.teams ∧
          (∀ x ∈ tileWrites s d t, ∀ i, i < x.2.length → u.mem.byte (x.1 + i) = x.2.getD i 0) ∧
          ∀ a, (∀ x ∈ tileWrites s d t, ¬ (x.1 ≤ a ∧ a < x.1 + x.2.length)) → u.mem.byte a = s.mem.byte a))) ∧
    ((∀ b ∈ bases, s.notValid b.1 b.2 = []) → r.moved = false → s.tileState h t = some .computingStale →
      (tileWrites s d t).Pairwise (fun x y => x.1 + x.2.length ≤ y.1 ∨ y.1 + y.2.length ≤ x.1) →
      Goes (.recomputeComplete h t) s (fun u => u.tileState h t = some .computing ∧
        (∃ q, u.recomputes.find? (fun r => r.handle == h && r.tile == t) = some q ∧ q.moved = false ∧ q.tries = 0 ∧ q.fn = r.fn) ∧
        ∀ x ∈ tileWrites s d t, ∀ i, i < x.2.length → u.mem.byte (x.1 + i) = x.2.getD i 0)) ∧
    (∀ b ∈ bases, ∀ x ∈ s.notValid b.1 b.2, s.tileState x.1.handle x.2 = none → Goes (.recomputeComplete h t) s (fun u =>
      u.mem = s.mem ∧ u.reqs = s.reqs ∧ u.tileState x.1.handle x.2 = some .computing))

/-- R41, R44, R45 (02): what a tile's bytes are, for a transposition of one base (TRN): the bits of element (k, r) of the base
stand at element (r, k); and for a row sum of integers (RSUM): the sum, wrapped to 32 bits, or saturated under SAT. -/
def Sys2Proof.Claim.TileValues : Prop :=
  ∀ (s : State) (d : Deriv) (t : Nat),
    (d.rule = 0 → d.baseB = 0 → ∀ m n pa, m < 32 → n < 32 →
      let r := 32 * (t / d.gridCols) + m
      let k := 32 * (t % d.gridCols) + n
      r < d.drows → k < d.dcols → paOf d.pagesA (d.baseA + k * d.bpitch + r * d.bsize) = some pa →
      0 < d.dsize → d.dsize = d.bsize →
      ((((s.tileBytes d t).1.getD m ([], [])).1.drop (n * d.dsize)).take d.dsize) =
        (List.range d.dsize).map (fun i => s.mem.byte (pa + i))) ∧
    (d.rule = 2 → d.baseB = 0 → d.bfmt = 5 → d.dfmt = 5 → ∀ m, m < 32 →
      let r := 32 * t + m
      r < d.rows →
      let x (j : Nat) : Int := match paOf d.pagesA (d.baseA + r * d.bpitch + j * 4) with
        | some pa => (BitVec.ofNat 32 (leNat ((List.range 4).map (fun i => s.mem.byte (pa + i))))).toInt
        | none => 0
      let sum := (List.range d.cols).foldl (fun a j => a + x j) 0
      leNat ((((s.tileBytes d t).1.getD 0 ([], [])).1.drop (4 * m)).take 4) =
        if d.env.satn then (max (-2147483648) (min 2147483647 sum) % 4294967296).toNat else (sum % 4294967296).toNat)

/-- R39, R41 (02): a source element x(i, j): base A's element, an integer as a signed number, a subnormal read as zero under FTZ; with
a second base the exact sum of both, by the rules of reductions for NaN and infinity. That this sum itself is not flushed under FTZ is
the model's choice (log 47). -/
def Sys2Proof.Claim.SourceElements : Prop :=
  ∀ (s : State) (d : Deriv) (i j : Nat),
    let at_ (ps : List PageMap) (base : Nat) : Nat := match paOf ps (base + i * d.bpitch + j * d.bsize) with
      | some pa => leNat ((List.range d.bsize).map (fun k => s.mem.byte (pa + k)))
      | none => 0
    let a := at_ d.pagesA d.baseA
    let b := at_ d.pagesB d.baseB
    let int (x : Nat) : Int := if x < 2 ^ (8 * d.bsize - 1) then (x : Int) else (x : Int) - 2 ^ (8 * d.bsize)
    let x := (s.sourceElem d i j).1
    (5 ≤ d.bfmt → x = .int (if d.baseB = 0 then int a else int a + int b)) ∧
    ∀ f, [FFmt.f32, .f16, .bf16, .fE4m3, .fE5m2][d.bfmt]? = some f →
      (d.baseB = 0 → x = .flt (f.operand d.env a)) ∧
      (d.baseB ≠ 0 →
        (∀ s m e t n g, f.operand d.env a = .num s m e → f.operand d.env b = .num t n g → ∃ r k h, x = .flt (.num r k h) ∧
          (k = 0 → r = if s = t then s else d.env.rm == 3) ∧ ∀ q, q ≤ e → q ≤ g → q ≤ h →
            (FVal.num r k h).units q = (FVal.num s m e).units q + (FVal.num t n g).units q) ∧
        ((f.operand d.env a).isNan = true ∨ (f.operand d.env b).isNan = true ∨
          (∃ s, f.operand d.env a = .inf s ∧ f.operand d.env b = .inf (!s)) → x.isNan = true) ∧
        (∀ s, (f.operand d.env a = .inf s ∧ (f.operand d.env b).isNan = false ∧ f.operand d.env b ≠ .inf (!s)) ∨
          (f.operand d.env b = .inf s ∧ (f.operand d.env a).isNan = false ∧ f.operand d.env a ≠ .inf (!s)) → x = .flt (.inf s)))

/-- R41 (02), R131, R126 (07): the conversions, sums and quantisation of the rules. cvt: a floating value rounded once, to an integer by
FVal.toInt; an integer rounded once, or wrapped, or at the nearest limit under SAT; an infinity and a NaN as CV.CVT. rsum: the exact
sum rounded once, an exact zero with sign − only where every input is −0.0 or under RD; NaN and both infinities give the canonical
NaN. QNT: the least scale code from 1 whose block scale reaches every magnitude of the block, else 255, and for each element the code of
the nearest magnitude. -/
def Sys2Proof.Claim.ElementRules : Prop :=
  let floats : List FFmt := [.f32, .f16, .bf16, .fE4m3, .fE5m2]
  let wrap (sat : Bool) (n : Nat) (z : Int) : Nat :=
    let h : Int := (2 ^ (n - 1) : Nat)
    ((if sat then max (-h) (min (h - 1) z) else z) % (2 * h)).toNat
  let mags : List Nat := [21, 65, 111, 159, 213, 278, 362, 512]
  (∀ (v : FEnv) (c : Nat),
    (∀ n : Int, (∀ f, floats[c]? = some f → (Elem.int n).convert v c = (f.round v v.satn (decide (n < 0)) n.natAbs 0).1) ∧
      ∀ z, (c, z) ∈ [(5, 32), (6, 16), (7, 8)] → (Elem.int n).convert v c = wrap v.satn z n) ∧
    ∀ x : FVal, (∀ z, (c, z) ∈ [(5, 32), (6, 16), (7, 8)] → (Elem.flt x).convert v c = (x.toInt v true z).1) ∧
      ∀ f, floats[c]? = some f →
        (∀ s m e, x = .num s m e → (Elem.flt x).convert v c = (f.round v v.satn s m e).1) ∧
        (∀ s, x = .inf s → (Elem.flt x).convert v c =
          if !f.e4m3 then f.sign s f.infBits else if v.satn then f.sign s 0x7E else if v.nanc then 0x7F else f.sign s 0x7F) ∧
        (x.isNan = true → v.nanc = true → (Elem.flt x).convert v c = f.nanBits)) ∧
  (∀ (v : FEnv) (xs : List Elem), (∀ x ∈ xs, ∃ n, x = .int n) →
    sumElems v 5 xs = wrap v.satn 32 (xs.foldl (fun a x => match x with | .int n => a + n | .flt _ => a) 0)) ∧
  (∀ (v : FEnv) (c : Nat) (f : FFmt) (vs : List FVal), floats[c]? = some f →
    let r := sumElems v c (vs.map Elem.flt)
    ((∃ x ∈ vs, x.isNan = true) ∨ (.inf true ∈ vs ∧ .inf false ∈ vs) → r = f.nanBits) ∧
    (∀ s, .inf s ∈ vs → (∀ x ∈ vs, x.isNan = false) → .inf (!s) ∉ vs → f.e4m3 = false → r = f.sign s f.infBits) ∧
    ∀ q, (∀ x ∈ vs, ∃ s m e, x = .num s m e ∧ q ≤ e) → q ≤ 0 →
      let sum : Int := vs.foldl (fun a x => a + x.units q) 0
      (sum = 0 → r = f.sign (vs.all (fun x => match x with | .num s m _ => s && m == 0 | _ => false) || v.rm == 3) 0) ∧
      (sum ≠ 0 → r = (f.round v v.satn (decide (sum < 0)) sum.natAbs q).1)) ∧
  ∀ (super : Nat) (xs : List Elem), 0x00800000 ≤ super → super < 0x7F800000 → (∀ x ∈ xs, ∃ v, x = .flt v) →
    let beyond (x : Elem) (k : Nat) : Prop := match x, FFmt.f32.val (blockScale super k) with
      | .flt (.inf _), .num .. => True
      | .flt (.num _ m e), .num _ n g => ∃ q : Int, q ≤ e ∧ q ≤ g ∧ (FVal.num false n g).units q < (FVal.num false m e).units q
      | _, _ => False
    let c := scaleCode super (blockMax xs) 1 255
    1 ≤ c ∧ c ≤ 255 ∧ (∀ k, 1 ≤ k → k < c → ∃ x ∈ xs, beyond x k) ∧ (c < 255 → ∀ x ∈ xs, ¬ beyond x c) ∧
    ∀ x ∈ xs, let code (s : Bool) (i : Nat) : Nat := if s then 7 - i else 8 + i
      (∀ s, x = .flt (.inf s) → quantCode (FFmt.f32.val (blockScale super c)) x = code s 7) ∧
      (∀ s fr q, x = .flt (.nan s fr q) → quantCode (FFmt.f32.val (blockScale super c)) x = code s 7) ∧
      ∀ s n d, x = .flt (.num s n d) →
        (∀ t, FFmt.f32.val (blockScale super c) = .inf t → quantCode (.inf t) x = code s 7) ∧
        ∀ m e q, FFmt.f32.val (blockScale super c) = .num false m e → q ≤ e → q ≤ d →
          let y : Int := ((n * 2 ^ (d - q).toNat * 512 : Nat) : Int)
          let b : Int := ((m * 2 ^ (e - q).toNat : Nat) : Int)
          ∃ i, i < 8 ∧ quantCode (.num false m e) x = code s i ∧ ∀ j, j < 8 →
            (y - b * mags.getD i 0).natAbs ≤ (y - b * mags.getD j 0).natAbs ∧
            ((y - b * mags.getD i 0).natAbs = (y - b * mags.getD j 0).natAbs → i ≤ j)

/-- R41, R44 (02): where each element of a tile stands: element (r, k) of a matrix rule at row r, column k of its tile, element i of a
vector rule at its place among 32, a block's 64 codes two to a byte, the low nibble first, and its scale code beside. -/
def Sys2Proof.Claim.TilePlaces : Prop :=
  ∀ (s : State) (d : Deriv) (t m n : Nat), m < 32 → n < 32 →
    let x (i j : Nat) : Elem := (s.sourceElem d i j).1
    let row (k : Nat) : List Byte := ((s.tileBytes d t).1.getD k ([], [])).1
    let r := 32 * (t / d.gridCols) + m
    let k := 32 * (t % d.gridCols) + n
    (d.rule = 0 ∧ d.baseB ≠ 0 ∨ d.rule = 1 ∨ d.rule = 4 → r < d.drows → k < d.dcols →
      ((row m).drop (n * d.dsize)).take d.dsize =
        leBytes d.dsize ((if d.rule = 1 then x r k else x k r).convert d.env d.dfmt)) ∧
    (d.rule = 2 → r < d.rows → ((row 0).drop (m * d.dsize)).take d.dsize =
      leBytes d.dsize (sumElems d.env d.dfmt ((List.range d.cols).map (x r)))) ∧
    (d.rule = 3 → r < d.cols → ((row 0).drop (m * d.dsize)).take d.dsize =
      leBytes d.dsize (sumElems d.env d.dfmt ((List.range d.rows).map (fun i => x i r)))) ∧
    (d.rule = 5 → r < d.rows →
      let xs := (List.range 64).map (fun j => x r (64 * (t % d.gridCols) + j))
      let super := d.img / 2 ^ 416 % 2 ^ 32
      let c := scaleCode super (blockMax xs) 1 255
      let code (j : Nat) : Nat := quantCode (FFmt.f32.val (blockScale super c)) (xs.getD j (.int 0))
      (row m)[n]? = some (BitVec.ofNat 8 (code (2 * n) + 16 * code (2 * n + 1))) ∧
        ((s.tileBytes d t).2.getD m ([], [])).1 = [BitVec.ofNat 8 c])

/-- R39, R41, R44, R45, R50, R51 (02): recomputes and what they write. -/
def Obligations.RecomputeSteps : Prop :=
  Claim.Recomputes ∧ Claim.TileValues ∧ Claim.SourceElements ∧ Claim.ElementRules ∧ Claim.TilePlaces

/-! ## The host's registers (24 R362 to R371) -/

/-- A queue of a function is `y` now, and nothing else of the machine changed. -/
def Sys2Proof.Machine.QueueIs (s t : State) (fn q : Nat) (y : Queue) : Prop :=
  t.queue fn q = y ∧ (∀ m k, k < 64 → (m, k) ≠ (fn, q) → t.queue m k = s.queue m k) ∧ t = { s with queues := t.queues }
/-- A function's registers are `y` now, and nothing else of the machine changed. -/
def Sys2Proof.Machine.FnIs (s t : State) (fn : Nat) (y : Fn) : Prop :=
  t.fn fn = y ∧ (∀ m, m ≠ fn → t.fn m = s.fn m) ∧ t = { s with fns := t.fns }

/-- R368, R369, R380 (24): a kick moves the tail, and one below the last accepted or past the ring is ignored and sets KERR. A
write to QCFG enables the queue where its context is valid and the function's, LOG2N is legal and QFAULT lies in the share, else
it disables it, and drops an entry that it had read; RESTART takes a queue from HALTED or FAULTED back to running. A kick page reads 0,
and its other offsets, and writes of other sizes, are ignored (24 R369; that offset 0 reads 0 is log 30). R193 (10): DBGTEAM's resume
lets the team go on. -/
def Sys2Proof.Claim.QueueRegisters : Prop :=
  ∀ (s : State) (fn q : Nat), s.mode = .running → fn ≤ 16 → q < 64 →
    let x := s.queue fn q
    (∀ off, readKick fn q off = 0) ∧
    (∀ off n v, (off ≠ 0 ∨ n ≠ 8) → s.writeKick fn q off n v = s) ∧
    (∀ v, exec (.kick fn q v) s = .next (s.writeKick fn q 0 8 v)) ∧
    (∀ tail : DWord, (s.fn fn).reset = 0 →
      (tail.toNat < x.tail ∨ x.head + 2 ^ x.log2n < tail.toNat → Goes (.kick fn q tail) s (fun t =>
        QueueIs s t fn q { x with kerr := true })) ∧
      (x.tail ≤ tail.toNat → tail.toNat ≤ x.head + 2 ^ x.log2n → Goes (.kick fn q tail) s (fun t =>
        QueueIs s t fn q { x with tail := tail.toNat }))) ∧
    (∀ v : DWord,
      let n := v.toNat % 32
      let c := v.toNat / 32 % 2048
      let y := { x with log2n := n, ctx := c }
      let ok : Prop := (s.context c).v = true ∧ (s.context c).fn = fn ∧ 4 ≤ n ∧ n ≤ 16 ∧ x.fault % 64 = 0 ∧
        x.fault + 64 ≤ (if fn = 0 then 8388608 else 524288)
      Goes (.queueDisable fn q v) s (fun t => QueueIs s t fn q { y with enable := false, state := 3, got := none, half := none }) ∧
      (¬ ok → Goes (.queueEnable fn q v) s (fun t => QueueIs s t fn q { y with enable := false, state := 3, got := none, half := none }) ∧
        Goes (.queueRestart fn q v) s (fun t => QueueIs s t fn q { y with enable := false, state := 3, got := none, half := none })) ∧
      (ok → Goes (.queueEnable fn q v) s (fun t => QueueIs s t fn q { y with
          enable := true, state := if x.state = 3 then 0 else x.state }) ∧
        (x.state = 3 → Goes (.queueRestart fn q v) s (fun t => QueueIs s t fn q { y with enable := true, state := 0 })) ∧
        (x.state = 1 ∨ x.state = 2 → (s.fn fn).reset = 0 → Goes (.queueRestart fn q v) s (fun t => QueueIs s t fn q { y with
          enable := true, state := 0, status := 0 })))) ∧
    ((s.fn fn).dbgValid = true → ∀ u, SMap.find? s.teams (s.fn fn).dbgId = some u → Goes (.dbgteamResume fn) s (fun t =>
      SMap.find? t.teams (s.fn fn).dbgId = some { u with debug := false } ∧
      (∀ n, n ≠ (s.fn fn).dbgId → SMap.find? t.teams n = SMap.find? s.teams n) ∧
      t.fn fn = { s.fn fn with dbgValid := false } ∧ t = { s with teams := t.teams, fns := t.fns }))

/-- R365 (24), R338 (22): a half of a function's partition is written when no other function's partition overlaps the result and
the function has no team; the placement cursor then stands at the partition's first core. Otherwise nothing changes. -/
def Sys2Proof.Claim.Partitions : Prop :=
  ∀ (s : State) (fn : Nat) (high : Bool) (v : DWord), s.mode = .running → fn ≤ 16 →
    let old := (s.fn fn).part
    let part : BitVec 128 := if high then v ++ old.setWidth 64 else (old >>> 64).setWidth 64 ++ v
    let free : Prop := (∀ n, n ≤ 16 → n ≠ fn → (s.fn n).part &&& part = 0) ∧ s.hasTeams fn = false
    (free → Goes (.partWrite fn high v) s (fun t => ∃ c, FnIs s t fn { s.fn fn with part := part, cursor := c } ∧
      ∀ k, k < 256 → part.getLsbD (k / 2) = true → (∀ j, j < k → part.getLsbD (j / 2) = false) → c = k)) ∧
    (¬ free → exec (.partWrite fn high v) s = .next s)

/-- R364 to R371 (24): each register that a REGISTER_WRITE may write, by its offset: what it then holds, and that nothing else
changed. Offset 0x10_0000 stands for the page request allocation (01 R30; DESIGN CHOICE, log 30). -/
def Sys2Proof.Claim.Registers : Prop :=
  ∀ (s : State) (fn : Nat) (v : DWord), s.mode = .running → fn ≤ 16 →
    let f := s.fn fn
    let writes (n off : Nat) (p : State → Prop) : Prop := Goes (.registerWrite n off v) s p
    writes fn 0x10 (fun t => FnIs s t fn { f with debug := v.getLsbD 0 }) ∧
    writes fn 0x28 (fun t => FnIs s t fn { f with errcnt := f.errcnt &&& ~~~ v }) ∧
    writes fn 0x30 (fun t => FnIs s t fn { f with apEnable := v.getLsbD 63, apBase := v &&& 0x01FFFFFFFFFFF000#64 }) ∧
    writes fn 0x38 (fun t => FnIs s t fn { f with apCtx := v.toNat % 2048 }) ∧
    writes fn 0x100000 (fun t => FnIs s t fn { f with priAlloc := v.toNat }) ∧
    (∀ q, q < 64 →
      let x := s.queue fn q
      let at_ := 0x1000 + 64 * q
      writes fn at_ (fun t => QueueIs s t fn q { x with base := v }) ∧
      writes fn (at_ + 0x10) (fun t => QueueIs s t fn q (if x.state = 0 then x else { x with head := v.toNat, got := none, half := none })) ∧
      writes fn (at_ + 0x18) (fun t => QueueIs s t fn q (if v.getLsbD 12 then { x with kerr := false } else x)) ∧
      writes fn (at_ + 0x20) (fun t => QueueIs s t fn q { x with fault := v.toNat })) ∧
    (fn ≠ 0 → ∀ off, 0x80000 ≤ off → off ≠ 0x100000 → exec (.registerWrite fn off v) s = .next s) ∧
    writes 0 0x80008 (fun t => t = { s with invaddr := v }) ∧
    (s.entries.all (fun e => e.2.phase == .waiting || e.2.body.ty != 0) = true → writes 0 0x80020 (fun t =>
      t = { s with peerid := v.toNat % 4096, domsize := v.toNat / 65536 % 8192 })) ∧
    (∀ e ∈ s.entries, e.2.phase ≠ .waiting → e.2.body.ty = 0 → writes 0 0x80020 (fun t => t = s)) ∧
    writes 0 0x80028 (fun t => t = { s with sealaddr := v }) ∧
    (∀ k, k < 4 → s.sealtag.length = 32 → writes 0 (0x80040 + 8 * k) (fun t => t = { s with sealtag := t.sealtag } ∧
      ∀ i, i < 32 → t.sealtag.getD i 0 = if 8 * k ≤ i ∧ i < 8 * k + 8 then BitVec.ofNat 8 (v.toNat / 2 ^ (8 * (i - 8 * k)))
        else s.sealtag.getD i 0)) ∧
    writes 0 0x80060 (fun t => t = { s with attaddr := v }) ∧
    (∀ n, n < 17 →
      let g := s.fn n
      let at_ := 0x80100 + 64 * n
      (s.hasTeams n = false → writes 0 (at_ + 0x10) (fun t => FnIs s t n { g with saveBase := v }) ∧
        writes 0 (at_ + 0x18) (fun t => FnIs s t n { g with saveSize := v })) ∧
      writes 0 (at_ + 0x20) (fun t => FnIs s t n { g with tslice := v }) ∧
      writes 0 (at_ + 0x28) (fun t => FnIs s t n { g with mcgBase := v })) ∧
    (∀ c, c < 1088 →
      let only (t : State) (y : Ctx) : Prop := t.context c = y ∧ (∀ k, k ≠ c → t.context k = s.context k) ∧
        t = { s with contexts := t.contexts }
      writes 0 (0x90000 + 16 * c) (fun t => only t { s.context c with root := v.toNat / 4096 % 2 ^ 36 }) ∧
      writes 0 (0x90000 + 16 * c + 8) (fun t => only t { s.context c with
        pasid := BitVec.ofNat 20 (v.toNat / 2 ^ 44), pri := v.getLsbD 39, svm := v.getLsbD 38, fn := v.toNat / 2 ^ 33 % 32
        v := v.getLsbD 32 })) ∧
    (∀ p, p < 4096 →
      let old := SMap.getD s.routes p 0
      let only (t : State) (y : BitVec 128) : Prop := SMap.getD t.routes p 0 = y ∧
        (∀ k, k ≠ p → SMap.getD t.routes k 0 = SMap.getD s.routes k 0) ∧ t = { s with routes := t.routes }
      writes 0 (0xA0000 + 16 * p) (fun t => only t ((old >>> 64).setWidth 64 ++ v)) ∧
      writes 0 (0xA0000 + 16 * p + 8) (fun t => only t (v ++ old.setWidth 64)))

/-- R4 (00), R358 (23), R365 to R371, R373 (24), R167 (09): what the host reads of each register, field by field; BUSY of PREEMPT reads
1 while a team of the last command is still to be saved (R369). Reserved fields,
write-only fields and offsets that name no register read 0, and so does everything from 0x8_0000 up of a virtual function. ID
reports the compatibility mask, 0b01. -/
def Sys2Proof.Claim.RegisterReads : Prop :=
  ∀ (s : State) (fn : Nat), s.mode = .running → fn ≤ 16 →
    let f := s.fn fn
    let num (off : Nat) : Nat := (s.readReg fn off).toNat
    let bit (b : Bool) (k : Nat) : Nat := if b then 2 ^ k else 0
    num 0 % 2 ^ 32 = Config.stepping.toNat ∧ num 0 / 2 ^ 32 = 1 ∧ num 0x10 = bit f.debug 0 ∧ s.readReg fn 0x18 = f.dbgPc ∧
    num 0x20 = f.dbgTeam.toNat + bit f.dbgValid 32 ∧ s.readReg fn 0x28 = f.errcnt ∧
    s.readReg fn 0x30 = (f.apBase ||| if f.apEnable then 0x8000000000000000#64 else 0) ∧ num 0x38 = f.apCtx % 2 ^ 64 ∧
    (∀ off, 0x40 ≤ off → off < 0x1000 → s.readReg fn off = 0) ∧
    (∀ q, q < 64 →
      let x := s.queue fn q
      let at_ := 0x1000 + 64 * q
      s.readReg fn at_ = x.base ∧
      (x.log2n < 32 → x.ctx < 2048 → num (at_ + 8) = x.log2n + 32 * x.ctx + bit x.enable 16) ∧
      num (at_ + 0x10) = x.head % 2 ^ 64 ∧
      (x.state < 4 → x.status < 8 → num (at_ + 0x18) = x.state + 256 * x.status + bit x.kerr 12) ∧
      num (at_ + 0x20) = x.fault % 2 ^ 64 ∧ (∀ o, 0x28 ≤ o → o < 64 → s.readReg fn (at_ + o) = 0)) ∧
    (∀ off, 0x2000 ≤ off → off < 0x80000 → s.readReg fn off = 0) ∧
    (fn ≠ 0 → ∀ off, 0x80000 ≤ off → s.readReg fn off = 0) ∧
    (fn = 0 →
      num 0x80000 = 2 ^ 32 * s.vfrstBusy.toNat + 2 ^ 16 * s.vfrstDone.toNat ∧ s.readReg fn 0x80008 = s.invaddr ∧
      s.readReg fn 0x80010 = s.invcmd ∧ 
      (s.preempt.getLsbD 63 = false → num 0x80018 = s.preempt.toNat +
        bit (s.preemptFor.any (fun i => ((SMap.find? s.teams i).bind (·.save)).isSome)) 63) ∧
      (s.peerid < 4096 → s.domsize < 8192 → num 0x80020 = s.peerid + 2 ^ 16 * s.domsize) ∧ s.readReg fn 0x80028 = s.sealaddr ∧
      s.readReg fn 0x80030 = s.sealcmd ∧ s.readReg fn 0x80060 = s.attaddr ∧ s.readReg fn 0x80068 = 0 ∧
      (s.sealtag.length = 32 → ∀ k i, k < 4 → i < 8 → num (0x80040 + 8 * k) / 2 ^ (8 * i) % 256 = (s.sealtag.getD (8 * k + i) 0).toNat) ∧
      (∀ n, n < 17 →
        let g := s.fn n
        let at_ := 0x80100 + 64 * n
        num at_ + 2 ^ 64 * num (at_ + 8) = g.part.toNat ∧ s.readReg fn (at_ + 0x10) = g.saveBase ∧
        s.readReg fn (at_ + 0x18) = g.saveSize ∧ s.readReg fn (at_ + 0x20) = g.tslice ∧ s.readReg fn (at_ + 0x28) = g.mcgBase ∧
        ∀ o, 0x30 ≤ o → o < 64 → s.readReg fn (at_ + o) = 0) ∧
      (∀ c, c < 1088 →
        let x := s.context c
        (x.root < 2 ^ 36 → num (0x90000 + 16 * c) = 4096 * x.root) ∧
        (x.fn < 32 → num (0x90000 + 16 * c + 8) = 2 ^ 44 * x.pasid.toNat + bit x.pri 39 + bit x.svm 38 + 2 ^ 33 * x.fn + bit x.v 32)) ∧
      ∀ p, p < 4096 → num (0xA0000 + 16 * p) + 2 ^ 64 * num (0xA0000 + 16 * p + 8) = (SMap.getD s.routes p 0).toNat)

/-- R373, R374 (24), R168 (09): a write to SEALCMD sets BUSY, and while it is set another is ignored; when the command ends, a seal
has written the TAG of the host's bytes, the KMAC256 of SP 800-185 of the device's key under "Celpoiz cache", to SEALTAG, a check has set
MISMATCH where it differs, and BUSY is clear. ATTCMD writes a report of 354 bytes to the host, with the nonce it read there; management's
attestation gives one for its own nonce. -/
def Sys2Proof.Claim.SealAndAttest : Prop :=
  ∀ s : State, s.mode = .running →
    let len (n : Nat) : Nat := n % 2 ^ 40
    let tag (a n : Nat) : List Byte := kmac256 (Config.sealingKey s.measurement)
      ((List.range (len n)).map (fun i => s.host.byte (a + i))) [0x43, 0x65, 0x6C, 0x70, 0x6F, 0x69, 0x7A, 0x20, 0x63, 0x61, 0x63, 0x68, 0x65] 32
    let cmd (t : State) (n op mismatch busy : Nat) : Prop := t.sealcmd.toNat % 2 ^ 40 = len n ∧ t.sealcmd.toNat / 2 ^ 40 % 2 ^ 21 = 0 ∧
      t.sealcmd.toNat / 2 ^ 62 % 2 = op ∧ t.sealcmd.toNat / 2 ^ 61 % 2 = mismatch ∧ t.sealcmd.toNat / 2 ^ 63 = busy
    let reported (nonce bs : List Byte) : Prop := bs.length = 354 ∧ bs.take 4 = [0x58, 0x41, 0x54, 0x00] ∧
      leNat ((bs.drop 4).take 4) = Config.stepping.toNat ∧ (∀ i, 8 ≤ i → i < 16 → bs.getD i 0 = 0) ∧
      (∀ i, i < 32 → bs.getD (16 + i) 0 = nonce.getD i 0) ∧ (∀ i, i < 64 → bs.getD (48 + i) 0 = s.measurement.getD i 0) ∧
      (∀ i, i < 64 → bs.getD (112 + i) 0 = (shake256 s.ownerKeys.flatten 64).getD i 0) ∧
      (∀ i, i < 57 → bs.getD (176 + i) 0 = Config.identityKey i) ∧ (∀ i, 233 ≤ i → i < 240 → bs.getD i 0 = 0) ∧
      ∀ i, i < 114 → bs.getD (240 + i) 0 = Config.identitySign (bs.take 240) i
    (∀ n, s.sealJob ≠ none → exec (.seal n) s = .next s ∧ exec (.sealCheck n) s = .next s) ∧
    (∀ n, s.sealJob = none → Goes (.seal n) s (fun t => cmd t n 0 0 1 ∧ t.sealJob = some s.sealaddr.toNat ∧
        t = { s with sealcmd := t.sealcmd, sealJob := t.sealJob }) ∧
      Goes (.sealCheck n) s (fun t => cmd t n 1 0 1 ∧ t.sealJob = some s.sealaddr.toNat ∧
        t = { s with sealcmd := t.sealcmd, sealJob := t.sealJob })) ∧
    (∀ a, s.sealJob = some a →
      let n := s.sealcmd.toNat
      let t := s.sealDone
      t.sealJob = none ∧ t = { s with sealcmd := t.sealcmd, sealJob := none, sealtag := t.sealtag } ∧
      (s.sealcmd.getLsbD 62 = false → cmd t n 0 0 0 ∧ t.sealtag = tag a n) ∧
      (s.sealcmd.getLsbD 62 = true → cmd t n 1 (if tag a n = s.sealtag then 0 else 1) 0 ∧ t.sealtag = s.sealtag)) ∧
    (∀ v : DWord, v ≠ 1 → exec (.attcmd v) s = .next s) ∧
    (s.measurement.length = 64 →
      (∀ nonce, Goes (.pldmAttest nonce) s (fun t => reported nonce t.hostReply ∧ t = { s with hostReply := t.hostReply })) ∧
      Goes (.attcmd 1) s (fun t => ∃ bs, reported ((List.range 32).map (fun i => s.host.byte (s.attaddr.toNat + i))) bs ∧
        Wrote s.host t.host (s.attaddr.toNat + 64) bs ∧ t.mem = s.mem))

/-- R9 (01), R372, R374, R375 (24): the host link's other inputs, those of management and of the module's monitors, are always
answered, whatever the module does at the moment. -/
def Sys2Proof.Claim.InputsAnswered : Prop :=
  ∀ s : State,
    Goes .moduleReset s (fun t => t.host = s.host ∧ t.ownerKeys = s.ownerKeys ∧ t.teams = [] ∧ t.reqs = []) ∧
    (∀ a n, Goes (.firmwareStage a n) s (fun t => t.host = s.host ∧ t.ownerKeys = s.ownerKeys ∧ (s.mode = .powerOff → t = s))) ∧
    (∀ v, Goes (.attcmd v) s (fun t => t.mem = s.mem ∧ t.teams = s.teams ∧ (v ≠ 1 → t = s))) ∧
    (∀ n, Goes (.seal n) s (fun t => t.mem = s.mem ∧ t.host = s.host ∧ t.sealtag = s.sealtag)) ∧
    (∀ n, Goes (.sealCheck n) s (fun t => t.mem = s.mem ∧ t.host = s.host ∧ t.sealtag = s.sealtag)) ∧
    (∀ k g, Goes (.pldmEnrollOwnerKey k g) s (fun t => t = { s with ownerKeys := t.ownerKeys })) ∧
    (∀ k g, Goes (.pldmRemoveOwnerKey k g) s (fun t => t = { s with ownerKeys := t.ownerKeys })) ∧
    (∀ n, Goes (.pldmAttest n) s (fun t => t = { s with hostReply := t.hostReply })) ∧
    (∀ w, Goes (.pldmSetPowerLimit w) s (fun t => t = { s with powerLimit := t.powerLimit })) ∧
    (∀ r, Goes (.pldmSetScrubRate r) s (fun t => t = { s with scrubRate := t.scrubRate })) ∧
    Goes .thermalStop s (fun t => t = { s with thermalStop := t.thermalStop } ∧ (s.mode = .running → t.thermalStop = true)) ∧
    Goes .thermalResume s (fun t => t = { s with thermalStop := false }) ∧
    Goes .thermalShutdown s (fun t => t.mode = .powerOff ∧ t.host = s.host) ∧
    (∀ b, Goes (.withholdIssueCycles b) s (fun t => t = { s with withheld := t.withheld })) ∧
    (∀ c, Goes (.droopEvent c) s (fun t => t = { s with cores := t.cores, teams := t.teams })) ∧
    (∀ u bs, Goes (.softError u bs) s (fun t => t.host = s.host ∧ t.paths = s.paths ∧ t.reqs = s.reqs ∧ t.ops = s.ops)) ∧
    ∀ u, Goes (.patrolScrub u) s (fun t => t.mem = s.mem ∧ t.tiles = s.tiles ∧ t.groups = s.groups ∧ t.teams = s.teams)

/-- R362 to R371, R373, R374, R380 (24), R4 (00): the registers of the host link, and its commands. -/
def Obligations.HostRegisters : Prop :=
  Claim.QueueRegisters ∧ Claim.Partitions ∧ Claim.Registers ∧ Claim.RegisterReads ∧ Claim.SealAndAttest ∧ Claim.InputsAnswered

/-! ## Entries, launches and teams (22 R332 to R342; 03 R65, R66) -/

/-- R332 (22): where the fields of an entry's 128 bytes stand. -/
def Sys2Proof.Claim.EntryFields : Prop :=
  ∀ m : Nat, m < 2 ^ 1024 →
    let b := entryOf m
    let f (lo n : Nat) : Nat := m / 2 ^ lo % 2 ^ n
    b.ty = f 848 4 ∧ b.prio = f 846 2 ∧ (b.coop = true ↔ f 845 1 = 1) ∧ (b.twin = true ↔ f 844 1 = 1) ∧ b.gw = f 841 3 ∧
    b.regs = f 832 9 ∧ b.image.toNat = f 800 32 ∧ b.wdog = f 768 32 ∧ b.spad = f 736 32 ∧ b.acc = f 720 8 ∧
    b.tdz = f 704 16 ∧ b.tdy = f 688 16 ∧ b.tdx = f 672 16 ∧ b.gz = f 640 32 ∧ b.gy = f 608 32 ∧ b.gx = f 576 32 ∧
    b.w1val.toNat = f 512 64 ∧ b.w1addr.toNat = f 448 64 ∧ b.w0val.toNat = f 384 64 ∧ b.w0addr.toNat = f 320 64 ∧
    b.csval.toNat = f 256 64 ∧ b.csaddr.toNat = f 192 64 ∧ b.argp.toNat = f 128 64 ∧ b.trappc.toNat = f 64 64 ∧
    b.pc.toNat = f 0 64

/-- R62, R64, R65 (03): the granules and the partition word that a launch takes on each core, and where a word of the pool, and a
granule, lie. -/
def Sys2Proof.Claim.Pool : Prop :=
  (∀ b : EntryRec, b.acc ≤ 192 → 1 ≤ b.regs → b.regs ≤ 256 →
    let up (n k : Nat) : Nat := (n + k - 1) / k
    let half (n : Nat) : Nat := if b.twin = true then (n + 1) / 2 else n
    let regg := up (8 * up b.regs 8) 128
    let lsets := up (half b.lanes) 32
    let spadg := up b.spad (if b.twin = true then 32768 else 16384)
    let w := b.partWord.toNat
    b.kinds = (lsets * regg, spadg, b.acc) ∧ b.need = lsets * regg + spadg + b.acc ∧ b.coreLanes = half b.lanes ∧
    (spadg ≤ 192 → lsets ≤ 32 → w < 2 ^ 48 ∧ w / 2 ^ 40 = b.acc ∧ w / 2 ^ 32 % 256 = spadg ∧ w / 2 ^ 24 % 256 = regg ∧
      w / 2 ^ 12 % 2 ^ 12 = lsets ∧ w % 2 ^ 12 = if b.twin = true then 1 else 0)) ∧
  (∀ w, w < 786432 → (poolPlace w).1 = w % 48 ∧ (poolPlace w).2 = w / 48) ∧
  (∀ (r : Runs) (off row : Nat), (r.spadWord off) = 4096 * r.spad + off / 4 ∧ r.rowGranule row = r.acc + row / 64)

/-- What an entry of 128 bytes, read as `m`, is when it is checked (22 R333, R334; 03 R65), the state being `r`: waiting in its queue,
where every check holds; or the reason why the queue stops; or kept, while a translation of it is on its way, or held at an entry of a
page table in a derived tile that is not VALID (02 R49). LAUNCHNO, `seq`, is QHEAD at the fetch (the model's choice, log 69). -/
def Sys2Proof.Machine.EntryTaken (r : State) (fn q m : Nat) (i : Instr) (s : State) : Prop :=
  let x := r.queue fn q
  let ts := r.entryTrans x.ctx (entryOf m)
  let onWay (c : QTrans × Bool) : Prop := (∃ va, c.1 = .wait va) ∨ ∃ p, c.1 = .held p
  let stops (t : State) (st : Nat) : Prop := (t.queue fn q).status = st ∧ (t.queue fn q).state = 1 ∧ (t.queue fn q).got = none ∧
    (t.queue fn q).half = none ∧ (t.queue fn q).head = x.head + 1 ∧ t.entries = s.entries ∧ t.teams = s.teams
  (entryOk m = false → Goes i s (fun t => stops t 2)) ∧
  (entryOk m = true →
    ((∃ c ∈ ts, onWay c) → Goes i s (fun t => t.queue fn q = { x with got := some m, half := none } ∧ t.entries = s.entries ∧
      t.teams = s.teams ∧ t.tlb = r.tlb ∧ ∃ c ∈ ts,
        (∃ va, c.1 = .wait va ∧ ((∀ die, (r.walks.filter (fun e => e.2.core / 64 == die)).length < 4096) →
          ∃ w ∈ t.walks, w.2.core = queueUnit ∧ w.2.ctx = x.ctx ∧ w.2.page = va / 4096)) ∨
        ∃ p, c.1 = .held p ∧ ∀ y ∈ r.notValid p 8, t.tileState y.1.handle y.2 =
          if r.tileState y.1.handle y.2 = none then some .computing else r.tileState y.1.handle y.2)) ∧
    ((∀ c ∈ ts, ¬ onWay c) →
      ((∃ c ∈ ts, c.2 = false) → Goes i s (fun t => stops t 2)) ∧
      ((∀ c ∈ ts, c.2 = true) → (entryOf m).ty = 0 → r.tooLarge fn (entryOf m) = true → Goes i s (fun t => stops t 1)) ∧
      ((∀ c ∈ ts, c.2 = true) → ((entryOf m).ty = 0 → r.tooLarge fn (entryOf m) = false) →
        Goes i s (fun t => (∃ n e, s.nextId ≤ n ∧ SMap.find? t.entries n = some e ∧ e.body = entryOf m ∧ e.fn = fn ∧ e.q = q ∧ e.seq = x.head ∧ e.ctx = x.ctx ∧ e.phase = .waiting ∧ e.placed = 0 ∧
          e.retired = 0 ∧ e.fault = none ∧ e.wdLeft = (entryOf m).wdog ∧ (e.w0ok = true ↔ (entryOf m).w0addr = 0) ∧
          (e.w1ok = true ↔ (entryOf m).w1addr = 0)) ∧
          t.queue fn q = { x with head := x.head + 1, got := none, half := none } ∧ t.teams = s.teams))))

/-- R333, R334 (22), R13 (01), R49 (02), R65 (03): a queue that may read its next entry reads 128 bytes at its ring's slot, once, in two
steps of 64 bytes, the lower first: an entry whose
check waits for a translation is kept, and checked again without another read. A read of a derived tile that is not VALID is held, and
starts its recompute. An entry that meets every check stands in the queue, waiting; one that breaks a rule of the record, or does not
translate, stops the queue with RECORD-INVALID; a launch that fits on no empty core stops it with TOO-LARGE. Either way QHEAD counts
it. -/
def Sys2Proof.Claim.Fetching : Prop :=
  ∀ (s : State) (fn q : Nat),
    let x := s.queue fn q
    let a := (x.base + BitVec.ofNat 64 (128 * (x.head % 2 ^ x.log2n) + if x.half = none then 0 else 64)).toNat
    let tiles (t : State) (pa n : Nat) : Prop := ∀ y ∈ s.notValid pa n, t.tileState y.1.handle y.2 =
      if s.tileState y.1.handle y.2 = none then some .computing else s.tileState y.1.handle y.2
    let gets (r : State) (m : Nat) : Prop :=
      (x.half = none → Goes (.entryFetch fn q) s (fun t => t.queue fn q = { x with half := some m } ∧ t.entries = s.entries ∧
        t.teams = s.teams ∧ t.mem = r.mem)) ∧
      ∀ lo, x.half = some lo → EntryTaken r fn q (lo + 2 ^ 512 * m) (.entryFetch fn q) s
    let stops (t : State) : Prop := (t.queue fn q).status = 2 ∧ (t.queue fn q).state = 1 ∧ (t.queue fn q).half = none ∧
      (t.queue fn q).head = x.head + 1 ∧ t.entries = s.entries ∧ t.teams = s.teams
    (s.mayFetch fn q = true ↔ x.enable = true ∧ x.state = 0 ∧ x.head < x.tail ∧ (s.fn fn).reset = 0 ∧
      ∀ e ∈ s.entries, e.2.fn = fn → e.2.q = q → e.2.phase = .started) ∧
    (s.mayFetch fn q = false → exec (.entryFetch fn q) s = .next s) ∧
    (s.mayFetch fn q = true →
      (∀ m, x.got = some m → EntryTaken s fn q m (.entryFetch fn q) s) ∧
      (x.got = none →
        (s.queueTrans x.ctx a .read = .refused → Goes (.entryFetch fn q) s stops) ∧
        (∀ va, s.queueTrans x.ctx a .read = .wait va → Goes (.entryFetch fn q) s (fun t => t.queues = s.queues ∧
          t.entries = s.entries ∧ t.mem = s.mem ∧ t.tlb = s.tlb)) ∧
        (∀ p, s.queueTrans x.ctx a .read = .held p → Goes (.entryFetch fn q) s (fun t => t.queues = s.queues ∧
          t.entries = s.entries ∧ t.mem = s.mem ∧ tiles t p 8)) ∧
        (∀ tgt leaf pte, s.queueTrans x.ctx a .read = .at_ tgt leaf pte →
          let r := match pte with | some p => s.setAccessed p | none => s
          (∀ p b, tgt = .peer p b → Goes (.entryFetch fn q) s stops) ∧
          (∀ ha, tgt = .host ha →
            gets r (leNat ((List.range 64).map (fun i => r.host.byte (ha + i))))) ∧
          (∀ pa, tgt = .dev pa →
            (s.notValid pa 64 ≠ [] → Goes (.entryFetch fn q) s (fun t => t.queues = s.queues ∧ t.entries = s.entries ∧
              t.mem = s.mem ∧ tiles t pa 64)) ∧
            (s.notValid pa 64 = [] →
              ((∃ i, i < 64 ∧ r.badByte (pa + i) = true) → Goes (.entryFetch fn q) s stops) ∧
              ((∀ i, i < 64 → r.badByte (pa + i) = false) →
                gets r (leNat ((List.range 64).map (fun i => r.mem.byte (pa + i))))))))))

/-- An entry that may start (22 R334 to R336): it waits, its queue runs, no reset holds it, its stamps hold, and every earlier
entry of the queue has started, those that are no launches having ended. -/
def Sys2Proof.Machine.MayStart (s : State) (id : Nat) (e : Entry) : Prop :=
  SMap.find? s.entries id = some e ∧ e.phase = .waiting ∧ (s.queue e.fn e.q).state = 0 ∧ (s.fn e.fn).reset = 0 ∧ e.w0ok = true ∧
    e.w1ok = true ∧ ∀ n ∈ s.entries, n.2.fn = e.fn → n.2.q = e.q → n.1 < id → n.2.phase = .started ∧ n.2.body.ty = 0
/-- An entry ends (22 R334): it is no longer listed, nor anything of it; its stamp of eight bytes is written, where it has one. -/
def Sys2Proof.Machine.EndsEntry (s t : State) (id : Nat) (e : Entry) : Prop :=
  SMap.find? t.entries id = none ∧ (∀ n, n ≠ id → SMap.find? t.entries n = SMap.find? s.entries n) ∧
    (∀ u ∈ t.teams, u.2.entry ≠ id) ∧ (∀ o ∈ t.ops, o.2.entry ≠ id) ∧ t.host = s.host ∧ t.queues = s.queues ∧
    if e.body.csaddr = 0 then t.mem = s.mem else Wrote s.mem t.mem e.csPa (leBytes 8 e.body.csval.toNat)
/-- The stamp of an entry can be written: it has none, or its bytes are no derived frame and no recompute holds writes there. -/
def Sys2Proof.Machine.StampFree (s : State) (e : Entry) : Prop :=
  e.body.csaddr = 0 ∨ (s.writesHeld e.csPa 8 = false ∧ s.derivedFrame e.csPa = false)

/-- R335, R336 (22): a stamp wait holds once its eight bytes reach its value. A LAUNCH that may start becomes pending; BARRIER
and FLUSH start, and complete after every earlier entry, FLUSH once their writes are visible; STAMP completes at once. R342: a launch
completes when its last team has retired and all its work has taken effect, and its stamp is written. -/
def Sys2Proof.Claim.EntryEvents : Prop :=
  ∀ (s : State) (id : Nat) (e : Entry), SMap.find? s.entries id = some e →
    (∀ second, e.phase = .waiting →
      let pa := if second then e.w1Pa else e.w0Pa
      let v := if second then e.body.w1val else e.body.w0val
      (s.notValid pa 8 ≠ [] → Goes (.stampWaitHolds id second) s (fun t => t.entries = s.entries ∧ t.mem = s.mem ∧
        ∀ y ∈ s.notValid pa 8, t.tileState y.1.handle y.2 =
          if s.tileState y.1.handle y.2 = none then some .computing else s.tileState y.1.handle y.2)) ∧
      (s.notValid pa 8 = [] →
      (v.toNat ≤ leNat ((List.range 8).map (fun i => s.mem.byte (pa + i))) → Goes (.stampWaitHolds id second) s (fun t =>
        t = s.setEntry id (if second then { e with w1ok := true } else { e with w0ok := true }))) ∧
      (leNat ((List.range 8).map (fun i => s.mem.byte (pa + i))) < v.toNat → exec (.stampWaitHolds id second) s = .next s))) ∧
    (MayStart s id e → e.body.ty = 0 → Goes (.launch id) s (fun t => t = { s.setEntry id { e with
      phase := .started, order := s.nextId, pendSince := s.cycle } with nextId := s.nextId + 1 })) ∧
    (MayStart s id e →
      (e.body.ty = 1 → Goes (.barrier id) s (fun t => t = s.setEntry id { e with phase := .started })) ∧
      (e.body.ty = 2 → Goes (.flush id) s (fun t => t = s.setEntry id { e with phase := .started })) ∧
      (e.body.ty = 3 → StampFree s e → Goes (.stamp id) s (fun t => EndsEntry s t id e))) ∧
    (e.phase = .started → e.faults = [] → (s.fn e.fn).reset = 0 → StampFree s e →
      (e.body.ty = 1 → (∀ n ∈ s.entries, n.2.fn = e.fn → n.2.q = e.q → id ≤ n.1) →
        Goes (.barrier id) s (fun t => EndsEntry s t id e)) ∧
      (e.body.ty = 2 → (∀ n ∈ s.entries, n.2.fn = e.fn → n.2.q = e.q → id ≤ n.1 ∧ ∀ r ∈ s.reqs, r.2.entry = n.1 →
          r.2.entry = 0 ∨ r.2.writes = false ∨ r.2.value ≠ none) →
        Goes (.flush id) s (fun t => EndsEntry s t id e)) ∧
      ((∃ n ∈ s.entries, n.2.fn = e.fn ∧ n.2.q = e.q ∧ n.1 < id) →
        (e.body.ty = 1 → exec (.barrier id) s = .next s) ∧ (e.body.ty = 2 → exec (.flush id) s = .next s))) ∧
    (e.phase = .started → e.body.ty = 0 → e.faults = [] → e.fault = none → e.retired = e.body.total → StampFree s e →
      (∀ r ∈ s.reqs, r.2.entry = id → r.2.value ≠ none) → (∀ d ∈ s.deliveries, d.2.entry ≠ id) →
      Goes (.launchComplete id) s (fun t => EndsEntry s t id e))

/-- The granules of a team's share on a core form a run of each kind, free beside what was taken there (03 R66). -/
def Sys2Proof.Machine.RunsFree (used : List (Nat × Nat)) (r : Runs) (b : EntryRec) : Prop :=
  let apart (x y : Nat × Nat) : Prop := x.2 = 0 ∨ y.2 = 0 ∨ x.1 + x.2 ≤ y.1 ∨ y.1 + y.2 ≤ x.1
  (r.taken b).map (·.2) = [b.kinds.1, b.kinds.2.1, b.kinds.2.2] ∧ (r.taken b).Pairwise apart ∧
    ∀ k ∈ r.taken b, (k.2 ≠ 0 → k.1 + k.2 ≤ 192) ∧ ∀ u ∈ used, apart u k
/-- A team's runs on its core, and on the second of a twin pair, are free, and its cores' load buffers are empty (13 R254, R255). -/
def Sys2Proof.Machine.Housed (s t : State) (u : Team) (b : EntryRec) (c : Nat) : Prop :=
  RunsFree (s.coreUse c).runs u.runs0 b ∧ (t.core c).loads = [] ∧
    (b.twin = true → RunsFree (s.coreUse (c + 1)).runs u.runs1 b ∧ (t.core (c + 1)).loads = [])

/-- R337 to R340 (22), R66 (03), R86 (04), R106, R109 (06): the first team pending goes to the first core, from the cursor, that takes it: its
coordinates follow its place in the grid, it takes a free handle slot of its core with the next GEN, and each of its groups
starts at the launch's entry with all lanes, every register 0 (that its scratchpad and its accumulator start as zeros is the model's
choice, logs 3 and 4). Each kind of its granules is one free run, wherever
the core chooses (R66), and no line of before is left in its load buffer. R356 (23): a saved team goes on where it stopped, on its new core, with the poison of its image; what the image's code corrects is
corrected.
A team that does not fit is not placed, and nothing behind it but what a co-operative launch leaves. -/
def Sys2Proof.Claim.Placement : Prop :=
  ∀ (s : State) (fn : Nat) (p : Pending) (ps : List Pending) (e : Entry), (s.fn fn).reset = 0 → s.pendings fn = p :: ps →
    SMap.find? s.entries p.entry = some e →
    (p.teams = [] → p.count = 1 → ∀ c, s.spot e.fn e.body true = some c → Goes (.teamPlace fn) s (fun t =>
      ∃ u, SMap.find? t.teams s.nextId = some u ∧ u.entry = p.entry ∧ u.place = .resident ∧ u.home = c ∧ u.core = c ∧
        u.x = e.placed % e.body.gx ∧ u.y = e.placed / e.body.gx % e.body.gy ∧ u.z = e.placed / (e.body.gx * e.body.gy) ∧
        Housed s t u e.body c ∧ (∀ i, u.bar i = Barrier.zero) ∧ u.side0 = Side.zero ∧ u.side1 = Side.zero ∧ u.slot < 32 ∧
        (SMap.getD (s.core c).handles u.slot HandleSlot.free).team = none ∧
        u.gen = ((SMap.getD (s.core c).handles u.slot HandleSlot.free).gen + 1) % 65536 ∧
        SMap.getD (t.core c).handles u.slot HandleSlot.free = ⟨u.gen, some s.nextId⟩ ∧
        (∃ e', SMap.find? t.entries p.entry = some e' ∧ e'.placed = e.placed + 1 ∧ e'.phase = e.phase) ∧
        (t.fn e.fn).cursor = c + 1 ∧ t.mem = s.mem ∧
        ∀ k, k < e.body.groups → ∃ g q,
          SMap.find? t.groups (s.nextId + 1 + 2 * k) = some g ∧ SMap.find? t.paths (s.nextId + 2 + 2 * k) = some q ∧
          g.team = s.nextId ∧ g.idx = k ∧ g.core = (if e.body.twin ∧ k % 2 = 1 then c + 1 else c) ∧
          (∀ n l, g.vreg n l = 0) ∧ (∀ n, g.sreg n = 0) ∧ (∀ n, g.preds n = 0) ∧ g.q = 0 ∧ (∀ n, g.tag n = Tag.zero) ∧
          (∀ n, g.fold n = 0) ∧ g.exited = 0 ∧ g.abase = 0 ∧ g.alimit = e.body.accRows ∧
          q.grp = s.nextId + 1 + 2 * k ∧ q.pc = e.body.pc ∧ q.mask = lowLanes e.body.width ∧ q.exec = lowLanes e.body.width ∧
          q.fmt = 0 ∧ q.fstat = 0 ∧ q.frames = [] ∧ q.wait = .none)) ∧
    (∀ n u c, p.teams = [n] → SMap.find? s.teams n = some u → u.entry = p.entry → s.spot e.fn e.body false = some c →
      Goes (.teamPlace fn) s (fun t => (∃ v, SMap.find? t.teams n = some v ∧ v.core = c ∧ v.place = .resident ∧
        Housed s t v e.body c ∧ v.home = u.home ∧ v.slot = u.slot ∧ v.gen = u.gen ∧ v.bars = u.bars ∧ v.side0 = u.side0 ∧ v.resumes = u.resumes + 1) ∧
        t.mem = s.mem ∧ ∀ k x, SMap.find? s.groups k = some x → x.team = n → ∃ y, SMap.find? t.groups k = some y ∧
          y.v = x.v ∧ y.p = x.p ∧ y.q = x.q ∧ y.k = x.k ∧ y.f = x.f ∧ y.exited = x.exited ∧ (∀ b ∈ y.flips, b.1 < 65536) ∧
          ((∀ r ∈ s.paths, ∀ d a, r.2.wait = .monitor d a → d < 64) →
            ∀ n, n < 65536 ∨ 65600 ≤ n → (n ∈ y.bad ↔ n ∈ x.bad)))) ∧
    (p.coop = false → s.placeOne p = none → exec (.teamPlace fn) s = .next s)

/-- R189, R190 (10), R342 (22), R86 (04), R224 (11): a group whose lanes have all exited and whose tags count nothing retires; a
partner that waits at CL.SHTL for what it never supplied gets 0; with its last group the team ends and its handle slot is free again,
its GEN kept. -/
def Sys2Proof.Claim.Retirement : Prop :=
  ∀ (s : State) (grp : Nat) (g : Group) (u : Team) (e : Entry), SMap.rising s.groups = true → SMap.rising s.paths = true →
    SMap.find? s.groups grp = some g → SMap.find? s.teams g.team = some u → SMap.find? s.entries u.entry = some e → e.phase = .started → g.retired = false →
    (∀ p ∈ s.paths, p.2.grp ≠ grp) → (∀ n, n < 8 → (g.tag n).count = 0) → (∀ l, l < e.body.width → hasLane g.exited l = true) →
    let last : Prop := ∀ x ∈ s.groups, x.2.team = g.team → x.1 = grp ∨ x.2.retired = true
    Goes (.groupRetire grp) s (fun t => t.mem = s.mem ∧ t.ops = s.ops ∧
      (∃ h, SMap.find? t.groups grp = some h ∧ h = { g with retired := true, monitor := ⟨none, false⟩, fallback := none }) ∧
      (∀ h x, SMap.find? s.groups h = some x → h ≠ grp → (x.team ≠ g.team ∨ x.idx ≠ g.idx ^^^ 1 ∨ x.retired = true) →
        SMap.find? t.groups h = some x) ∧
      (∀ h x pid p n d m k, SMap.find? s.groups h = some x → x.team = g.team → x.idx = g.idx ^^^ 1 → x.retired = false →
        (∀ y ∈ s.groups, y.2.team = g.team → y.2.idx = g.idx ^^^ 1 → y.1 = h ∨ y.2.retired = true) → h ≠ grp →
        SMap.find? s.paths pid = some p → p.grp = h → p.wait = .shtl n d m k → g.shtlCount ≤ n →
        (∀ y ∈ s.paths, y.2.grp = h → (∃ n d m k, y.2.wait = .shtl n d m k) → y.1 = pid) →
        ∃ y r, SMap.find? t.groups h = some y ∧ SMap.find? t.paths pid = some r ∧ r.wait = .none ∧
          ∀ i, i < e.body.width → hasLane m i = true → ∀ v, d = some v → y.vreg v i = 0) ∧
      (¬ last → t.teams = s.teams ∧ t.entries = s.entries) ∧
      (last →
        SMap.find? t.teams g.team = some { u with place := .ended, save := none } ∧
        SMap.getD (t.core u.home).handles u.slot HandleSlot.free = ⟨u.gen, none⟩ ∧
        ∃ w, SMap.find? t.entries u.entry = some { e with retired := e.retired + 1, wdOn := w } ∧
          (e.retired + 1 = e.body.total → w = false)))

/-- R332 to R336, R342 (22), R65 (03): a queue's entries, from the ring to the completion stamp. -/
def Obligations.QueueEntries : Prop := Claim.EntryFields ∧ Claim.Fetching ∧ Claim.EntryEvents
/-- R62, R64 to R66 (03), R337 to R342 (22): the pool, the placement of teams and their retirement. -/
def Obligations.TeamPlacement : Prop := Claim.Pool ∧ Claim.Placement ∧ Claim.Retirement

/-! ## Faults, pre-emption and reset (22 R343 to R346; 23 R347 to R361) -/

/-- A launch drains after a fault (23 R351): the fault stands recorded, and none of its operations, nor what was to follow them, nor a
save of a team of it, goes on. -/
def Sys2Proof.Machine.Drains (s t : State) (id : Nat) (e : Entry) (f : FaultEv) (n : Nat) : Prop :=
  SMap.find? t.entries id = some { e with
      phase := .draining, fault := some f, faultAt := s.cycle, nfault := n, faults := [] } ∧
    (∀ o, o ∈ t.ops ↔ o ∈ s.ops ∧ o.2.entry ≠ id) ∧ (∀ u ∈ t.teams, u.2.entry = id → u.2.save = none) ∧ t.mem = s.mem ∧
    (∀ r, r ∈ t.reqs ↔ r ∈ s.reqs ∧ ∀ o ∈ s.ops, o.2.entry = id → o.1 ∉ r.2.after) ∧ t.groups = s.groups

/-- Two faults of one word (23 R353): poisoned accesses of its lanes that were found after it. -/
def Sys2Proof.Machine.OneWord (f g : FaultEv) : Prop :=
  f.code = .poison ∧ g.code = .poison ∧ f.precise = false ∧ g.precise = false ∧ f.lanes ≠ 0 ∧ g.lanes ≠ 0 ∧ f.word = g.word ∧ f.pc = g.pc
/-- What such faults are recorded as: one fault of every lane that met it, whose address is the lowest lane's. -/
def Sys2Proof.Machine.AsOne (f g h : FaultEv) : Prop :=
  h = { (if lowestLane g.lanes < lowestLane f.lanes then g else f) with lanes := f.lanes ||| g.lanes }

/-- R350, R351 (23): the first fault of a launch is recorded, of several the one of the lowest core, then the lowest code; the
others are counted, until the record is written. Poisoned accesses of lanes of one word are one fault, which names each lane (R353). R343 (22): so is WATCHDOG, once the count stood at 0 for a cycle. R351 to R353 (23): when nothing of the
launch is out at a peer, its work in flight is discarded, its record is written as one step of 64 bytes at QFAULT of its share,
and the queue stops as FAULTED. -/
def Sys2Proof.Claim.FaultEvents : Prop :=
  ∀ (s : State) (id : Nat) (e : Entry), SMap.find? s.entries id = some e → (s.fn e.fn).reset = 0 →
    (e.phase = .started → e.fault = none → e.faults ≠ [] → Goes (.faultRecorded id) s (fun t => ∃ f ∈ e.faults,
      (∀ g ∈ e.faults, f.core < g.core ∨ (f.core = g.core ∧ f.code.num ≤ g.code.num)) ∧
      Drains s t id e f (min 255 (e.faults.length - 1)))) ∧
    (e.phase ≠ .waiting → e.wdOn = true → e.wdLeft = 0 → 1 ≤ e.wdPhase →
      let wd (f : FaultEv) : Prop := f.code = .watchdog ∧ f.precise = false ∧ f.addr = 0 ∧ f.pc = 0 ∧ f.lanes = 0 ∧
        f.detail = 0 ∧ f.teamh = 0 ∧ f.core = 0
      (e.fault = none → Goes (.watchdog id) s (fun t => ∃ w f, wd w ∧ f ∈ w :: e.faults ∧
        (∀ g ∈ w :: e.faults, f.core < g.core ∨ (f.core = g.core ∧ f.code.num ≤ g.code.num)) ∧
        Drains s t id { e with wdOn := false } f (min 255 e.faults.length))) ∧
      (∀ f, e.fault = some f → Goes (.watchdog id) s (fun t => ∃ w g, wd w ∧ t = s.setEntry id { e with
          wdOn := false, nfault := min 255 (e.nfault + 1), fault := some g } ∧
        g = if e.faultAt = s.cycle ∧ (w.core < f.core ∨ (w.core = f.core ∧ w.code.num < f.code.num)) then w else f))) ∧
    (∀ (c : Nat) (f g : FaultEv), e.fault = some f → OneWord f g →
      ∃ h, AsOne f g h ∧ e.takeFault c g = { e with fault := some h }) ∧
    (∀ (c : Nat) (f g : FaultEv), e.fault = some f → ¬ OneWord f g → e.takeFault c g = { e with nfault := min 255 (e.nfault + 1), fault := some (
      if e.faultAt = c ∧ (g.core < f.core ∨ (g.core = f.core ∧ g.code.num < f.code.num)) then g else f) }) ∧
    (∀ (c : Nat) (g : FaultEv), e.fault = none → (∀ f ∈ e.faults, ¬ OneWord f g) →
      e.takeFault c g = { e with faults := e.faults ++ [g] }) ∧
    (∀ (c : Nat) (g f : FaultEv) (l m : List FaultEv), e.fault = none → e.faults = l ++ f :: m → OneWord f g →
      (∀ d ∈ l ++ m, ¬ OneWord d g) → ∃ h, AsOne f g h ∧ e.takeFault c g = { e with faults := l ++ h :: m }) ∧
    (∀ f, e.phase = .draining → e.fault = some f →
      let pa := (if e.fn = 0 then windowBase else windowBase + 524288 * (e.fn - 1)) + (s.queue e.fn e.q).fault
      (∀ r ∈ s.reqs, r.2.entry = id → r.2.value = none → r.2.doneAt = 1 → ∀ p a, r.2.tgt ≠ .peer p a) →
      s.writesHeld pa 64 = false → s.derivedFrame pa = false → Goes (.faultDrainDone id) s (fun t =>
        Wrote s.mem t.mem pa (leBytes 64 (faultRecord e f)) ∧ SMap.find? t.entries id = none ∧
        (∀ r ∈ t.reqs, r.2.entry ≠ id) ∧ (∀ d ∈ t.deliveries, d.2.entry ≠ id) ∧ (∀ u ∈ t.teams, u.2.entry ≠ id) ∧
        (t.queue e.fn e.q).status = 3 ∧ (t.queue e.fn e.q).state ≠ 0))

/-- R353 (23): where the fields of a fault record stand. -/
def Sys2Proof.Claim.FaultRecord : Prop :=
  ∀ (e : Entry) (f : FaultEv), e.q < 64 → e.fn ≤ 16 → f.core < 256 → f.grpid < 256 → e.nfault ≤ 255 →
    let r := faultRecord e f
    let b (lo n : Nat) : Nat := r / 2 ^ lo % 2 ^ n
    r < 2 ^ 512 ∧ b 448 64 = f.addr.toNat ∧ b 384 64 = f.pc.toNat ∧ b 320 64 = f.lanes.toNat ∧ b 288 32 = f.detail.toNat ∧
    b 256 32 = e.body.image.toNat ∧ b 224 32 = f.teamh.toNat ∧ b 192 32 = f.z % 2 ^ 32 ∧ b 160 32 = f.y % 2 ^ 32 ∧
    b 128 32 = f.x % 2 ^ 32 ∧ b 96 32 = e.seq % 2 ^ 32 ∧ b 88 8 = f.core ∧ b 80 8 = f.grpid ∧ b 72 8 = e.nfault ∧
    b 66 6 = (if f.lanes = 0 then 0 else lowestLane f.lanes) ∧ b 65 1 = 0 ∧ b 64 1 = (if f.precise then 1 else 0) ∧
    b 56 8 = 0 ∧ b 48 8 = e.q ∧ b 40 8 = e.fn ∧ b 8 32 = 0 ∧ b 0 8 = f.code.num ∧ 1 ≤ f.code.num ∧ f.code.num ≤ 18

/-- The saves of some teams are requested (22 R345). -/
def Sys2Proof.Machine.SavesAsked (t : State) (ts : List Nat) : Prop := ∀ i ∈ ts, ∃ u, SMap.find? t.teams i = some u ∧
  (u.place = .resident → u.halted = false → u.save.isSome = true)

/-- R344 (22): where something is pending that cannot be placed, or that something before it holds back, the unit that gives way to it is, for one of higher priority, the
one placed last of the lowest priority present, and, when its time slice is over, the one of its priority placed first. R369
(24): a PREEMPT command requests the saves of a team's unit or of a function's teams, or reports that no such team is there, or
that the images do not fit. R345: after 75,000 cycles the arms of a team stop at the end of their chains. -/
def Sys2Proof.Claim.PreemptRequests : Prop :=
  ∀ (s : State) (fn : Nat),
    (∀ p before after, (s.fn fn).reset = 0 → s.saving fn = false → s.pendings fn = before ++ p :: after →
      (before = [] → s.placeOne p = none) → (∀ h l, before = h :: l → s.placeOne h = none ∧ h.coop = false) →
      s.lacksSlotOnly p = false →
      (∀ u ∈ s.savable fn, s.imagesFit fn (s.unit u.1) = true) →
      ((∃ u ∈ s.savable fn, s.prioOf u.2 < p.prio) →
        (∀ b ∈ before, s.lacksSlotOnly b = true ∨ ∀ u ∈ s.savable fn, b.prio ≤ s.prioOf u.2) → Goes (.preemptRequest fn) s (fun t => ∃ v ∈ s.savable fn,
        s.prioOf v.2 < p.prio ∧ SavesAsked t (s.unit v.1) ∧ ∀ u ∈ s.savable fn, s.prioOf u.2 < p.prio →
          s.prioOf v.2 < s.prioOf u.2 ∨ (s.prioOf v.2 = s.prioOf u.2 ∧ u.2.placedOrd ≤ v.2.placedOrd))) ∧
      ((∃ u ∈ s.savable fn, s.prioOf u.2 = p.prio) → (s.fn fn).tslice ≠ 0 →
        p.since + 4096 * (s.fn fn).tslice.toNat < s.cycle →
        (∀ b ∈ before, s.lacksSlotOnly b = true ∨ s.cycle ≤ b.since + 4096 * (s.fn fn).tslice.toNat ∨
          ∀ u ∈ s.savable fn, s.prioOf u.2 ≠ b.prio) → Goes (.timeSliceExpire fn) s (fun t => ∃ v ∈ s.savable fn,
          s.prioOf v.2 = p.prio ∧ SavesAsked t (s.unit v.1) ∧ ∀ u ∈ s.savable fn, s.prioOf u.2 = p.prio →
            v.2.placedOrd ≤ u.2.placedOrd))) ∧
    (s.mode = .running → s.preemptBusy = false → fn < 32 →
      let res (t : State) (teamh : Word) (kind n : Nat) : Prop := t.preempt.toNat / 2 ^ 61 % 4 = n ∧
        t.preempt.toNat / 2 ^ 40 % 2 = kind ∧ t.preempt.toNat / 2 ^ 32 % 32 = fn ∧ t.preempt.toNat % 2 ^ 32 = teamh.toNat
      let fits (ts : List Nat) : Prop := s.imagesFit fn (ts.filter (fun i => (s.savable fn).any (fun u => u.1 == i))) = true
      let all := (s.teamsOf fn).map (·.1)
      (∀ h, (∀ u ∈ s.teamsOf fn, u.2.handle ≠ h) → Goes (.preemptTeam fn h) s (fun t => res t h 0 1 ∧ t.teams = s.teams)) ∧
      (∀ h i u, (s.teamsOf fn).find? (fun u => u.2.handle == h) = some (i, u) →
        (fits (s.unit i) → Goes (.preemptTeam fn h) s (fun t => res t h 0 0 ∧ ∀ k ∈ s.unit i, ∀ v, (k, v) ∈ s.savable fn →
          SMap.find? s.teams k = some v → ∃ w, SMap.find? t.teams k = some w ∧ w.save.isSome = true)) ∧
        (¬ fits (s.unit i) → Goes (.preemptTeam fn h) s (fun t => res t h 0 2 ∧ t.teams = s.teams))) ∧
      (fits all → Goes (.preemptFunction fn) s (fun t => res t 0 1 0 ∧ ∀ u ∈ s.savable fn, SMap.find? s.teams u.1 = some u.2 →
        ∃ w, SMap.find? t.teams u.1 = some w ∧ w.save.isSome = true)) ∧
      (¬ fits all → Goes (.preemptFunction fn) s (fun t => res t 0 1 2 ∧ t.teams = s.teams))) ∧
    (∀ tid u r, SMap.find? s.teams tid = some u → u.save = some r →
      (r.since + 75000 ≤ s.cycle → Goes (.preemptBoundExpire tid) s (fun t =>
        t = s.setTeam tid { u with save := some { r with bound := true } })) ∧
      (s.cycle < r.since + 75000 → exec (.preemptBoundExpire tid) s = .next s))

/-- R345, R346, R355 (22, 23), R147 (08): a team whose arms have stopped and whose work has drained is saved: each register, and
each accumulator row of a group's window, that the live masks of the group's arms name keeps its value and its poison, every other
reads 0 without poison, tags count nothing, and the team keeps its handle; its paths keep their place. A team that SY.BKPT stopped is
saved in full (10 R193). An arm has stopped only between chains (05 R103). -/
def Sys2Proof.Claim.Saving : Prop :=
  ∀ (s : State) (tid : Nat) (u : Team) (e : Entry) (r : SaveReq), SMap.rising s.groups = true → SMap.rising s.paths = true →
    SMap.find? s.teams tid = some u → SMap.find? s.entries u.entry = some e → e.body.coop = false → u.save = some r →
    (∀ q ∈ s.reqs, q.2.team = tid → q.2.path = .h) → (∀ o ∈ s.ops, o.2.team ≠ tid) →
    (∀ k g, SMap.find? s.groups k = some g → g.team = tid → ∀ n p, SMap.find? s.paths n = some p → p.grp = k →
      p.pos = 0 ∧ (p.safe.isSome = true ∨ (r.bound = true ∧ match p.wait with
        | .derive _ _ => False
        | .register _ => False
        | _ => True))) →
    let liveOf (k b : Nat) : Prop := r.full = true ∨ ∃ n p, SMap.find? s.paths n = some p ∧ p.grp = k ∧
      (p.safe.getD (BitVec.allOnes 64)).getLsbD b = true
    Goes (.preemptSave tid) s (fun t =>
      (∃ v, SMap.find? t.teams tid = some v ∧ v.place = .saved ∧ v.save = none ∧ v.home = u.home ∧ v.slot = u.slot ∧
        v.gen = u.gen ∧ v.bars = u.bars ∧ v.debug = u.debug ∧ v.resumes = u.resumes ∧ ∀ i, i < 2 → (v.side i).spad = (u.side i).spad ∧
        ∀ n, let kept : Prop := ∃ k g, SMap.find? s.groups k = some g ∧ g.team = tid ∧ g.retired = false ∧ g.side e.body = i ∧
            liveOf k 0 ∧ g.abase ≤ n / 64 ∧ n / 64 < g.alimit
          (kept → SMap.getD (v.side i).acc n 0 = SMap.getD (u.side i).acc n 0) ∧
          (¬ kept → SMap.getD (v.side i).acc n 0 = 0)) ∧ t.mem = s.mem ∧
      ∀ k g, SMap.find? s.groups k = some g → g.team = tid → g.retired = false → ∃ h, SMap.find? t.groups k = some h ∧
        let live (b : Nat) : Prop := liveOf k b
        (∀ n l, l < 64 → (live (24 + n / 8) → h.vreg n l = g.vreg n l) ∧ (¬ live (24 + n / 8) → h.vreg n l = 0)) ∧
        (∀ n, (live (16 + n / 8) → h.sreg n = g.sreg n) ∧ (¬ live (16 + n / 8) → h.sreg n = 0)) ∧
        (∀ n, (live (10 + n / 16) → h.preds n = g.preds n) ∧ (¬ live (10 + n / 16) → h.preds n = 0)) ∧
        ((live 16 → h.q = g.q) ∧ (¬ live 16 → h.q = 0)) ∧ (∀ n, (h.tag n).count = 0) ∧
        (∀ n, (live (2 + n) → (h.tag n).stat = (g.tag n).stat) ∧ (¬ live (2 + n) → (h.tag n).stat = 0)) ∧
        (∀ n, (live 1 → h.fold n = g.fold n) ∧ (¬ live 1 → h.fold n = 0)) ∧ h.exited = g.exited ∧ h.idx = g.idx ∧
        (∀ n l, n < 128 → l < 64 → (64 * n + l ∈ h.bad ↔ 64 * n + l ∈ g.bad ∧ live (24 + n / 8))) ∧
        (∀ n, n < 128 → (65536 + n ∈ h.bad ↔ 65536 + n ∈ g.bad ∧ live (16 + n / 8))) ∧
        ∀ n p, SMap.find? s.paths n = some p → p.grp = k → ∃ q, SMap.find? t.paths n = some q ∧ q.pc = p.pc ∧ q.mask = p.mask ∧
          q.exec = p.exec ∧ q.fmt = p.fmt ∧ q.fstat = p.fstat ∧ q.frames = p.frames ∧ q.wait = p.wait ∧ q.inHandler = p.inHandler)

/-- R358 to R361 (23), R15 (01), R30 (01): a reset of a virtual function, by VFRST or by its function-level reset, sets BUSY, and stops
and frees what the function has, each freed handle slot with the next GEN; no stamp, count or arrival of it lands that has not left the
module; a start while BUSY is set is ignored. Once its counters of accepted requests are 0 and no recompute of it runs, what it has left
on cores, in records and in translations is scrubbed; once no access uses what that invalidated, the reset ends: its queues stand at 0,
reset, with status RESET where entries were there, and DONE is set. After 50 ms the drain abandons what is still out at a peer. -/
def Sys2Proof.Claim.FunctionReset : Prop :=
  ∀ (s : State) (n : Nat), 1 ≤ n → n ≤ 16 →
    let bit (x : BitVec 16) : Bool := x.getLsbD (n - 1)
    let started (t : State) : Prop := bit t.vfrstBusy = true ∧ (t.fn n).reset ≠ 0 ∧ (t.fn n).resetAt = s.cycle ∧ t.mem = s.mem ∧
      t.host = s.host ∧ (∀ u ∈ t.teams, s.ofFn n u.2 = false) ∧ (∀ o ∈ t.ops, o.2.fn ≠ n) ∧
      (∀ e ∈ t.entries, e.2.fn = n → e.2.phase = .draining) ∧
      (∀ i e, SMap.find? s.entries i = some e → e.fn ≠ n → SMap.find? t.entries i = some e) ∧
      (∀ i u, SMap.find? s.teams i = some u → s.ofFn n u = false → SMap.find? t.teams i = some u) ∧
      (∀ i u, SMap.find? s.teams i = some u → s.ofFn n u = true → u.place ≠ .ended →
        (∀ j w, SMap.find? s.teams j = some w → w.place ≠ .ended → w.home = u.home →
          w.slot = u.slot → j = i) →
        SMap.getD (t.core u.home).handles u.slot HandleSlot.free = ⟨(u.gen + 1) % 65536, none⟩) ∧
      (∀ r ∈ t.reqs, r ∈ s.reqs ∧ (r.2.fn = n → r.2.entry ≠ 0 → r.2.value = none →
        s.signals r.2 = false ∨ (r.2.doneAt = 1 ∧ ∃ p a, r.2.tgt = .peer p a))) ∧
      (∀ w ∈ t.walks, (s.context w.2.ctx).fn ≠ n) ∧ (∀ i, i ≠ n - 1 → t.vfrstBusy.getLsbD i = s.vfrstBusy.getLsbD i)
    let scrubbed (t : State) : Prop := (∀ d ∈ t.derivs, d.fn ≠ n) ∧ (∀ r ∈ t.reqs, r.2.fn = n → r.2.entry = 0) ∧
      (∀ e ∈ t.tlb, (s.context e.ctx).fn ≠ n) ∧ (∀ c ∈ s.coresOf n, (t.core c).loads = []) ∧
      ∀ c, ∀ l ∈ (t.core c).code, (s.context l.ctx).fn ≠ n
    let ended (t : State) : Prop := bit t.vfrstBusy = false ∧ bit t.vfrstDone = true ∧ (t.fn n).reset = 0 ∧
      (∀ e ∈ t.entries, e.2.fn ≠ n) ∧ ∀ q, q < 64 → (t.queue n q).head = 0 ∧ (t.queue n q).tail = 0 ∧
        (t.queue n q).state = 2 ∧ (t.queue n q).got = none ∧ (t.queue n q).half = none ∧
        ((∃ e ∈ s.entries, e.2.fn = n ∧ e.2.q = q) → (t.queue n q).status = 4) ∧
        ((∀ e ∈ s.entries, e.2.fn = n → e.2.q ≠ q) → (t.queue n q).status = (s.queue n q).status)
    let clean (t : State) : Prop := ∀ i ∈ t.invals, i.kind = 2 + n → ∀ k ∈ i.ids, t.done k = true
    (bit s.vfrstBusy = true → exec (.vfrstStart n) s = .next s ∧ exec (.functionLevelReset n) s = .next s) ∧
    (s.mode = .running → bit s.vfrstBusy = false → SMap.rising s.teams = true → SMap.rising s.entries = true →
      Goes (.vfrstStart n) s started ∧ Goes (.functionLevelReset n) s started) ∧
    ((s.fn n).reset ≠ 0 → (s.fn n).reset ≠ 5 → (∀ r ∈ s.reqs, r.2.fn = n → r.2.entry ≠ 0 → r.2.value ≠ none) →
      (∀ r ∈ s.recomputes, r.fn ≠ n ∧ ∀ d ∈ s.derivs, d.handle = r.handle → d.fn ≠ n) →
      Goes (.vfResetDrainDone n) s (fun t => scrubbed t ∧ (ended t ∨ ((t.fn n).reset = 5 ∧ ¬ clean t)))) ∧
    ((s.fn n).reset ≠ 0 → (s.fn n).reset ≠ 5 → (∃ r ∈ s.reqs, r.2.fn = n ∧ r.2.entry ≠ 0 ∧ r.2.value = none) →
      exec (.vfResetDrainDone n) s = .next s) ∧
    ((s.fn n).reset = 5 → (clean s → Goes (.vfResetDrainDone n) s (fun t => ended t ∧ t.derivs = s.derivs ∧ t.mem = s.mem)) ∧
      (¬ clean s → exec (.vfResetDrainDone n) s = .next s)) ∧
    ((s.fn n).reset ≠ 0 → (s.fn n).reset ≠ 5 →
      ((s.fn n).resetAt + 75000000 ≤ s.cycle → Goes (.vfResetDrainTimeout n) s (fun t => t = { s with reqs := t.reqs } ∧
        ∀ r, r ∈ t.reqs ↔ r ∈ s.reqs ∧ ¬ (r.2.fn = n ∧ r.2.entry ≠ 0 ∧ ∃ p a, r.2.tgt = .peer p a))) ∧
      (s.cycle < (s.fn n).resetAt + 75000000 → exec (.vfResetDrainTimeout n) s = .next s))

/-- R347 to R353 (23), R343 (22): faults of launches, from their recording to their record. That the operations of a launch are gone
at once, and that a lower core's fault of the same cycle takes the record's place, is log 36's choice. -/
def Obligations.FaultSteps : Prop := Claim.FaultEvents ∧ Claim.FaultRecord
/-- R344 to R346 (22), R355 (23), R369 (24): pre-emption. A save as one step, and which arms may stop, are log 25's choices. -/
def Obligations.Preemption : Prop := Claim.PreemptRequests ∧ Claim.Saving
/-- R358 to R361 (23): resets of virtual functions. -/
def Obligations.FunctionResets : Prop := Claim.FunctionReset

/-! ## The host's accesses to memory (01 R32, R33; 24 R362, R364, R365) -/

/-- R13, R32, R33 (01), R362, R364 (24): a host access of at most one 64-byte block to the window takes effect in one step at its share;
past the share a read returns all ones and a write does nothing. An AtomicOp there reads and writes in one step and gives the old
value back. An aperture access goes through the page tables of the aperture's context: a read gives the bytes, a write leaves
derived frames alone and is counted there; a refused access is counted, and a read of it gives all ones (R365). A walk at an entry in a derived
tile that is not VALID is held, and starts the recompute (02 R49); an AtomicOp is held while a copy has landed in part in its block
(01 R16). That the aperture refuses the device's windows and lower shared-virtual addresses and that an AtomicOp elsewhere gives no
bytes are log 32's choices; what poisoned bytes read as here is log 72's. -/
def Obligations.HostAccesses : Prop :=
  ∀ (s : State) (fn off : Nat), s.mode = .running → fn ≤ 16 →
    let share := if fn = 0 then 8388608 else 524288
    let pa := (if fn = 0 then windowBase else windowBase + 524288 * (fn - 1)) + off
    let block (n : Nat) : Prop := 1 ≤ n ∧ off % 64 + n ≤ 64
    let ones (n : Nat) : List Byte := List.replicate n 0xFF
    let counted : Fn := { s.fn fn with errcnt := if (s.fn fn).errcnt = BitVec.allOnes 64 then (s.fn fn).errcnt
      else (s.fn fn).errcnt + 1 }
    (∀ n, block n →
      (off + n ≤ share → Goes (.hostWindowRead fn off n) s (fun t =>
        t = { s with hostReply := (List.range n).map (fun i => s.mem.byte (pa + i)) })) ∧
      (share < off + n → Goes (.hostWindowRead fn off n) s (fun t => t = { s with hostReply := ones n }))) ∧
    (∀ data : List Byte, block data.length →
      (off + data.length ≤ share → Goes (.hostWindowWrite fn off data) s (fun t => Wrote s.mem t.mem pa data ∧
        t.host = s.host ∧ t.teams = s.teams ∧ t.reqs = s.reqs)) ∧
      (share < off + data.length → exec (.hostWindowWrite fn off data) s = .next s)) ∧
    (∀ (op : HostAtomic) (wide : Bool) (x y : DWord),
      let n : Nat := if wide then 8 else 4
      let old := (List.range n).map (fun i => s.mem.byte (pa + i))
      let v := leNat old
      let new : Nat := match op with
        | .fetchAdd => (v + x.toNat) % 2 ^ (8 * n)
        | .swap => x.toNat % 2 ^ (8 * n)
        | .cas => if v = y.toNat % 2 ^ (8 * n) then x.toNat % 2 ^ (8 * n) else v
      (off % n = 0 → off + n ≤ share → s.halfLanded (.dev pa) n = true → exec (.hostAtomicop fn off op wide x y) s = .next s) ∧
      (off % n = 0 → off + n ≤ share → s.halfLanded (.dev pa) n = false → (∀ i, i < n → s.badByte (pa + i) = false) →
        Goes (.hostAtomicop fn off op wide x y) s (fun t => t.hostReply = old ∧ leNat ((List.range n).map (fun i => t.mem.byte (pa + i))) = new ∧
          ∀ a, ¬ (pa ≤ a ∧ a < pa + n) → t.mem.byte a = s.mem.byte a)) ∧
      (off % n = 0 → off + n ≤ share → s.halfLanded (.dev pa) n = false → (∃ i, i < n ∧ s.badByte (pa + i) = true) →
        Goes (.hostAtomicop fn off op wide x y) s (fun t => t = { s with hostReply := old })) ∧
      (off % n ≠ 0 ∨ share < off + n → Goes (.hostAtomicop fn off op wide x y) s (fun t => t = { s with hostReply := [] }))) ∧
    (2 ^ 36 ≤ off → off < 2 ^ 37 →
      (let f := s.fn fn
        let c := s.context f.apCtx
        let va := f.apBase.toNat + (off - 2 ^ 36)
        let refused : Prop := f.apEnable = false ∨ c.v = false ∨ c.fn ≠ fn ∨ 0x1FFFFFFFF800000 ≤ va ∨ (c.svm = true ∧ va < 2 ^ 56)
        (refused → ∀ w, s.aperture fn off w = .error none) ∧
        (¬ refused → ∀ p, s.walkWaits f.apCtx va = some p → ∀ w, s.aperture fn off w = .error (some p)) ∧
        (¬ refused → s.walkWaits f.apCtx va = none →
          (∀ d, s.walkTables f.apCtx va = .refused d → ∀ w, s.aperture fn off w = .error none) ∧
          ∀ leaf base pte, s.walkTables f.apCtx va = .found leaf base pte →
            (leaf.tgt ≠ 0 → ∀ w, s.aperture fn off w = .error none) ∧ (leaf.w = false → s.aperture fn off true = .error none) ∧
            (leaf.tgt = 0 → s.aperture fn off false = .ok (leaf.frame + va % 2 ^ leaf.log, pte) ∧
              (leaf.w = true → s.aperture fn off true = .ok (leaf.frame + va % 2 ^ leaf.log, pte))))) ∧
      (let held (t : State) (p : Nat) : Prop := t.mem = s.mem ∧ t.hostReply = s.hostReply ∧ t.fns = s.fns ∧
          ∀ y ∈ s.notValid p 8, t.tileState y.1.handle y.2 =
            if s.tileState y.1.handle y.2 = none then some .computing else s.tileState y.1.handle y.2
        ∀ p, (∀ n, block n → s.aperture fn off false = .error (some p) → Goes (.apertureRead fn off n) s (held · p) ∧
            s.hostWaits (.apertureRead fn off n) = true) ∧
          ∀ data : List Byte, block data.length → s.aperture fn off true = .error (some p) →
            Goes (.apertureWrite fn off data) s (held · p) ∧ s.hostWaits (.apertureWrite fn off data) = true) ∧
      (∀ n, block n →
        (s.aperture fn off false = .error none → Goes (.apertureRead fn off n) s (fun t =>
          t.hostReply = ones n ∧ FnIs s { t with hostReply := s.hostReply } fn counted)) ∧
        (∀ a pte, s.aperture fn off false = .ok (a, pte) → (s.setAccessed pte).notValid a n = [] →
          (∀ r ∈ s.reqs, r.2.src = 1024 → r.2.value ≠ none) → Goes (.apertureRead fn off n) s (fun t =>
            ∃ r bad, SMap.find? t.reqs s.nextId = some r ∧ r.ret = .host ∧
              r.value = some ((List.range n).map (fun i => (s.setAccessed pte).mem.byte (a + i)), bad) ∧
              t.mem = (s.setAccessed pte).mem))) ∧
      (∀ data : List Byte, block data.length →
        (s.aperture fn off true = .error none → Goes (.apertureWrite fn off data) s (fun t => FnIs s t fn counted)) ∧
        (∀ a pte, s.aperture fn off true = .ok (a, pte) → (∀ r ∈ s.reqs, r.2.src = 1024 → r.2.value ≠ none) →
          (s.setAccessed pte).writesHeld a data.length = false →
          (s.derivedFrame a = true → Goes (.apertureWrite fn off data) s (fun t => t.mem = (s.setAccessed pte).mem ∧
            t.fn fn = counted ∧ SMap.find? t.reqs s.nextId = none)) ∧
          (s.derivedFrame a = false →
            Goes (.apertureWrite fn off data) s (fun t => Wrote (s.setAccessed pte).mem t.mem a data ∧
              t.host = s.host ∧ t.teams = s.teams ∧ SMap.find? t.reqs s.nextId = none)))))

/-! ## Firmware, management, heat, power, and errors of storage (01 R9, R10, R36, R37; 09 R168; 24 R372 to R375) -/

/-- R372 (24): a module reset verifies the image, the one staged where there is one, and runs it, or waits for one; the module's
memory and work are gone, the host's memory and the owner keys stay (log 14). A staged image waits for the next reset of a
running module. Owner keys, at most four, are enrolled and removed by commands signed by Kregan or by an owner. -/
def Sys2Proof.Claim.FirmwareAndKeys : Prop :=
  ∀ s : State,
    let img := s.staged.getD s.image
    let gone (t : State) : Prop := t.mem = [] ∧ t.entries = [] ∧ t.teams = [] ∧ t.groups = [] ∧ t.paths = [] ∧ t.reqs = [] ∧
      t.ops = [] ∧ t.tlb = [] ∧ t.derivs = [] ∧ t.queues = [] ∧ t.fns = [] ∧ t.contexts = [] ∧ t.host = s.host ∧
      t.ownerKeys = s.ownerKeys
    let signed (key sig : List Byte) : Bool := Config.kreganSigned key sig || s.ownerKeys.any (fun k => Config.ownerSigned k key sig)
    Goes .moduleReset s (fun t => gone t ∧ if s.verified img = true then t.mode = .running ∧ t.image = img ∧ t.staged = none ∧
      t.measurement = shake256 img 64 else t.mode = .waitFirmware) ∧
    (∀ addr len : DWord,
      let new := (List.range len.toNat).map (fun i => s.host.byte (addr.toNat + i))
      (s.mode = .running → Goes (.firmwareStage addr len) s (fun t => t.staged = some new ∧ t.stageaddr = addr ∧ t.stagelen = len ∧
        t = { s with staged := t.staged, stageaddr := addr, stagelen := len })) ∧
      (s.mode = .waitFirmware → Goes (.firmwareStage addr len) s (fun t => if s.verified new = true then t.mode = .running ∧
        t.image = new ∧ t.measurement = shake256 new 64 ∧ t.mem = s.mem else t.mode = .waitFirmware ∧ t.measurement = s.measurement))) ∧
    (∀ key sig : List Byte, s.mode ≠ .powerOff →
      (s.ownerKeys.length < 4 → key ∉ s.ownerKeys → Goes (.pldmEnrollOwnerKey key sig) s (fun t =>
        t = { s with ownerKeys := if signed key sig = true then s.ownerKeys ++ [key] else s.ownerKeys })) ∧
      (4 ≤ s.ownerKeys.length ∨ key ∈ s.ownerKeys → exec (.pldmEnrollOwnerKey key sig) s = .next s) ∧
      Goes (.pldmRemoveOwnerKey key sig) s (fun t => t = { s with ownerKeys := t.ownerKeys } ∧
        ∀ k, k ∈ t.ownerKeys ↔ k ∈ s.ownerKeys ∧ (signed key sig = true → k ≠ key)))

/-- R375 (24): the power limit takes values from 1,200 W to 3,600 W in steps of 25 W; heat stops every issue until it resumes,
and a shutdown leaves nothing running until a module reset; withheld cycles and the scrub rate change timing alone. R115 (06): a
droop is counted at its core and for each team there, on either core of a twin pair. Management reads the 16 ring oscillators of each of
the four dies. -/
def Sys2Proof.Claim.HeatAndPower : Prop :=
  ∀ s : State,
    (s.mode ≠ .powerOff → (∀ w, (1200 ≤ w ∧ w ≤ 3600 ∧ w % 25 = 0 → Goes (.pldmSetPowerLimit w) s (fun t => t = { s with powerLimit := w })) ∧
        (¬ (1200 ≤ w ∧ w ≤ 3600 ∧ w % 25 = 0) → exec (.pldmSetPowerLimit w) s = .next s)) ∧
      ∀ r, Goes (.pldmSetScrubRate r) s (fun t => t = { s with scrubRate := r })) ∧
    Goes .thermalResume s (fun t => t = { s with thermalStop := false }) ∧
    (s.thermalStop = true → ∀ x : View, x.s = s → x.ready = false) ∧
    (∀ die k, (s.oscillator die k).isSome = true ↔ die < 4 ∧ k < 16) ∧
    Goes .thermalShutdown s (fun t => t.mode = .powerOff ∧ t.entries = [] ∧ t.teams = [] ∧ t.groups = [] ∧ t.paths = [] ∧
      t.reqs = [] ∧ t.ops = [] ∧ t.host = s.host) ∧
    (s.mode = .running → Goes .thermalStop s (fun t => t = { s with thermalStop := true }) ∧
      (∀ b, Goes (.withholdIssueCycles b) s (fun t => t = { s with withheld := b })) ∧
      ∀ c, c < 256 → Goes (.droopEvent c) s (fun t => t = { s with cores := t.cores, teams := t.teams } ∧
        t.core c = { s.core c with droop := min 0xFFFFFFFF ((s.core c).droop + 1) } ∧ (∀ k, k ≠ c → t.core k = s.core k) ∧
        (∀ n u, SMap.find? s.teams n = some u → u.place ≠ .resident → SMap.find? t.teams n = some u) ∧
        (∀ n u e, SMap.find? s.teams n = some u → SMap.find? s.entries u.entry = some e → u.place = .resident → u.core + 1 = c →
          SMap.find? t.teams n = some (if e.body.twin = true then { u with droop1 := min 0xFFFFFFFF (u.droop1 + 1) } else u)) ∧
        ∀ n u, SMap.find? s.teams n = some u → u.place = .resident → u.core = c →
          SMap.find? t.teams n = some { u with droop0 := min 0xFFFFFFFF (u.droop0 + 1) }))

/-- R9, R10 (01): an error of one symbol of a far block, or of one bit of another unit, is corrected: no byte of it reads as
poison; two are detected. R37: the patrol writes a corrected unit back and counts it, and counts an uncorrectable one; no byte
changes. R36: a write that covers a granule clears its poison, one that covers a part of it does not; bad bytes poison the
granules they touch. That the patrol scrubs the host-coherent window too is log 71's choice. -/
def Sys2Proof.Claim.StorageErrors : Prop :=
  (∀ (s : State) (n lane reg : Nat) (g : Group), s.mode = .running → SMap.find? s.groups n = some g → lane < 64 → reg < 256 →
    (∀ f ∈ g.flips, f.1 ≠ 64 * reg + lane) → 64 * reg + lane ∉ g.bad →
    (∀ b, Goes (.softError (.vreg n lane reg) [b]) s (fun t => ∃ h, SMap.find? t.groups n = some h ∧ 64 * reg + lane ∉ h.bad ∧
      h = { g with flips := h.flips })) ∧
    ∀ b c, b ≠ c → Goes (.softError (.vreg n lane reg) [b, c]) s (fun t => ∃ h, SMap.find? t.groups n = some h ∧
      (∀ k, k ∈ h.bad ↔ k ∈ g.bad ∨ k = 64 * reg + lane) ∧ h = { g with flips := h.flips, bad := h.bad })) ∧
  ∀ (s : State) (g : Nat), granuleOf g = g → (placeOf g).isSome = true →
    let u := ErrUnit.dev g
    let k := sliceOf g
    (∀ b, s.mode = .running → s.flips u = [] → s.bad.contains g = false → Goes (.softError u [b]) s (fun t => t.mem = s.mem ∧
      ∀ a, granuleOf a = g → t.badByte a = false)) ∧
    (∀ b c, s.mode = .running → s.flips u = [] → (if farBase ≤ g then b / 8 ≠ c / 8 else b ≠ c) → Goes (.softError u [b, c]) s (fun t =>
      t.mem = s.mem ∧ ∀ a, granuleOf a = g → t.badByte a = true)) ∧
    ((s.flips u ≠ [] → s.uncorrectable u = false → Goes (.patrolScrub u) s (fun t => t.mem = s.mem ∧ t.tiles = s.tiles ∧ t.flips u = [] ∧
        SMap.getD t.errCorrected k 0 = SMap.getD s.errCorrected k 0 + 1)) ∧
      (s.flips u ≠ [] → s.uncorrectable u = true → Goes (.patrolScrub u) s (fun t => t.mem = s.mem ∧ t.tiles = s.tiles ∧
        t.flips u = s.flips u ∧ SMap.getD t.errUncorrected k 0 = SMap.getD s.errUncorrected k 0 + 1))) ∧
    (∀ pa data bad, bad.length = data.length →
      let t := s.devWrite pa data bad
      ((∀ b ∈ bad, b = false) → pa ≤ g → g + granuleSize g ≤ pa + data.length → ∀ a, granuleOf a = g → t.badByte a = false) ∧
      ((∀ b ∈ bad, b = false) → ¬ (pa ≤ g ∧ g + granuleSize g ≤ pa + data.length) → s.badByte g = true →
        ∀ a, granuleOf a = g → t.badByte a = true) ∧
      (∀ i, i < data.length → bad.getD i false = true → granuleOf (pa + i) = g → ∀ a, granuleOf a = g → t.badByte a = true))

/-- R9, R10, R36, R37 (01), R115 (06), R372 to R375 (24): the module's management and its storage. -/
def Obligations.ManagementAndErrors : Prop :=
  Claim.FirmwareAndKeys ∧ Claim.SealAndAttest ∧ Claim.HeatAndPower ∧ Claim.StorageErrors

/-! ## The fabric (18 R301 to R303, R310; 24 R370) -/

/-- A packet leaves this module for peer `p` (24 R370): through a port of its route whose link is up, where there is one. -/
def Sys2Proof.Machine.Leaves (s t : State) (p : Nat) (k : Packet) : Prop :=
  let open_ (i : Nat) : Prop := i < 128 ∧ (SMap.getD s.routes p 0).getLsbD i = true ∧ i ∉ s.linksDown
  (∃ i, open_ i) → ∃ i, open_ i ∧ t.fabricOut = s.fabricOut ++ [(i, k)]
/-- The answer to a packet is sent. -/
def Sys2Proof.Machine.Replies (s t : State) (k : Packet) (data : List Byte) (bad : List Bool) : Prop :=
  Leaves s t k.src ⟨s.peerid, k.src, k.fn, k.op, .reply data, bad⟩
/-- The launch of a request has a fault more, an imprecise one. -/
def Sys2Proof.Machine.FaultsLate (t : State) (entry : Nat) (c : Code) (detail : Nat → Prop) : Prop :=
  ∃ e f, SMap.find? t.entries entry = some e ∧ f ∈ e.faults ∧ f.code = c ∧ f.precise = false ∧ detail f.detail.toNat

/-- R302, R303, R310 (18), R370 (24): a request to a peer, when its turn has come, leaves as one packet, through a port of the peer's
route whose link is up; with no port in the route, or every link of it down, its launch faults with FABRIC. -/
def Sys2Proof.Claim.PacketsSent : Prop :=
  ∀ (s : State) (id : Nat) (r : Req) (p pa : Nat) (i : Instr), Turn s id r → r.tgt = .peer p pa → r.doneAt = 0 →
    ((∃ n, r.op = .read n) ∧ i = .sliceRead id ∨ (∃ d b, r.op = .write d b) ∧ i = .sliceWrite id ∨
      (∃ h d b, r.op = .spad h d b) ∧ i = .sliceWrite id ∨ (∃ h b, r.op = .arrive h b) ∧ i = .sliceWrite id ∨
      r.op.modifies = true ∧ i = .sliceAtomic id) →
    let port (j : Nat) : Prop := j < 128 ∧ (SMap.getD s.routes p 0).getLsbD j = true
    let body : PktBody × List Bool := match r.op with
      | .read n => (.get pa n, [])
      | .write d b => (.put pa d, b)
      | .atomic o w x y f => (.atomic o w pa x y f, [])
      | .xadd f x => (.xadd f pa x, [])
      | .xrd c => (.xrd c pa, [])
      | .red t d b => (.red t pa d, b)
      | .spad h d b => (.spad h pa d, b)
      | .arrive h b => (.arrive h b, [])
    ((∃ j, port j ∧ j ∉ s.linksDown) → Goes i s (fun t => Leaves s t p ⟨s.peerid, p, r.fn, id, body.1, body.2⟩ ∧
      t.reqs = SMap.put s.reqs id { r with doneAt := 1 } ∧ t.mem = s.mem ∧ t.groups = s.groups ∧ t.entries = s.entries)) ∧
    ((∀ j, port j → j ∈ s.linksDown) → ∀ e, SMap.find? s.entries r.entry = some e → e.fault = none → Goes i s (fun t =>
      t.fabricOut = s.fabricOut ∧ t.mem = s.mem ∧ SMap.find? t.reqs id = some { r with doneAt := 2 } ∧
      FaultsLate t r.entry .fabric (fun d => ((∀ j, ¬ port j) → d = 0x7F) ∧ ((∃ j, port j) → port d))))

/-- R302, R303, R310 (18), R370 (24): a packet for this package does at its owner what its operation says, in one step; a delivery
or an arrival stands before its team's slot; a packet for another does nothing here. The answer to a request of this module ends
it: one that reads has its data, any other is done, and the piece of its operation with it. A link that goes down discards the
packets on it, and each launch that had one faults with FABRIC and the port; a link that has retrained carries packets again. -/
def Sys2Proof.Claim.PacketsReceived : Prop :=
  ∀ s : State, s.NumbersFresh →
    (∀ k : Packet, k.dst ≠ s.peerid → exec (.fabricPacketReceive k) s = .next s) ∧
    (∀ k : Packet, k.dst = s.peerid → s.mode = .running →
      let turn (pa : Nat) : Prop := (placeOf pa).isSome = true ∧ s.derivedFrame pa = false ∧
        ∀ e ∈ s.reqs, e.2.src = 1536 + k.src → e.2.path = .f → ownerOf e.2.tgt = ownerOf (.dev pa) → e.2.value ≠ none
      let apart (pa n : Nat) : Prop := ∀ e ∈ s.reqs, e.2.value = none → e.2.part ≠ [] → ∀ a, e.2.tgt = .dev a →
        (a + e.2.op.width - 1) / 64 < pa / 64 ∨ (pa + n - 1) / 64 < a / 64
      (∀ pa data, k.body = .put pa data → turn pa → s.writesHeld pa data.length = false →
        Goes (.fabricPacketReceive k) s (fun t => Wrote s.mem t.mem pa data ∧ SMap.find? t.reqs s.nextId = none ∧
          t.teams = s.teams ∧ Replies s t k [0] [false])) ∧
      (∀ pa, (placeOf pa).isNone = true → (∃ d, k.body = .put pa d) ∨ (∃ n, k.body = .get pa n) →
        Goes (.fabricPacketReceive k) s (fun t => t.mem = s.mem ∧ t.reqs = s.reqs ∧ Replies s t k [4] [false])) ∧
      (∀ ty pa data, k.body = .red ty pa data → turn pa → s.writesHeld pa (if ty = .xc then 16 * data.length else data.length) = false →
        let n := if ty = .xc then 16 * data.length else data.length
        apart pa n → Goes (.fabricPacketReceive k) s (fun t => Wrote s.mem t.mem pa (redAll ty ((List.range n).map (fun i => s.mem.byte (pa + i)))
          ((List.range n).map (fun i => s.badByte (pa + i))) data k.poison).1 ∧ SMap.find? t.reqs s.nextId = none)) ∧
      (∀ (op : ReqOp) pa, (∃ o w x y f, k.body = .atomic o w pa x y f ∧ op = .atomic o w x y f) ∨
          (∃ f x, k.body = .xadd f pa x ∧ op = .xadd f x) ∨ (∃ c, k.body = .xrd c pa ∧ op = .xrd c) → turn pa →
        s.writesHeld pa op.width = false → apart pa op.width →
        let old := (List.range op.width).map (fun i => s.mem.byte (pa + i))
        ((∀ i, i < op.width → s.badByte (pa + i) = false) → Goes (.fabricPacketReceive k) s (fun t =>
          SMap.find? t.reqs s.nextId = none ∧
          (if op.returns = true then Replies s t k (op.atomicStep old).2 (clean (op.atomicStep old).2.length)
            else Replies s t k [0] [false]) ∧
          match (op.atomicStep old).1 with
            | some d => Wrote s.mem t.mem pa d
            | none => t.mem = s.mem)) ∧
        ((∃ i, i < op.width ∧ s.badByte (pa + i) = true) → Goes (.fabricPacketReceive k) s (fun t => t.mem = s.mem ∧
          SMap.find? t.reqs s.nextId = none ∧ Replies s t k (old.take 8) (List.replicate 8 true)))) ∧
      (∀ pa n, k.body = .get pa n → (placeOf pa).isSome = true → Goes (.fabricPacketReceive k) s (fun t => t.mem = s.mem ∧
        ∃ r, SMap.find? t.reqs s.nextId = some r ∧ r.op = .read n ∧ r.tgt = .dev pa ∧ r.ret = .peer k.src k.op ∧ r.value = none)) ∧
      (∀ h off data, k.body = .spad h off data → Goes (.fabricPacketReceive k) s (fun t => t.mem = s.mem ∧ t.teams = s.teams ∧
        ∃ d, SMap.find? t.deliveries s.nextId = some d ∧ d.handle = h ∧ d.fn = k.fn ∧ d.data = some (off, data, k.poison))) ∧
      (∀ h b, k.body = .arrive h b → Goes (.fabricPacketReceive k) s (fun t => t.mem = s.mem ∧ t.teams = s.teams ∧
        ∃ d, SMap.find? t.deliveries s.nextId = some d ∧ d.handle = h ∧ d.fn = k.fn ∧ d.data = none ∧ d.bar = b))) ∧
    (∀ id r p pa data bad, SMap.find? s.reqs id = some r → r.tgt = .peer p pa → r.doneAt = 1 → r.value = none →
      let answers (i : Instr) : Prop :=
        (∀ n, r.op = .read n → (∀ q m, r.ret ≠ .peer q m) → Goes i s (fun t => Answered t id r data (if r.mesh then bad.map (fun _ => true) else bad) ∧ t.mem = s.mem ∧
          t.groups = s.groups)) ∧
        (∀ d b m k o, r.op = .write d b → r.ret = .op m k → data = [0] → SMap.find? s.ops m = some o →
          (∃ n ∈ o.waiting, n ≠ id) → Goes i s (fun t => SMap.find? t.reqs id = none ∧ t.mem = s.mem ∧ t.groups = s.groups ∧
            ∃ o', SMap.find? t.ops m = some o' ∧ id ∉ o'.waiting ∧ ∀ n ∈ o.waiting, n ≠ id → n ∈ o'.waiting))
      let refused (i : Instr) : Prop := ∀ e, SMap.find? s.entries r.entry = some e → e.fault = none →
        (r.op.returns = false → (∀ n, r.op ≠ .read n) → data = [4] → (∀ b ∈ bad, b = false) → (r.op.modifies = true → r.mesh = false) → Goes i s (fun t => SMap.find? t.reqs id = none ∧
          FaultsLate t r.entry .address (· = 5))) ∧
        (r.op.modifies = true → (r.op.returns = false ∨ r.ret = .none) → (r.mesh = true ∨ ∃ b ∈ bad, b = true) →
          (∀ g ∈ e.faults, g.word = (r.born, r.arm) → g.pc ≠ r.pc) →
          Goes i s (fun t => SMap.find? t.reqs id = none ∧ FaultsLate t r.entry .poison (· = 2)))
      answers (.fabricAcknowledge id data bad) ∧ refused (.fabricAcknowledge id data bad) ∧
      ∀ k : Packet, k.dst = s.peerid → s.mode = .running → k.op = id → k.poison = bad → k.body = .reply data →
        answers (.fabricPacketReceive k) ∧ refused (.fabricPacketReceive k)) ∧
    (∀ id data bad, SMap.find? s.reqs id = none → exec (.fabricAcknowledge id data bad) s = .next s) ∧
    (∀ port, Goes (.linkDown port) s (fun t => port ∈ t.linksDown ∧ (∀ q, q ≠ port → (q ∈ t.linksDown ↔ q ∈ s.linksDown)) ∧
      t.mem = s.mem ∧ t.groups = s.groups ∧
      ∀ id r e, SMap.find? s.reqs id = some r → s.leftThrough port id r = true → SMap.find? s.entries r.entry = some e →
        e.fault = none → (∃ q, SMap.find? t.reqs id = some q ∧ q.doneAt = 2) ∧
          ∃ e' f, SMap.find? t.entries r.entry = some e' ∧ e'.faults = e.faults ++ [f] ∧ f.code = .fabric ∧ f.precise = false ∧
            f.detail.toNat = port % 2 ^ 32)) ∧
    ∀ port, Goes (.linkRetrained port) s (fun t => t = { s with linksDown := t.linksDown } ∧
      ∀ q, q ∈ t.linksDown ↔ q ∈ s.linksDown ∧ q ≠ port)

/-- R301 to R303, R310 (18), R370 (24): the fabric. That a packet with no port, or with no link up, faults with FABRIC when its turn
comes, naming a port of its route, and is never answered, is log 34's choice. -/
def Obligations.FabricSteps : Prop := Claim.PacketsSent ∧ Claim.PacketsReceived

end Statements
end

