-- ==== Sys2Proof/Laws/Tables.lean ====
section
/-! SUPPORT. Sparse tables and memory: what a key holds after each operation, and the canonical form that every memory
operation keeps. -/
namespace Sys2Proof.Machine
open Sys2Proof

variable {α : Type}

/-! ## Tables -/

@[simp] theorem SMap.find?_nil (n : Nat) : SMap.find? ([] : SMap α) n = none := rfl
@[simp] theorem SMap.find?_cons (k : Nat) (v : α) (m : SMap α) (n : Nat) :
    SMap.find? ((k, v) :: m) n = if k = n then some v else SMap.find? m n := rfl
@[simp] theorem SMap.getD_nil (n : Nat) (d : α) : SMap.getD ([] : SMap α) n d = d := rfl

theorem SMap.getD_eq (m : SMap α) (n : Nat) (d : α) : SMap.getD m n d = (SMap.find? m n).getD d := by
  unfold SMap.getD; cases SMap.find? m n <;> rfl

theorem SMap.find?_put (m : SMap α) (n : Nat) (v : α) (k : Nat) :
    SMap.find? (SMap.put m n v) k = if k = n then some v else SMap.find? m k := by
  induction m with
  | nil => simp only [SMap.put, SMap.find?_cons, SMap.find?_nil, eq_comm (a := n)]
  | cons e m ih =>
    obtain ⟨j, u⟩ := e
    simp only [SMap.put]
    split
    · next h => subst h; by_cases h : k = j <;> simp [h, eq_comm (a := j)]
    · split
      · simp only [SMap.find?_cons, eq_comm (a := n)]
      · next h1 h2 =>
        simp only [SMap.find?_cons, ih]
        by_cases h : k = n
        · subst h; simp [h1]
        · simp [h]

theorem SMap.find?_del (m : SMap α) (n k : Nat) :
    SMap.find? (SMap.del m n) k = if k = n then none else SMap.find? m k := by
  induction m with
  | nil => simp [SMap.del]
  | cons e m ih =>
    obtain ⟨j, u⟩ := e
    have ih' : SMap.find? (List.filter (fun e => e.1 != n) m) k = if k = n then none else SMap.find? m k := ih
    by_cases hj : j = n
    · subst hj
      simp only [SMap.del, List.filter_cons, bne_self_eq_false, Bool.false_eq_true, if_false, SMap.find?_cons]
      rw [ih']
      by_cases h : k = j
      · simp [h]
      · have : ¬ j = k := fun h' => h h'.symm
        simp [h, this]
    · have hb : ((j, u).1 != n) = true := by simp [hj]
      simp only [SMap.del, List.filter_cons, hb, if_true, SMap.find?_cons]
      rw [ih']
      by_cases h : k = n
      · subst h; simp [hj]
      · simp [h]

theorem SMap.getD_put (m : SMap α) (n : Nat) (v d : α) (k : Nat) :
    SMap.getD (SMap.put m n v) k d = if k = n then v else SMap.getD m k d := by
  simp only [SMap.getD_eq, SMap.find?_put]; split <;> rfl

theorem SMap.getD_del (m : SMap α) (n : Nat) (d : α) (k : Nat) :
    SMap.getD (SMap.del m n) k d = if k = n then d else SMap.getD m k d := by
  simp only [SMap.getD_eq, SMap.find?_del]; split <;> rfl

theorem SMap.getD_set [DecidableEq α] (m : SMap α) (n : Nat) (v d : α) (k : Nat) :
    SMap.getD (SMap.set m n v d) k d = if k = n then v else SMap.getD m k d := by
  unfold SMap.set
  split
  · next h => subst h; exact SMap.getD_del ..
  · exact SMap.getD_put ..

theorem SMap.find?_mod (m : SMap α) (n : Nat) (f : α → α) (k : Nat) :
    SMap.find? (SMap.mod m n f) k = if k = n then (SMap.find? m n).map f else SMap.find? m k := by
  unfold SMap.mod
  split
  · next v h => rw [SMap.find?_put, h]; rfl
  · next h => by_cases hk : k = n <;> simp [hk, h]

/-! ## Rising keys -/

/-- Every key is above a bound, and the keys rise. -/
def SMap.above : SMap α → Nat → Bool
  | [], _ => true
  | (k, _) :: m, b => decide (b ≤ k) && SMap.above m (k + 1)

theorem SMap.above_cons (k : Nat) (v : α) (m : SMap α) (b : Nat) :
    SMap.above ((k, v) :: m) b = (decide (b ≤ k) && SMap.above m (k + 1)) := rfl

theorem SMap.above_mono (m : SMap α) {b c : Nat} (h : c ≤ b) (hm : SMap.above m b = true) : SMap.above m c = true := by
  cases m with
  | nil => rfl
  | cons e m =>
    obtain ⟨k, v⟩ := e
    simp only [SMap.above_cons, Bool.and_eq_true, decide_eq_true_eq] at hm ⊢
    exact ⟨Nat.le_trans h hm.1, hm.2⟩

theorem SMap.rising_cons (k : Nat) (v : α) (m : SMap α) : SMap.rising ((k, v) :: m) = SMap.above m (k + 1) := by
  induction m generalizing k v with
  | nil => rfl
  | cons e m ih =>
    obtain ⟨j, u⟩ := e
    simp only [SMap.rising, SMap.above_cons, ih j u]
    rfl

theorem SMap.rising_iff (m : SMap α) : SMap.rising m = SMap.above m 0 := by
  cases m with
  | nil => rfl
  | cons e m => obtain ⟨k, v⟩ := e; simp [SMap.rising_cons, SMap.above_cons]

theorem SMap.above_put (m : SMap α) (n : Nat) (v : α) {b : Nat} (hb : b ≤ n) (hm : SMap.above m b = true) :
    SMap.above (SMap.put m n v) b = true := by
  induction m generalizing b with
  | nil => simp [SMap.put, SMap.above, hb]
  | cons e m ih =>
    obtain ⟨k, u⟩ := e
    simp only [SMap.above_cons, Bool.and_eq_true, decide_eq_true_eq] at hm
    simp only [SMap.put]
    split
    · next h => subst h; simp [SMap.above_cons, hb, hm.2]
    · split
      · next h1 h2 => simp [SMap.above_cons, hb, hm.2]; omega
      · next h1 h2 =>
        simp only [SMap.above_cons, Bool.and_eq_true, decide_eq_true_eq]
        exact ⟨hm.1, ih (by omega) hm.2⟩

theorem SMap.above_del (m : SMap α) (n : Nat) {b : Nat} (hm : SMap.above m b = true) :
    SMap.above (SMap.del m n) b = true := by
  induction m generalizing b with
  | nil => rfl
  | cons e m ih =>
    obtain ⟨k, u⟩ := e
    simp only [SMap.above_cons, Bool.and_eq_true, decide_eq_true_eq] at hm
    have ih' := ih hm.2
    unfold SMap.del at ih' ⊢
    rw [List.filter_cons]
    split
    · simp only [SMap.above_cons, Bool.and_eq_true, decide_eq_true_eq]; exact ⟨hm.1, ih'⟩
    · exact SMap.above_mono _ (Nat.le_trans hm.1 (Nat.le_succ k)) ih'

theorem SMap.rising_put (m : SMap α) (n : Nat) (v : α) (hm : SMap.rising m = true) :
    SMap.rising (SMap.put m n v) = true := by
  rw [SMap.rising_iff] at *; exact SMap.above_put m n v (Nat.zero_le n) hm

theorem SMap.rising_del (m : SMap α) (n : Nat) (hm : SMap.rising m = true) : SMap.rising (SMap.del m n) = true := by
  rw [SMap.rising_iff] at *; exact SMap.above_del m n hm

theorem SMap.all_put (m : SMap α) (n : Nat) (v : α) (p : Nat × α → Bool) (hv : p (n, v) = true) (hm : m.all p = true) :
    (SMap.put m n v).all p = true := by
  induction m with
  | nil => simp [SMap.put, hv]
  | cons e m ih =>
    obtain ⟨k, u⟩ := e
    simp only [List.all_cons, Bool.and_eq_true] at hm
    simp only [SMap.put]
    split
    · simp [List.all_cons, hv, hm.2]
    · split
      · simp [List.all_cons, hv, hm.1, hm.2]
      · simp [List.all_cons, hm.1, ih hm.2]

theorem SMap.all_del (m : SMap α) (n : Nat) (p : Nat × α → Bool) (hm : m.all p = true) :
    (SMap.del m n).all p = true := by
  simp only [SMap.del, List.all_eq_true] at *
  exact fun e he => hm e (List.mem_filter.mp he).1

/-! ## Memory -/

theorem Memory.byte_store (m : Memory) (a : Nat) (b : Byte) (k : Nat) :
    Memory.byte (Memory.store m a b) k = if k = a then b else Memory.byte m k := SMap.getD_set ..

theorem Memory.byte_stores (m : Memory) (a : Nat) (bs : List Byte) (k : Nat) :
    Memory.byte (Memory.stores m a bs) k =
      if a ≤ k ∧ k < a + bs.length then bs.getD (k - a) 0 else Memory.byte m k := by
  induction bs generalizing m a with
  | nil => simp only [Memory.stores, List.length_nil]; rw [if_neg (by omega)]
  | cons b bs ih =>
    simp only [Memory.stores, ih, Memory.byte_store, List.length_cons]
    by_cases h : k = a
    · subst h; rw [if_neg (by omega), if_pos (by omega)]; simp
    · by_cases h' : a + 1 ≤ k ∧ k < a + 1 + bs.length
      · rw [if_pos h', if_pos (by omega)]
        have : k - a = (k - (a + 1)) + 1 := by omega
        rw [this, List.getD_cons_succ]
      · rw [if_neg h', if_neg h, if_neg (by omega)]

theorem Memory.bytes_length (m : Memory) (a n : Nat) : (Memory.bytes m a n).length = n := by
  induction n generalizing a with
  | zero => rfl
  | succ n ih => simp [Memory.bytes, ih]

theorem Memory.bytes_getD (m : Memory) (a n k : Nat) (h : k < n) :
    (Memory.bytes m a n).getD k 0 = Memory.byte m (a + k) := by
  induction n generalizing a k with
  | zero => omega
  | succ n ih =>
    cases k with
    | zero => simp [Memory.bytes]
    | succ k => simp only [Memory.bytes, List.getD_cons_succ]; rw [ih (a + 1) k (by omega)]; congr 1; omega

/-- A read of a range that a store covers gives what was stored. -/
theorem Memory.bytes_stores_same (m : Memory) (a : Nat) (bs : List Byte) :
    Memory.bytes (Memory.stores m a bs) a bs.length = bs := by
  apply List.ext_getElem (Memory.bytes_length ..)
  intro k h1 h2
  have h : k < bs.length := h2
  have e := Memory.bytes_getD (Memory.stores m a bs) a bs.length k h
  rw [List.getD_eq_getElem?_getD, List.getElem?_eq_getElem h1, Option.getD_some] at e
  rw [e, Memory.byte_stores, if_pos (by omega)]
  simp [List.getD_eq_getElem?_getD, h]

theorem Memory.wf_store (m : Memory) (a : Nat) (b : Byte) (h : Memory.wf m = true) :
    Memory.wf (Memory.store m a b) = true := by
  simp only [Memory.wf, Bool.and_eq_true] at *
  unfold Memory.store SMap.set
  split
  · exact ⟨SMap.rising_del _ _ h.1, SMap.all_del _ _ _ h.2⟩
  · next hb => exact ⟨SMap.rising_put _ _ _ h.1, SMap.all_put _ _ _ _ (by simpa using hb) h.2⟩

/-- Every memory operation keeps the canonical form. -/
theorem Memory.wf_stores (m : Memory) (a : Nat) (bs : List Byte) (h : Memory.wf m = true) :
    Memory.wf (Memory.stores m a bs) = true := by
  induction bs generalizing m a with
  | nil => exact h
  | cons b bs ih => exact ih _ _ (Memory.wf_store m a b h)

theorem Memory.wf_reset : Memory.wf State.reset.mem = true ∧ Memory.wf State.reset.host = true := ⟨rfl, rfl⟩

end Sys2Proof.Machine
end

