-- ==== Sys2Proof/Laws/State.lean ====
section
/-! SUPPORT. Every update of a group, a path and the state, field by field; the registers after a write. -/
namespace Sys2Proof.Machine
open Sys2Proof

/-! ## Groups: what each update leaves alone -/

@[simp] theorem Group.setV_renew (g : Group) (n lane : Nat) (x : Word) :
    (g.setV n lane x).renew (64 * n + lane) = g.setV n lane x := by
  simp [Group.setV, Group.renew, List.filter_filter]
@[simp] theorem Group.setS_renew (g : Group) (n : Nat) (x : Word) : (g.setS n x).renew (65536 + n) = g.setS n x := by
  simp [Group.setS, Group.renew, List.filter_filter]
@[simp] theorem Group.setV_team (g : Group) (n lane : Nat) (x : Word) : (g.setV n lane x).team = g.team := rfl
@[simp] theorem Group.setV_idx (g : Group) (n lane : Nat) (x : Word) : (g.setV n lane x).idx = g.idx := rfl
@[simp] theorem Group.setV_core (g : Group) (n lane : Nat) (x : Word) : (g.setV n lane x).core = g.core := rfl
@[simp] theorem Group.setV_slot (g : Group) (n lane : Nat) (x : Word) : (g.setV n lane x).slot = g.slot := rfl
@[simp] theorem Group.setV_p (g : Group) (n lane : Nat) (x : Word) : (g.setV n lane x).p = g.p := rfl
@[simp] theorem Group.setV_s (g : Group) (n lane : Nat) (x : Word) : (g.setV n lane x).s = g.s := rfl
@[simp] theorem Group.setV_q (g : Group) (n lane : Nat) (x : Word) : (g.setV n lane x).q = g.q := rfl
@[simp] theorem Group.setV_k (g : Group) (n lane : Nat) (x : Word) : (g.setV n lane x).k = g.k := rfl
@[simp] theorem Group.setV_f (g : Group) (n lane : Nat) (x : Word) : (g.setV n lane x).f = g.f := rfl
@[simp] theorem Group.setV_abase (g : Group) (n lane : Nat) (x : Word) : (g.setV n lane x).abase = g.abase := rfl
@[simp] theorem Group.setV_alimit (g : Group) (n lane : Nat) (x : Word) : (g.setV n lane x).alimit = g.alimit := rfl
@[simp] theorem Group.setV_exited (g : Group) (n lane : Nat) (x : Word) : (g.setV n lane x).exited = g.exited := rfl
@[simp] theorem Group.setV_keys (g : Group) (n lane : Nat) (x : Word) : (g.setV n lane x).keys = g.keys := rfl
@[simp] theorem Group.setV_tops (g : Group) (n lane : Nat) (x : Word) : (g.setV n lane x).tops = g.tops := rfl
@[simp] theorem Group.setV_monitor (g : Group) (n lane : Nat) (x : Word) : (g.setV n lane x).monitor = g.monitor := rfl
@[simp] theorem Group.setV_clk (g : Group) (n lane : Nat) (x : Word) : (g.setV n lane x).clk = g.clk := rfl
@[simp] theorem Group.setV_shtlCount (g : Group) (n lane : Nat) (x : Word) : (g.setV n lane x).shtlCount = g.shtlCount := rfl
@[simp] theorem Group.setV_shtl (g : Group) (n lane : Nat) (x : Word) : (g.setV n lane x).shtl = g.shtl := rfl
@[simp] theorem Group.setV_xf (g : Group) (n lane : Nat) (x : Word) : (g.setV n lane x).xf = g.xf := rfl
@[simp] theorem Group.setV_fallback (g : Group) (n lane : Nat) (x : Word) : (g.setV n lane x).fallback = g.fallback := rfl
@[simp] theorem Group.setV_halted (g : Group) (n lane : Nat) (x : Word) : (g.setV n lane x).halted = g.halted := rfl
@[simp] theorem Group.setV_retired (g : Group) (n lane : Nat) (x : Word) : (g.setV n lane x).retired = g.retired := rfl
@[simp] theorem Group.setV_turn (g : Group) (n lane : Nat) (x : Word) : (g.setV n lane x).turn = g.turn := rfl
@[simp] theorem Group.setVpart_team (g : Group) (n lane b k v : Nat) : (g.setVpart n lane b k v).team = g.team := rfl
@[simp] theorem Group.setVpart_idx (g : Group) (n lane b k v : Nat) : (g.setVpart n lane b k v).idx = g.idx := rfl
@[simp] theorem Group.setVpart_core (g : Group) (n lane b k v : Nat) : (g.setVpart n lane b k v).core = g.core := rfl
@[simp] theorem Group.setVpart_slot (g : Group) (n lane b k v : Nat) : (g.setVpart n lane b k v).slot = g.slot := rfl
@[simp] theorem Group.setVpart_p (g : Group) (n lane b k v : Nat) : (g.setVpart n lane b k v).p = g.p := rfl
@[simp] theorem Group.setVpart_s (g : Group) (n lane b k v : Nat) : (g.setVpart n lane b k v).s = g.s := rfl
@[simp] theorem Group.setVpart_q (g : Group) (n lane b k v : Nat) : (g.setVpart n lane b k v).q = g.q := rfl
@[simp] theorem Group.setVpart_k (g : Group) (n lane b k v : Nat) : (g.setVpart n lane b k v).k = g.k := rfl
@[simp] theorem Group.setVpart_f (g : Group) (n lane b k v : Nat) : (g.setVpart n lane b k v).f = g.f := rfl
@[simp] theorem Group.setVpart_abase (g : Group) (n lane b k v : Nat) : (g.setVpart n lane b k v).abase = g.abase := rfl
@[simp] theorem Group.setVpart_alimit (g : Group) (n lane b k v : Nat) : (g.setVpart n lane b k v).alimit = g.alimit := rfl
@[simp] theorem Group.setVpart_exited (g : Group) (n lane b k v : Nat) : (g.setVpart n lane b k v).exited = g.exited := rfl
@[simp] theorem Group.setVpart_keys (g : Group) (n lane b k v : Nat) : (g.setVpart n lane b k v).keys = g.keys := rfl
@[simp] theorem Group.setVpart_tops (g : Group) (n lane b k v : Nat) : (g.setVpart n lane b k v).tops = g.tops := rfl
@[simp] theorem Group.setVpart_monitor (g : Group) (n lane b k v : Nat) : (g.setVpart n lane b k v).monitor = g.monitor := rfl
@[simp] theorem Group.setVpart_clk (g : Group) (n lane b k v : Nat) : (g.setVpart n lane b k v).clk = g.clk := rfl
@[simp] theorem Group.setVpart_shtlCount (g : Group) (n lane b k v : Nat) : (g.setVpart n lane b k v).shtlCount = g.shtlCount := rfl
@[simp] theorem Group.setVpart_shtl (g : Group) (n lane b k v : Nat) : (g.setVpart n lane b k v).shtl = g.shtl := rfl
@[simp] theorem Group.setVpart_bad (g : Group) (n lane b k v : Nat) : (g.setVpart n lane b k v).bad = g.bad := rfl
@[simp] theorem Group.setVpart_xf (g : Group) (n lane b k v : Nat) : (g.setVpart n lane b k v).xf = g.xf := rfl
@[simp] theorem Group.setVpart_fallback (g : Group) (n lane b k v : Nat) : (g.setVpart n lane b k v).fallback = g.fallback := rfl
@[simp] theorem Group.setVpart_halted (g : Group) (n lane b k v : Nat) : (g.setVpart n lane b k v).halted = g.halted := rfl
@[simp] theorem Group.setVpart_retired (g : Group) (n lane b k v : Nat) : (g.setVpart n lane b k v).retired = g.retired := rfl
@[simp] theorem Group.setVpart_due (g : Group) (n lane b k v : Nat) : (g.setVpart n lane b k v).due = g.due := rfl
@[simp] theorem Group.setVpart_turn (g : Group) (n lane b k v : Nat) : (g.setVpart n lane b k v).turn = g.turn := rfl
@[simp] theorem Group.landV_team (g : Group) (n lane : Nat) (x : Word) : (g.landV n lane x).team = g.team := rfl
@[simp] theorem Group.landV_idx (g : Group) (n lane : Nat) (x : Word) : (g.landV n lane x).idx = g.idx := rfl
@[simp] theorem Group.landV_core (g : Group) (n lane : Nat) (x : Word) : (g.landV n lane x).core = g.core := rfl
@[simp] theorem Group.landV_slot (g : Group) (n lane : Nat) (x : Word) : (g.landV n lane x).slot = g.slot := rfl
@[simp] theorem Group.landV_p (g : Group) (n lane : Nat) (x : Word) : (g.landV n lane x).p = g.p := rfl
@[simp] theorem Group.landV_s (g : Group) (n lane : Nat) (x : Word) : (g.landV n lane x).s = g.s := rfl
@[simp] theorem Group.landV_q (g : Group) (n lane : Nat) (x : Word) : (g.landV n lane x).q = g.q := rfl
@[simp] theorem Group.landV_k (g : Group) (n lane : Nat) (x : Word) : (g.landV n lane x).k = g.k := rfl
@[simp] theorem Group.landV_f (g : Group) (n lane : Nat) (x : Word) : (g.landV n lane x).f = g.f := rfl
@[simp] theorem Group.landV_abase (g : Group) (n lane : Nat) (x : Word) : (g.landV n lane x).abase = g.abase := rfl
@[simp] theorem Group.landV_alimit (g : Group) (n lane : Nat) (x : Word) : (g.landV n lane x).alimit = g.alimit := rfl
@[simp] theorem Group.landV_exited (g : Group) (n lane : Nat) (x : Word) : (g.landV n lane x).exited = g.exited := rfl
@[simp] theorem Group.landV_keys (g : Group) (n lane : Nat) (x : Word) : (g.landV n lane x).keys = g.keys := rfl
@[simp] theorem Group.landV_tops (g : Group) (n lane : Nat) (x : Word) : (g.landV n lane x).tops = g.tops := rfl
@[simp] theorem Group.landV_monitor (g : Group) (n lane : Nat) (x : Word) : (g.landV n lane x).monitor = g.monitor := rfl
@[simp] theorem Group.landV_clk (g : Group) (n lane : Nat) (x : Word) : (g.landV n lane x).clk = g.clk := rfl
@[simp] theorem Group.landV_shtlCount (g : Group) (n lane : Nat) (x : Word) : (g.landV n lane x).shtlCount = g.shtlCount := rfl
@[simp] theorem Group.landV_shtl (g : Group) (n lane : Nat) (x : Word) : (g.landV n lane x).shtl = g.shtl := rfl
@[simp] theorem Group.landV_xf (g : Group) (n lane : Nat) (x : Word) : (g.landV n lane x).xf = g.xf := rfl
@[simp] theorem Group.landV_fallback (g : Group) (n lane : Nat) (x : Word) : (g.landV n lane x).fallback = g.fallback := rfl
@[simp] theorem Group.landV_halted (g : Group) (n lane : Nat) (x : Word) : (g.landV n lane x).halted = g.halted := rfl
@[simp] theorem Group.landV_retired (g : Group) (n lane : Nat) (x : Word) : (g.landV n lane x).retired = g.retired := rfl
@[simp] theorem Group.landV_turn (g : Group) (n lane : Nat) (x : Word) : (g.landV n lane x).turn = g.turn := rfl
@[simp] theorem Group.landV_bad (g : Group) (n lane : Nat) (x : Word) : (g.landV n lane x).bad = g.bad := rfl
@[simp] theorem Group.landV_due (g : Group) (n lane : Nat) (x : Word) : (g.landV n lane x).due = g.due := rfl
@[simp] theorem Group.landV_later (g : Group) (n lane : Nat) (x : Word) : (g.landV n lane x).later = g.later := rfl
@[simp] theorem Group.wipe_v (g : Group) (a : Nat) : (g.wipe a).v = g.v := rfl
@[simp] theorem Group.wipe_team (g : Group) (a : Nat) : (g.wipe a).team = g.team := rfl
@[simp] theorem Group.wipe_idx (g : Group) (a : Nat) : (g.wipe a).idx = g.idx := rfl
@[simp] theorem Group.wipe_core (g : Group) (a : Nat) : (g.wipe a).core = g.core := rfl
@[simp] theorem Group.wipe_slot (g : Group) (a : Nat) : (g.wipe a).slot = g.slot := rfl
@[simp] theorem Group.wipe_p (g : Group) (a : Nat) : (g.wipe a).p = g.p := rfl
@[simp] theorem Group.wipe_s (g : Group) (a : Nat) : (g.wipe a).s = g.s := rfl
@[simp] theorem Group.wipe_q (g : Group) (a : Nat) : (g.wipe a).q = g.q := rfl
@[simp] theorem Group.wipe_k (g : Group) (a : Nat) : (g.wipe a).k = g.k := rfl
@[simp] theorem Group.wipe_f (g : Group) (a : Nat) : (g.wipe a).f = g.f := rfl
@[simp] theorem Group.wipe_abase (g : Group) (a : Nat) : (g.wipe a).abase = g.abase := rfl
@[simp] theorem Group.wipe_alimit (g : Group) (a : Nat) : (g.wipe a).alimit = g.alimit := rfl
@[simp] theorem Group.wipe_exited (g : Group) (a : Nat) : (g.wipe a).exited = g.exited := rfl
@[simp] theorem Group.wipe_keys (g : Group) (a : Nat) : (g.wipe a).keys = g.keys := rfl
@[simp] theorem Group.wipe_tops (g : Group) (a : Nat) : (g.wipe a).tops = g.tops := rfl
@[simp] theorem Group.wipe_monitor (g : Group) (a : Nat) : (g.wipe a).monitor = g.monitor := rfl
@[simp] theorem Group.wipe_clk (g : Group) (a : Nat) : (g.wipe a).clk = g.clk := rfl
@[simp] theorem Group.wipe_shtlCount (g : Group) (a : Nat) : (g.wipe a).shtlCount = g.shtlCount := rfl
@[simp] theorem Group.wipe_shtl (g : Group) (a : Nat) : (g.wipe a).shtl = g.shtl := rfl
@[simp] theorem Group.wipe_xf (g : Group) (a : Nat) : (g.wipe a).xf = g.xf := rfl
@[simp] theorem Group.wipe_fallback (g : Group) (a : Nat) : (g.wipe a).fallback = g.fallback := rfl
@[simp] theorem Group.wipe_halted (g : Group) (a : Nat) : (g.wipe a).halted = g.halted := rfl
@[simp] theorem Group.wipe_retired (g : Group) (a : Nat) : (g.wipe a).retired = g.retired := rfl
@[simp] theorem Group.wipe_turn (g : Group) (a : Nat) : (g.wipe a).turn = g.turn := rfl
@[simp] theorem Group.wipe_due (g : Group) (a : Nat) : (g.wipe a).due = g.due := rfl
@[simp] theorem Group.wipe_later (g : Group) (a : Nat) : (g.wipe a).later = g.later := rfl
@[simp] theorem Group.outrun_v (g : Group) (a b c : Nat) : (g.outrun a b c).v = g.v := rfl
@[simp] theorem Group.outrun_team (g : Group) (a b c : Nat) : (g.outrun a b c).team = g.team := rfl
@[simp] theorem Group.outrun_idx (g : Group) (a b c : Nat) : (g.outrun a b c).idx = g.idx := rfl
@[simp] theorem Group.outrun_core (g : Group) (a b c : Nat) : (g.outrun a b c).core = g.core := rfl
@[simp] theorem Group.outrun_slot (g : Group) (a b c : Nat) : (g.outrun a b c).slot = g.slot := rfl
@[simp] theorem Group.outrun_p (g : Group) (a b c : Nat) : (g.outrun a b c).p = g.p := rfl
@[simp] theorem Group.outrun_s (g : Group) (a b c : Nat) : (g.outrun a b c).s = g.s := rfl
@[simp] theorem Group.outrun_q (g : Group) (a b c : Nat) : (g.outrun a b c).q = g.q := rfl
@[simp] theorem Group.outrun_k (g : Group) (a b c : Nat) : (g.outrun a b c).k = g.k := rfl
@[simp] theorem Group.outrun_f (g : Group) (a b c : Nat) : (g.outrun a b c).f = g.f := rfl
@[simp] theorem Group.outrun_abase (g : Group) (a b c : Nat) : (g.outrun a b c).abase = g.abase := rfl
@[simp] theorem Group.outrun_alimit (g : Group) (a b c : Nat) : (g.outrun a b c).alimit = g.alimit := rfl
@[simp] theorem Group.outrun_exited (g : Group) (a b c : Nat) : (g.outrun a b c).exited = g.exited := rfl
@[simp] theorem Group.outrun_keys (g : Group) (a b c : Nat) : (g.outrun a b c).keys = g.keys := rfl
@[simp] theorem Group.outrun_tops (g : Group) (a b c : Nat) : (g.outrun a b c).tops = g.tops := rfl
@[simp] theorem Group.outrun_monitor (g : Group) (a b c : Nat) : (g.outrun a b c).monitor = g.monitor := rfl
@[simp] theorem Group.outrun_clk (g : Group) (a b c : Nat) : (g.outrun a b c).clk = g.clk := rfl
@[simp] theorem Group.outrun_shtlCount (g : Group) (a b c : Nat) : (g.outrun a b c).shtlCount = g.shtlCount := rfl
@[simp] theorem Group.outrun_shtl (g : Group) (a b c : Nat) : (g.outrun a b c).shtl = g.shtl := rfl
@[simp] theorem Group.outrun_xf (g : Group) (a b c : Nat) : (g.outrun a b c).xf = g.xf := rfl
@[simp] theorem Group.outrun_fallback (g : Group) (a b c : Nat) : (g.outrun a b c).fallback = g.fallback := rfl
@[simp] theorem Group.outrun_halted (g : Group) (a b c : Nat) : (g.outrun a b c).halted = g.halted := rfl
@[simp] theorem Group.outrun_retired (g : Group) (a b c : Nat) : (g.outrun a b c).retired = g.retired := rfl
@[simp] theorem Group.outrun_turn (g : Group) (a b c : Nat) : (g.outrun a b c).turn = g.turn := rfl
@[simp] theorem Group.outrun_bad (g : Group) (a b c : Nat) : (g.outrun a b c).bad = g.bad := rfl
@[simp] theorem Group.outrun_flips (g : Group) (a b c : Nat) : (g.outrun a b c).flips = g.flips := rfl
@[simp] theorem Group.outrun_due (g : Group) (a b c : Nat) : (g.outrun a b c).due = g.due := rfl
@[simp] theorem Group.setS_team (g : Group) (n : Nat) (x : Word) : (g.setS n x).team = g.team := rfl
@[simp] theorem Group.setS_idx (g : Group) (n : Nat) (x : Word) : (g.setS n x).idx = g.idx := rfl
@[simp] theorem Group.setS_core (g : Group) (n : Nat) (x : Word) : (g.setS n x).core = g.core := rfl
@[simp] theorem Group.setS_slot (g : Group) (n : Nat) (x : Word) : (g.setS n x).slot = g.slot := rfl
@[simp] theorem Group.setS_v (g : Group) (n : Nat) (x : Word) : (g.setS n x).v = g.v := rfl
@[simp] theorem Group.setS_p (g : Group) (n : Nat) (x : Word) : (g.setS n x).p = g.p := rfl
@[simp] theorem Group.setS_q (g : Group) (n : Nat) (x : Word) : (g.setS n x).q = g.q := rfl
@[simp] theorem Group.setS_k (g : Group) (n : Nat) (x : Word) : (g.setS n x).k = g.k := rfl
@[simp] theorem Group.setS_f (g : Group) (n : Nat) (x : Word) : (g.setS n x).f = g.f := rfl
@[simp] theorem Group.setS_abase (g : Group) (n : Nat) (x : Word) : (g.setS n x).abase = g.abase := rfl
@[simp] theorem Group.setS_alimit (g : Group) (n : Nat) (x : Word) : (g.setS n x).alimit = g.alimit := rfl
@[simp] theorem Group.setS_exited (g : Group) (n : Nat) (x : Word) : (g.setS n x).exited = g.exited := rfl
@[simp] theorem Group.setS_keys (g : Group) (n : Nat) (x : Word) : (g.setS n x).keys = g.keys := rfl
@[simp] theorem Group.setS_tops (g : Group) (n : Nat) (x : Word) : (g.setS n x).tops = g.tops := rfl
@[simp] theorem Group.setS_monitor (g : Group) (n : Nat) (x : Word) : (g.setS n x).monitor = g.monitor := rfl
@[simp] theorem Group.setS_clk (g : Group) (n : Nat) (x : Word) : (g.setS n x).clk = g.clk := rfl
@[simp] theorem Group.setS_shtlCount (g : Group) (n : Nat) (x : Word) : (g.setS n x).shtlCount = g.shtlCount := rfl
@[simp] theorem Group.setS_shtl (g : Group) (n : Nat) (x : Word) : (g.setS n x).shtl = g.shtl := rfl
@[simp] theorem Group.setS_xf (g : Group) (n : Nat) (x : Word) : (g.setS n x).xf = g.xf := rfl
@[simp] theorem Group.setS_fallback (g : Group) (n : Nat) (x : Word) : (g.setS n x).fallback = g.fallback := rfl
@[simp] theorem Group.setS_halted (g : Group) (n : Nat) (x : Word) : (g.setS n x).halted = g.halted := rfl
@[simp] theorem Group.setS_retired (g : Group) (n : Nat) (x : Word) : (g.setS n x).retired = g.retired := rfl
@[simp] theorem Group.setS_turn (g : Group) (n : Nat) (x : Word) : (g.setS n x).turn = g.turn := rfl
@[simp] theorem Group.setPreds_team (g : Group) (n : Nat) (m x : Lanes) : (g.setPreds n m x).team = g.team := rfl
@[simp] theorem Group.setPreds_idx (g : Group) (n : Nat) (m x : Lanes) : (g.setPreds n m x).idx = g.idx := rfl
@[simp] theorem Group.setPreds_core (g : Group) (n : Nat) (m x : Lanes) : (g.setPreds n m x).core = g.core := rfl
@[simp] theorem Group.setPreds_slot (g : Group) (n : Nat) (m x : Lanes) : (g.setPreds n m x).slot = g.slot := rfl
@[simp] theorem Group.setPreds_v (g : Group) (n : Nat) (m x : Lanes) : (g.setPreds n m x).v = g.v := rfl
@[simp] theorem Group.setPreds_s (g : Group) (n : Nat) (m x : Lanes) : (g.setPreds n m x).s = g.s := rfl
@[simp] theorem Group.setPreds_q (g : Group) (n : Nat) (m x : Lanes) : (g.setPreds n m x).q = g.q := rfl
@[simp] theorem Group.setPreds_k (g : Group) (n : Nat) (m x : Lanes) : (g.setPreds n m x).k = g.k := rfl
@[simp] theorem Group.setPreds_f (g : Group) (n : Nat) (m x : Lanes) : (g.setPreds n m x).f = g.f := rfl
@[simp] theorem Group.setPreds_abase (g : Group) (n : Nat) (m x : Lanes) : (g.setPreds n m x).abase = g.abase := rfl
@[simp] theorem Group.setPreds_alimit (g : Group) (n : Nat) (m x : Lanes) : (g.setPreds n m x).alimit = g.alimit := rfl
@[simp] theorem Group.setPreds_exited (g : Group) (n : Nat) (m x : Lanes) : (g.setPreds n m x).exited = g.exited := rfl
@[simp] theorem Group.setPreds_keys (g : Group) (n : Nat) (m x : Lanes) : (g.setPreds n m x).keys = g.keys := rfl
@[simp] theorem Group.setPreds_tops (g : Group) (n : Nat) (m x : Lanes) : (g.setPreds n m x).tops = g.tops := rfl
@[simp] theorem Group.setPreds_monitor (g : Group) (n : Nat) (m x : Lanes) : (g.setPreds n m x).monitor = g.monitor := rfl
@[simp] theorem Group.setPreds_clk (g : Group) (n : Nat) (m x : Lanes) : (g.setPreds n m x).clk = g.clk := rfl
@[simp] theorem Group.setPreds_shtlCount (g : Group) (n : Nat) (m x : Lanes) : (g.setPreds n m x).shtlCount = g.shtlCount := rfl
@[simp] theorem Group.setPreds_shtl (g : Group) (n : Nat) (m x : Lanes) : (g.setPreds n m x).shtl = g.shtl := rfl
@[simp] theorem Group.setPreds_bad (g : Group) (n : Nat) (m x : Lanes) : (g.setPreds n m x).bad = g.bad := rfl
@[simp] theorem Group.setPreds_flips (g : Group) (n : Nat) (m x : Lanes) : (g.setPreds n m x).flips = g.flips := rfl
@[simp] theorem Group.setPreds_xf (g : Group) (n : Nat) (m x : Lanes) : (g.setPreds n m x).xf = g.xf := rfl
@[simp] theorem Group.setPreds_fallback (g : Group) (n : Nat) (m x : Lanes) : (g.setPreds n m x).fallback = g.fallback := rfl
@[simp] theorem Group.setPreds_halted (g : Group) (n : Nat) (m x : Lanes) : (g.setPreds n m x).halted = g.halted := rfl
@[simp] theorem Group.setPreds_retired (g : Group) (n : Nat) (m x : Lanes) : (g.setPreds n m x).retired = g.retired := rfl
@[simp] theorem Group.setPreds_due (g : Group) (n : Nat) (m x : Lanes) : (g.setPreds n m x).due = g.due := rfl
@[simp] theorem Group.setPreds_later (g : Group) (n : Nat) (m x : Lanes) : (g.setPreds n m x).later = g.later := rfl
@[simp] theorem Group.setPreds_turn (g : Group) (n : Nat) (m x : Lanes) : (g.setPreds n m x).turn = g.turn := rfl
@[simp] theorem Group.setQ_team (g : Group) (n : Nat) (b : Bool) : (g.setQ n b).team = g.team := rfl
@[simp] theorem Group.setQ_idx (g : Group) (n : Nat) (b : Bool) : (g.setQ n b).idx = g.idx := rfl
@[simp] theorem Group.setQ_core (g : Group) (n : Nat) (b : Bool) : (g.setQ n b).core = g.core := rfl
@[simp] theorem Group.setQ_slot (g : Group) (n : Nat) (b : Bool) : (g.setQ n b).slot = g.slot := rfl
@[simp] theorem Group.setQ_v (g : Group) (n : Nat) (b : Bool) : (g.setQ n b).v = g.v := rfl
@[simp] theorem Group.setQ_p (g : Group) (n : Nat) (b : Bool) : (g.setQ n b).p = g.p := rfl
@[simp] theorem Group.setQ_s (g : Group) (n : Nat) (b : Bool) : (g.setQ n b).s = g.s := rfl
@[simp] theorem Group.setQ_k (g : Group) (n : Nat) (b : Bool) : (g.setQ n b).k = g.k := rfl
@[simp] theorem Group.setQ_f (g : Group) (n : Nat) (b : Bool) : (g.setQ n b).f = g.f := rfl
@[simp] theorem Group.setQ_abase (g : Group) (n : Nat) (b : Bool) : (g.setQ n b).abase = g.abase := rfl
@[simp] theorem Group.setQ_alimit (g : Group) (n : Nat) (b : Bool) : (g.setQ n b).alimit = g.alimit := rfl
@[simp] theorem Group.setQ_exited (g : Group) (n : Nat) (b : Bool) : (g.setQ n b).exited = g.exited := rfl
@[simp] theorem Group.setQ_keys (g : Group) (n : Nat) (b : Bool) : (g.setQ n b).keys = g.keys := rfl
@[simp] theorem Group.setQ_tops (g : Group) (n : Nat) (b : Bool) : (g.setQ n b).tops = g.tops := rfl
@[simp] theorem Group.setQ_monitor (g : Group) (n : Nat) (b : Bool) : (g.setQ n b).monitor = g.monitor := rfl
@[simp] theorem Group.setQ_clk (g : Group) (n : Nat) (b : Bool) : (g.setQ n b).clk = g.clk := rfl
@[simp] theorem Group.setQ_shtlCount (g : Group) (n : Nat) (b : Bool) : (g.setQ n b).shtlCount = g.shtlCount := rfl
@[simp] theorem Group.setQ_shtl (g : Group) (n : Nat) (b : Bool) : (g.setQ n b).shtl = g.shtl := rfl
@[simp] theorem Group.setQ_bad (g : Group) (n : Nat) (b : Bool) : (g.setQ n b).bad = g.bad := rfl
@[simp] theorem Group.setQ_flips (g : Group) (n : Nat) (b : Bool) : (g.setQ n b).flips = g.flips := rfl
@[simp] theorem Group.setQ_xf (g : Group) (n : Nat) (b : Bool) : (g.setQ n b).xf = g.xf := rfl
@[simp] theorem Group.setQ_fallback (g : Group) (n : Nat) (b : Bool) : (g.setQ n b).fallback = g.fallback := rfl
@[simp] theorem Group.setQ_halted (g : Group) (n : Nat) (b : Bool) : (g.setQ n b).halted = g.halted := rfl
@[simp] theorem Group.setQ_retired (g : Group) (n : Nat) (b : Bool) : (g.setQ n b).retired = g.retired := rfl
@[simp] theorem Group.setQ_due (g : Group) (n : Nat) (b : Bool) : (g.setQ n b).due = g.due := rfl
@[simp] theorem Group.setQ_later (g : Group) (n : Nat) (b : Bool) : (g.setQ n b).later = g.later := rfl
@[simp] theorem Group.setQ_turn (g : Group) (n : Nat) (b : Bool) : (g.setQ n b).turn = g.turn := rfl
@[simp] theorem Group.setTag_team (g : Group) (n : Nat) (t : Tag) : (g.setTag n t).team = g.team := rfl
@[simp] theorem Group.setTag_idx (g : Group) (n : Nat) (t : Tag) : (g.setTag n t).idx = g.idx := rfl
@[simp] theorem Group.setTag_core (g : Group) (n : Nat) (t : Tag) : (g.setTag n t).core = g.core := rfl
@[simp] theorem Group.setTag_slot (g : Group) (n : Nat) (t : Tag) : (g.setTag n t).slot = g.slot := rfl
@[simp] theorem Group.setTag_v (g : Group) (n : Nat) (t : Tag) : (g.setTag n t).v = g.v := rfl
@[simp] theorem Group.setTag_p (g : Group) (n : Nat) (t : Tag) : (g.setTag n t).p = g.p := rfl
@[simp] theorem Group.setTag_s (g : Group) (n : Nat) (t : Tag) : (g.setTag n t).s = g.s := rfl
@[simp] theorem Group.setTag_q (g : Group) (n : Nat) (t : Tag) : (g.setTag n t).q = g.q := rfl
@[simp] theorem Group.setTag_f (g : Group) (n : Nat) (t : Tag) : (g.setTag n t).f = g.f := rfl
@[simp] theorem Group.setTag_abase (g : Group) (n : Nat) (t : Tag) : (g.setTag n t).abase = g.abase := rfl
@[simp] theorem Group.setTag_alimit (g : Group) (n : Nat) (t : Tag) : (g.setTag n t).alimit = g.alimit := rfl
@[simp] theorem Group.setTag_exited (g : Group) (n : Nat) (t : Tag) : (g.setTag n t).exited = g.exited := rfl
@[simp] theorem Group.setTag_keys (g : Group) (n : Nat) (t : Tag) : (g.setTag n t).keys = g.keys := rfl
@[simp] theorem Group.setTag_tops (g : Group) (n : Nat) (t : Tag) : (g.setTag n t).tops = g.tops := rfl
@[simp] theorem Group.setTag_monitor (g : Group) (n : Nat) (t : Tag) : (g.setTag n t).monitor = g.monitor := rfl
@[simp] theorem Group.setTag_clk (g : Group) (n : Nat) (t : Tag) : (g.setTag n t).clk = g.clk := rfl
@[simp] theorem Group.setTag_shtlCount (g : Group) (n : Nat) (t : Tag) : (g.setTag n t).shtlCount = g.shtlCount := rfl
@[simp] theorem Group.setTag_shtl (g : Group) (n : Nat) (t : Tag) : (g.setTag n t).shtl = g.shtl := rfl
@[simp] theorem Group.setTag_bad (g : Group) (n : Nat) (t : Tag) : (g.setTag n t).bad = g.bad := rfl
@[simp] theorem Group.setTag_flips (g : Group) (n : Nat) (t : Tag) : (g.setTag n t).flips = g.flips := rfl
@[simp] theorem Group.setTag_xf (g : Group) (n : Nat) (t : Tag) : (g.setTag n t).xf = g.xf := rfl
@[simp] theorem Group.setTag_fallback (g : Group) (n : Nat) (t : Tag) : (g.setTag n t).fallback = g.fallback := rfl
@[simp] theorem Group.setTag_halted (g : Group) (n : Nat) (t : Tag) : (g.setTag n t).halted = g.halted := rfl
@[simp] theorem Group.setTag_retired (g : Group) (n : Nat) (t : Tag) : (g.setTag n t).retired = g.retired := rfl
@[simp] theorem Group.setTag_due (g : Group) (n : Nat) (t : Tag) : (g.setTag n t).due = g.due := rfl
@[simp] theorem Group.setTag_later (g : Group) (n : Nat) (t : Tag) : (g.setTag n t).later = g.later := rfl
@[simp] theorem Group.setTag_turn (g : Group) (n : Nat) (t : Tag) : (g.setTag n t).turn = g.turn := rfl
@[simp] theorem Group.setFold_team (g : Group) (n : Nat) (x : DWord) : (g.setFold n x).team = g.team := rfl
@[simp] theorem Group.setFold_idx (g : Group) (n : Nat) (x : DWord) : (g.setFold n x).idx = g.idx := rfl
@[simp] theorem Group.setFold_core (g : Group) (n : Nat) (x : DWord) : (g.setFold n x).core = g.core := rfl
@[simp] theorem Group.setFold_slot (g : Group) (n : Nat) (x : DWord) : (g.setFold n x).slot = g.slot := rfl
@[simp] theorem Group.setFold_v (g : Group) (n : Nat) (x : DWord) : (g.setFold n x).v = g.v := rfl
@[simp] theorem Group.setFold_p (g : Group) (n : Nat) (x : DWord) : (g.setFold n x).p = g.p := rfl
@[simp] theorem Group.setFold_s (g : Group) (n : Nat) (x : DWord) : (g.setFold n x).s = g.s := rfl
@[simp] theorem Group.setFold_q (g : Group) (n : Nat) (x : DWord) : (g.setFold n x).q = g.q := rfl
@[simp] theorem Group.setFold_k (g : Group) (n : Nat) (x : DWord) : (g.setFold n x).k = g.k := rfl
@[simp] theorem Group.setFold_abase (g : Group) (n : Nat) (x : DWord) : (g.setFold n x).abase = g.abase := rfl
@[simp] theorem Group.setFold_alimit (g : Group) (n : Nat) (x : DWord) : (g.setFold n x).alimit = g.alimit := rfl
@[simp] theorem Group.setFold_exited (g : Group) (n : Nat) (x : DWord) : (g.setFold n x).exited = g.exited := rfl
@[simp] theorem Group.setFold_keys (g : Group) (n : Nat) (x : DWord) : (g.setFold n x).keys = g.keys := rfl
@[simp] theorem Group.setFold_tops (g : Group) (n : Nat) (x : DWord) : (g.setFold n x).tops = g.tops := rfl
@[simp] theorem Group.setFold_monitor (g : Group) (n : Nat) (x : DWord) : (g.setFold n x).monitor = g.monitor := rfl
@[simp] theorem Group.setFold_clk (g : Group) (n : Nat) (x : DWord) : (g.setFold n x).clk = g.clk := rfl
@[simp] theorem Group.setFold_shtlCount (g : Group) (n : Nat) (x : DWord) : (g.setFold n x).shtlCount = g.shtlCount := rfl
@[simp] theorem Group.setFold_shtl (g : Group) (n : Nat) (x : DWord) : (g.setFold n x).shtl = g.shtl := rfl
@[simp] theorem Group.setFold_xf (g : Group) (n : Nat) (x : DWord) : (g.setFold n x).xf = g.xf := rfl
@[simp] theorem Group.setFold_fallback (g : Group) (n : Nat) (x : DWord) : (g.setFold n x).fallback = g.fallback := rfl
@[simp] theorem Group.setFold_halted (g : Group) (n : Nat) (x : DWord) : (g.setFold n x).halted = g.halted := rfl
@[simp] theorem Group.setFold_retired (g : Group) (n : Nat) (x : DWord) : (g.setFold n x).retired = g.retired := rfl
@[simp] theorem Group.setFold_due (g : Group) (n : Nat) (x : DWord) : (g.setFold n x).due = g.due := rfl
@[simp] theorem Group.setFold_later (g : Group) (n : Nat) (x : DWord) : (g.setFold n x).later = g.later := rfl
@[simp] theorem Group.setFold_turn (g : Group) (n : Nat) (x : DWord) : (g.setFold n x).turn = g.turn := rfl
@[simp] theorem Group.setKey_team (g : Group) (j k : Nat) : (g.setKey j k).team = g.team := rfl
@[simp] theorem Group.setKey_idx (g : Group) (j k : Nat) : (g.setKey j k).idx = g.idx := rfl
@[simp] theorem Group.setKey_core (g : Group) (j k : Nat) : (g.setKey j k).core = g.core := rfl
@[simp] theorem Group.setKey_slot (g : Group) (j k : Nat) : (g.setKey j k).slot = g.slot := rfl
@[simp] theorem Group.setKey_v (g : Group) (j k : Nat) : (g.setKey j k).v = g.v := rfl
@[simp] theorem Group.setKey_p (g : Group) (j k : Nat) : (g.setKey j k).p = g.p := rfl
@[simp] theorem Group.setKey_s (g : Group) (j k : Nat) : (g.setKey j k).s = g.s := rfl
@[simp] theorem Group.setKey_q (g : Group) (j k : Nat) : (g.setKey j k).q = g.q := rfl
@[simp] theorem Group.setKey_k (g : Group) (j k : Nat) : (g.setKey j k).k = g.k := rfl
@[simp] theorem Group.setKey_f (g : Group) (j k : Nat) : (g.setKey j k).f = g.f := rfl
@[simp] theorem Group.setKey_abase (g : Group) (j k : Nat) : (g.setKey j k).abase = g.abase := rfl
@[simp] theorem Group.setKey_alimit (g : Group) (j k : Nat) : (g.setKey j k).alimit = g.alimit := rfl
@[simp] theorem Group.setKey_exited (g : Group) (j k : Nat) : (g.setKey j k).exited = g.exited := rfl
@[simp] theorem Group.setKey_tops (g : Group) (j k : Nat) : (g.setKey j k).tops = g.tops := rfl
@[simp] theorem Group.setKey_monitor (g : Group) (j k : Nat) : (g.setKey j k).monitor = g.monitor := rfl
@[simp] theorem Group.setKey_clk (g : Group) (j k : Nat) : (g.setKey j k).clk = g.clk := rfl
@[simp] theorem Group.setKey_shtlCount (g : Group) (j k : Nat) : (g.setKey j k).shtlCount = g.shtlCount := rfl
@[simp] theorem Group.setKey_shtl (g : Group) (j k : Nat) : (g.setKey j k).shtl = g.shtl := rfl
@[simp] theorem Group.setKey_bad (g : Group) (j k : Nat) : (g.setKey j k).bad = g.bad := rfl
@[simp] theorem Group.setKey_flips (g : Group) (j k : Nat) : (g.setKey j k).flips = g.flips := rfl
@[simp] theorem Group.setKey_xf (g : Group) (j k : Nat) : (g.setKey j k).xf = g.xf := rfl
@[simp] theorem Group.setKey_fallback (g : Group) (j k : Nat) : (g.setKey j k).fallback = g.fallback := rfl
@[simp] theorem Group.setKey_halted (g : Group) (j k : Nat) : (g.setKey j k).halted = g.halted := rfl
@[simp] theorem Group.setKey_retired (g : Group) (j k : Nat) : (g.setKey j k).retired = g.retired := rfl
@[simp] theorem Group.setKey_due (g : Group) (j k : Nat) : (g.setKey j k).due = g.due := rfl
@[simp] theorem Group.setKey_later (g : Group) (j k : Nat) : (g.setKey j k).later = g.later := rfl
@[simp] theorem Group.setKey_turn (g : Group) (j k : Nat) : (g.setKey j k).turn = g.turn := rfl

/-! ## Paths -/

@[simp] theorem Path.retire_locking (p : Path) (q : Bool) (l : Latch) : (p.retire q l).locking = 0 := rfl
@[simp] theorem Path.jump_locking (p : Path) (q : Bool) (a : DWord) : (p.jump q a).locking = 0 := rfl
@[simp] theorem Path.retire_grp (p : Path) (q : Bool) (l : Latch) : (p.retire q l).grp = p.grp := rfl
@[simp] theorem Path.retire_mask (p : Path) (q : Bool) (l : Latch) : (p.retire q l).mask = p.mask := rfl
@[simp] theorem Path.retire_exec (p : Path) (q : Bool) (l : Latch) : (p.retire q l).exec = p.exec := rfl
@[simp] theorem Path.retire_fmt (p : Path) (q : Bool) (l : Latch) : (p.retire q l).fmt = p.fmt := rfl
@[simp] theorem Path.retire_fstat (p : Path) (q : Bool) (l : Latch) : (p.retire q l).fstat = p.fstat := rfl
@[simp] theorem Path.retire_frames (p : Path) (q : Bool) (l : Latch) : (p.retire q l).frames = p.frames := rfl
@[simp] theorem Path.retire_wait (p : Path) (q : Bool) (l : Latch) : (p.retire q l).wait = p.wait := rfl
@[simp] theorem Path.retire_trapCode (p : Path) (q : Bool) (l : Latch) : (p.retire q l).trapCode = p.trapCode := rfl
@[simp] theorem Path.retire_trapPc (p : Path) (q : Bool) (l : Latch) : (p.retire q l).trapPc = p.trapPc := rfl
@[simp] theorem Path.retire_trapArg (p : Path) (q : Bool) (l : Latch) : (p.retire q l).trapArg = p.trapArg := rfl
@[simp] theorem Path.retire_bindAddr (p : Path) (q : Bool) (l : Latch) : (p.retire q l).bindAddr = p.bindAddr := rfl
@[simp] theorem Path.retire_inHandler (p : Path) (q : Bool) (l : Latch) : (p.retire q l).inHandler = p.inHandler := rfl
@[simp] theorem Path.retire_trapQ (p : Path) (q : Bool) (l : Latch) : (p.retire q l).trapQ = p.trapQ := rfl
@[simp] theorem Path.retire_acquires (p : Path) (q : Bool) (l : Latch) : (p.retire q l).acquires = p.acquires := rfl
@[simp] theorem Path.retire_hold (p : Path) (q : Bool) (l : Latch) : (p.retire q l).hold = p.hold := rfl
@[simp] theorem Path.retire_live (p : Path) (q : Bool) (l : Latch) : (p.retire q l).live = p.live := rfl
@[simp] theorem Path.retire_fresh (p : Path) (q : Bool) (l : Latch) : (p.retire q l).fresh = p.fresh := rfl
@[simp] theorem Path.retire_waited (p : Path) (q : Bool) (l : Latch) : (p.retire q l).waited = p.waited := rfl
@[simp] theorem Path.retire_nextChain (p : Path) (q : Bool) (l : Latch) : (p.retire q l).nextChain = p.nextChain := rfl
@[simp] theorem Path.jump_grp (p : Path) (q : Bool) (a : DWord) : (p.jump q a).grp = p.grp := rfl
@[simp] theorem Path.jump_mask (p : Path) (q : Bool) (a : DWord) : (p.jump q a).mask = p.mask := rfl
@[simp] theorem Path.jump_exec (p : Path) (q : Bool) (a : DWord) : (p.jump q a).exec = p.exec := rfl
@[simp] theorem Path.jump_fmt (p : Path) (q : Bool) (a : DWord) : (p.jump q a).fmt = p.fmt := rfl
@[simp] theorem Path.jump_fstat (p : Path) (q : Bool) (a : DWord) : (p.jump q a).fstat = p.fstat := rfl
@[simp] theorem Path.jump_frames (p : Path) (q : Bool) (a : DWord) : (p.jump q a).frames = p.frames := rfl
@[simp] theorem Path.jump_wait (p : Path) (q : Bool) (a : DWord) : (p.jump q a).wait = p.wait := rfl
@[simp] theorem Path.jump_trapCode (p : Path) (q : Bool) (a : DWord) : (p.jump q a).trapCode = p.trapCode := rfl
@[simp] theorem Path.jump_trapPc (p : Path) (q : Bool) (a : DWord) : (p.jump q a).trapPc = p.trapPc := rfl
@[simp] theorem Path.jump_trapArg (p : Path) (q : Bool) (a : DWord) : (p.jump q a).trapArg = p.trapArg := rfl
@[simp] theorem Path.jump_bindAddr (p : Path) (q : Bool) (a : DWord) : (p.jump q a).bindAddr = p.bindAddr := rfl
@[simp] theorem Path.jump_inHandler (p : Path) (q : Bool) (a : DWord) : (p.jump q a).inHandler = p.inHandler := rfl
@[simp] theorem Path.jump_trapQ (p : Path) (q : Bool) (a : DWord) : (p.jump q a).trapQ = p.trapQ := rfl
@[simp] theorem Path.jump_acquires (p : Path) (q : Bool) (a : DWord) : (p.jump q a).acquires = p.acquires := rfl
@[simp] theorem Path.jump_hold (p : Path) (q : Bool) (a : DWord) : (p.jump q a).hold = p.hold := rfl
@[simp] theorem Path.jump_live (p : Path) (q : Bool) (a : DWord) : (p.jump q a).live = p.live := rfl
@[simp] theorem Path.jump_fresh (p : Path) (q : Bool) (a : DWord) : (p.jump q a).fresh = p.fresh := rfl
@[simp] theorem Path.jump_waited (p : Path) (q : Bool) (a : DWord) : (p.jump q a).waited = p.waited := rfl
@[simp] theorem Path.jump_nextChain (p : Path) (q : Bool) (a : DWord) : (p.jump q a).nextChain = p.nextChain := rfl
@[simp] theorem Path.retire_pc (p : Path) (q : Bool) (l : Latch) : (p.retire q l).pc = nextPc p.pc q := rfl
@[simp] theorem Path.jump_pc (p : Path) (q : Bool) (a : DWord) : (p.jump q a).pc = a := rfl
@[simp] theorem Path.retire_chain (p : Path) (q : Bool) (l : Latch) : (p.retire q l).chain = p.chain.tail := rfl
@[simp] theorem Path.jump_chain (p : Path) (q : Bool) (a : DWord) : (p.jump q a).chain = [] := rfl

/-! ## Registers after a write -/

variable (g : Group)

theorem Group.vreg_setV (n l : Nat) (x : Word) (m k : Nat) (hl : l < 64) (hk : k < 64) :
    (g.setV n l x).vreg m k = if m = n ∧ k = l then x else g.vreg m k := by
  unfold Group.vreg Group.setV
  simp only [SMap.getD_set]
  by_cases h : m = n ∧ k = l
  · simp [h]
  · rw [if_neg h, if_neg]; omega

theorem Group.vreg_landV (n l : Nat) (x : Word) (m k : Nat) (hl : l < 64) (hk : k < 64) :
    (g.landV n l x).vreg m k = if m = n ∧ k = l then x else g.vreg m k := by
  unfold Group.vreg Group.landV
  simp only [SMap.getD_set]
  by_cases h : m = n ∧ k = l
  · simp [h]
  · rw [if_neg h, if_neg]; omega

theorem Group.vreg_setVpart (n l b i v m k : Nat) (hl : l < 64) (hk : k < 64) :
    (g.setVpart n l b i v).vreg m k = if m = n ∧ k = l then putBytes (g.vreg n l) b i v else g.vreg m k := by
  unfold Group.setVpart; rw [Group.vreg_landV _ _ _ _ _ _ hl hk]; rfl

@[simp] theorem Group.vreg_wipe (a m k : Nat) : (g.wipe a).vreg m k = g.vreg m k := rfl
@[simp] theorem Group.sreg_wipe (a n : Nat) : (g.wipe a).sreg n = g.sreg n := rfl

theorem Group.sreg_setS (n : Nat) (x : Word) (m : Nat) : (g.setS n x).sreg m = if m = n then x else g.sreg m := by
  unfold Group.sreg Group.setS; exact SMap.getD_set ..

@[simp] theorem Group.sreg_setV (n l : Nat) (x : Word) (m : Nat) : (g.setV n l x).sreg m = g.sreg m := rfl
@[simp] theorem Group.vreg_setS (n : Nat) (x : Word) (m k : Nat) : (g.setS n x).vreg m k = g.vreg m k := rfl

theorem Group.preds_setPreds (n : Nat) (m x : Lanes) (k l : Nat) :
    hasLane ((g.setPreds n m x).preds k) l =
      if k = n ∧ hasLane m l = true then hasLane x l else hasLane (g.preds k) l := by
  unfold Group.preds Group.setPreds hasLane
  simp only [SMap.getD_set]
  by_cases hk : k = n
  · subst hk
    by_cases hl : l < 64
    · simp only [if_true, true_and, BitVec.getLsbD_or, BitVec.getLsbD_and, BitVec.getLsbD_not, hl, decide_true,
        Bool.true_and, Group.preds]
      cases m.getLsbD l <;> simp
    · have h1 : ∀ y : Lanes, y.getLsbD l = false := fun y => BitVec.getLsbD_of_ge y l (by omega)
      simp [h1]
  · simp [hk]

theorem Group.qreg_setQ (n : Nat) (b : Bool) (k : Nat) (hk : k < 16) :
    (g.setQ n b).qreg k = if k = n then b else g.qreg k := by
  have e : (BitVec.ofNat 16 (2 ^ n)).getLsbD k = decide (k = n) := by
    rw [BitVec.getLsbD_ofNat]; simp [hk, Nat.testBit_two_pow, eq_comm]
  unfold Group.qreg Group.setQ
  cases b
  · simp only [Bool.false_eq_true, if_false, BitVec.getLsbD_and, BitVec.getLsbD_not, e, hk, decide_true, Bool.true_and]
    by_cases h : k = n <;> simp [h]
  · simp only [if_true, BitVec.getLsbD_or, e]
    by_cases h : k = n <;> simp [h]

theorem Group.tag_setTag (n : Nat) (t : Tag) (k : Nat) : (g.setTag n t).tag k = if k = n then t else g.tag k := by
  unfold Group.tag Group.setTag; exact SMap.getD_set ..

theorem Group.fold_setFold (n : Nat) (x : DWord) (k : Nat) : (g.setFold n x).fold k = if k = n then x else g.fold k := by
  unfold Group.fold Group.setFold; exact SMap.getD_set ..

theorem pair_lo_hi (x : DWord) : pair (loWord x) (hiWord x) = x := by
  apply BitVec.eq_of_getLsbD_eq
  intro i hi
  unfold pair loWord hiWord
  rw [BitVec.getLsbD_append]
  by_cases h : i < 32
  · simp [h]
  · have : i - 32 < 32 := by omega
    have e : 32 + (i - 32) = i := by omega
    simp [h, this, e]

theorem Group.spair_setSpair (n : Nat) (x : DWord) : (g.setSpair n x).spair n = x := by
  unfold Group.spair Group.setSpair
  simp only [Group.sreg_setS]
  simp [pair_lo_hi]

theorem Group.sreg_setSpair (n : Nat) (x : DWord) (m : Nat) (h1 : m ≠ n) (h2 : m ≠ n + 1) :
    (g.setSpair n x).sreg m = g.sreg m := by
  unfold Group.setSpair
  simp [Group.sreg_setS, h1, h2]

theorem Group.vpair_setVpair (n l : Nat) (x : DWord) (hl : l < 64) : (g.setVpair n l x).vpair n l = x := by
  unfold Group.vpair Group.setVpair
  simp [Group.vreg_setV, hl, pair_lo_hi]

theorem Group.vreg_setVpair (n l : Nat) (x : DWord) (m k : Nat) (hl : l < 64) (hk : k < 64)
    (h : ¬ ((m = n ∨ m = n + 1) ∧ k = l)) : (g.setVpair n l x).vreg m k = g.vreg m k := by
  unfold Group.setVpair
  rw [Group.vreg_setV _ _ _ _ _ _ hl hk, if_neg (by omega), Group.vreg_setV _ _ _ _ _ _ hl hk, if_neg (by omega)]

/-! ## Lanes -/

theorem hasLane_lt (m : Lanes) (l : Nat) (h : hasLane m l = true) : l < 64 := by
  unfold hasLane at h
  by_cases h' : l < 64
  · exact h'
  · rw [BitVec.getLsbD_of_ge m l (by omega)] at h; cases h

theorem mem_lanesBelow (w : Nat) (m : Lanes) (l : Nat) : l ∈ lanesBelow w m ↔ l < w ∧ hasLane m l = true := by
  simp [lanesBelow, List.mem_filter]

theorem nodup_lanesBelow (w : Nat) (m : Lanes) : (lanesBelow w m).Nodup := List.nodup_range.filter _

theorem lt_of_mem_lanesBelow {w : Nat} {m : Lanes} {l : Nat} (h : l ∈ lanesBelow w m) : l < 64 :=
  hasLane_lt m l ((mem_lanesBelow w m l).mp h).2

@[simp] theorem hasLane_and (a b : Lanes) (l : Nat) : hasLane (a &&& b) l = (hasLane a l && hasLane b l) := by
  simp [hasLane]

theorem hasLane_lowLanes (n l : Nat) : hasLane (lowLanes n) l = (decide (l < n) && decide (l < 64)) := by
  unfold hasLane lowLanes
  rw [BitVec.getLsbD_ofNat, Nat.testBit_two_pow_sub_one, Bool.and_comm]

/-! ## The state's tables -/

@[simp] theorem State.setGroup_paths (s : State) (n : Nat) (g : Group) : (s.setGroup n g).paths = s.paths := rfl
@[simp] theorem State.setPath_groups (s : State) (n : Nat) (p : Path) : (s.setPath n p).groups = s.groups := rfl
@[simp] theorem State.setGroup_mem (s : State) (n : Nat) (g : Group) : (s.setGroup n g).mem = s.mem := rfl
@[simp] theorem State.setPath_mem (s : State) (n : Nat) (p : Path) : (s.setPath n p).mem = s.mem := rfl
@[simp] theorem State.setTeam_mem (s : State) (n : Nat) (t : Team) : (s.setTeam n t).mem = s.mem := rfl
@[simp] theorem State.setEntry_mem (s : State) (n : Nat) (e : Entry) : (s.setEntry n e).mem = s.mem := rfl
@[simp] theorem State.setCore_mem (s : State) (n : Nat) (c : Core) : (s.setCore n c).mem = s.mem := rfl
@[simp] theorem State.setFn_mem (s : State) (n : Nat) (f : Fn) : (s.setFn n f).mem = s.mem := rfl
@[simp] theorem State.setQueue_mem (s : State) (n q : Nat) (x : Queue) : (s.setQueue n q x).mem = s.mem := rfl
@[simp] theorem State.addReq_mem (s : State) (r : Req) : (s.addReq r).mem = s.mem := rfl
@[simp] theorem State.addOp_mem (s : State) (o : Op) : (s.addOp o).mem = s.mem := rfl
@[simp] theorem State.setGroup_reqs (s : State) (n : Nat) (g : Group) : (s.setGroup n g).reqs = s.reqs := rfl
@[simp] theorem State.setPath_reqs (s : State) (n : Nat) (p : Path) : (s.setPath n p).reqs = s.reqs := rfl
@[simp] theorem State.setTeam_reqs (s : State) (n : Nat) (t : Team) : (s.setTeam n t).reqs = s.reqs := rfl
@[simp] theorem State.setEntry_reqs (s : State) (n : Nat) (e : Entry) : (s.setEntry n e).reqs = s.reqs := rfl
@[simp] theorem State.setCore_reqs (s : State) (n : Nat) (c : Core) : (s.setCore n c).reqs = s.reqs := rfl
@[simp] theorem State.setGroup_ops (s : State) (n : Nat) (g : Group) : (s.setGroup n g).ops = s.ops := rfl
@[simp] theorem State.setPath_ops (s : State) (n : Nat) (p : Path) : (s.setPath n p).ops = s.ops := rfl
@[simp] theorem State.setTeam_ops (s : State) (n : Nat) (t : Team) : (s.setTeam n t).ops = s.ops := rfl
@[simp] theorem State.setEntry_ops (s : State) (n : Nat) (e : Entry) : (s.setEntry n e).ops = s.ops := rfl
@[simp] theorem State.setCore_ops (s : State) (n : Nat) (c : Core) : (s.setCore n c).ops = s.ops := rfl
@[simp] theorem State.setGroup_turns (s : State) (n : Nat) (g : Group) : (s.setGroup n g).turns = s.turns := rfl
@[simp] theorem State.setPath_turns (s : State) (n : Nat) (p : Path) : (s.setPath n p).turns = s.turns := rfl
@[simp] theorem State.setTeam_turns (s : State) (n : Nat) (t : Team) : (s.setTeam n t).turns = s.turns := rfl
@[simp] theorem State.setEntry_turns (s : State) (n : Nat) (e : Entry) : (s.setEntry n e).turns = s.turns := rfl
@[simp] theorem State.setCore_turns (s : State) (n : Nat) (c : Core) : (s.setCore n c).turns = s.turns := rfl
@[simp] theorem State.setGroup_tiles (s : State) (n : Nat) (g : Group) : (s.setGroup n g).tiles = s.tiles := rfl
@[simp] theorem State.setPath_tiles (s : State) (n : Nat) (p : Path) : (s.setPath n p).tiles = s.tiles := rfl
@[simp] theorem State.setTeam_tiles (s : State) (n : Nat) (t : Team) : (s.setTeam n t).tiles = s.tiles := rfl
@[simp] theorem State.setEntry_tiles (s : State) (n : Nat) (e : Entry) : (s.setEntry n e).tiles = s.tiles := rfl
@[simp] theorem State.setCore_tiles (s : State) (n : Nat) (c : Core) : (s.setCore n c).tiles = s.tiles := rfl
@[simp] theorem State.setGroup_derivs (s : State) (n : Nat) (g : Group) : (s.setGroup n g).derivs = s.derivs := rfl
@[simp] theorem State.setPath_derivs (s : State) (n : Nat) (p : Path) : (s.setPath n p).derivs = s.derivs := rfl
@[simp] theorem State.setTeam_derivs (s : State) (n : Nat) (t : Team) : (s.setTeam n t).derivs = s.derivs := rfl
@[simp] theorem State.setEntry_derivs (s : State) (n : Nat) (e : Entry) : (s.setEntry n e).derivs = s.derivs := rfl
@[simp] theorem State.setCore_derivs (s : State) (n : Nat) (c : Core) : (s.setCore n c).derivs = s.derivs := rfl
@[simp] theorem State.setGroup_nextId (s : State) (n : Nat) (g : Group) : (s.setGroup n g).nextId = s.nextId := rfl
@[simp] theorem State.setPath_nextId (s : State) (n : Nat) (p : Path) : (s.setPath n p).nextId = s.nextId := rfl
@[simp] theorem State.setTeam_nextId (s : State) (n : Nat) (t : Team) : (s.setTeam n t).nextId = s.nextId := rfl
@[simp] theorem State.setEntry_nextId (s : State) (n : Nat) (e : Entry) : (s.setEntry n e).nextId = s.nextId := rfl
@[simp] theorem State.setCore_nextId (s : State) (n : Nat) (c : Core) : (s.setCore n c).nextId = s.nextId := rfl
@[simp] theorem State.addReq_turns (s : State) (r : Req) : (s.addReq r).turns = s.turns := rfl
@[simp] theorem State.addOp_turns (s : State) (o : Op) : (s.addOp o).turns = s.turns := rfl

theorem State.find_group_setGroup (s : State) (n : Nat) (g : Group) (k : Nat) :
    SMap.find? (s.setGroup n g).groups k = if k = n then some g else SMap.find? s.groups k := SMap.find?_put ..
theorem State.find_path_setPath (s : State) (n : Nat) (p : Path) (k : Nat) :
    SMap.find? (s.setPath n p).paths k = if k = n then some p else SMap.find? s.paths k := SMap.find?_put ..
theorem State.find_team_setTeam (s : State) (n : Nat) (t : Team) (k : Nat) :
    SMap.find? (s.setTeam n t).teams k = if k = n then some t else SMap.find? s.teams k := SMap.find?_put ..
theorem State.find_entry_setEntry (s : State) (n : Nat) (e : Entry) (k : Nat) :
    SMap.find? (s.setEntry n e).entries k = if k = n then some e else SMap.find? s.entries k := SMap.find?_put ..
theorem State.core_setCore (s : State) (n : Nat) (c : Core) (k : Nat) :
    (s.setCore n c).core k = if k = n then c else s.core k := SMap.getD_set ..
theorem State.fn_setFn (s : State) (n : Nat) (f : Fn) (k : Nat) :
    (s.setFn n f).fn k = if k = n then f else s.fn k := SMap.getD_set ..

/-- A committed view: its path and its group are written back, every other path and group stays. -/
theorem View.commit_paths (x : View) (k : Nat) :
    SMap.find? x.commit.paths k = if k = x.pid then some x.p else SMap.find? x.s.paths k := SMap.find?_put ..
theorem View.commit_groups (x : View) (k : Nat) :
    SMap.find? x.commit.groups k = if k = x.p.grp then some x.g else SMap.find? x.s.groups k := SMap.find?_put ..
@[simp] theorem View.commit_mem (x : View) : x.commit.mem = x.s.mem := rfl
@[simp] theorem View.commit_reqs (x : View) : x.commit.reqs = x.s.reqs := rfl
@[simp] theorem View.commit_teams (x : View) : x.commit.teams = x.s.teams := rfl
@[simp] theorem View.commit_turns (x : View) : x.commit.turns = x.s.turns := rfl
@[simp] theorem View.commit_ops (x : View) : x.commit.ops = x.s.ops := rfl
@[simp] theorem View.commit_entries (x : View) : x.commit.entries = x.s.entries := rfl

/-- A word acts on the view of the selected path. -/
theorem onPath_of_view {s : State} {x : View} (h : s.view = some x) (f : View → State) : onPath s f = .next (f x) := by
  unfold onPath; rw [h]

/-- What a view holds. -/
theorem State.view_eq {s : State} {x : View} (h : s.view = some x) :
    x.s = s ∧ s.cur = some x.pid ∧ SMap.find? s.paths x.pid = some x.p ∧ SMap.find? s.groups x.p.grp = some x.g ∧
      SMap.find? s.teams x.g.team = some x.t ∧ SMap.find? s.entries x.t.entry = some x.e := by
  unfold State.view at h
  split at h
  · cases h
  · next pid h1 =>
    split at h
    · cases h
    · next p h2 =>
      split at h
      · cases h
      · next g h3 =>
        split at h
        · cases h
        · next t h4 =>
          split at h
          · cases h
          · next e h5 => cases h; exact ⟨rfl, h1, h2, h3, h4, h5⟩

end Sys2Proof.Machine
end

