-- ==== Sys2Proof/Laws/Words.lean ====
section
/-! SUPPORT. What each shape of word completes with: one lemma for each shape, which claims about its words cite. -/
namespace Sys2Proof.Machine
open Sys2Proof

/-! ## Frames -/

theorem Group.Keeps.refl (g : Group) (w : Written) : g.Keeps g w where
  vec _ _ _ _ := rfl
  uni _ _ := rfl
  pred _ _ _ := rfl
  upred _ _ _ := rfl
  tag _ _ := rfl
  fold _ _ := rfl
  clean _ h := h
  poisonV _ _ _ _ _ h := h
  poisonS _ _ _ h := h
  poisonP _ _ _ h := h
  poisonF _ _ _ h := h
  poisonRest _ _ h := h
  settled _ h := h
  dueV _ _ _ _ _ _ h := h
  dueS _ _ _ h := h
  later _ _ _ _ := Iff.rfl
  rest := rfl

/-- An update of a group that touches no register, no poison and nothing that is due. -/
theorem Group.Keeps.of (g h : Group) (w : Written) (pred : ∀ n l, ¬ w.p n l → hasLane (h.preds n) l = hasLane (g.preds n) l)
    (upred : ∀ n, n < 16 → ¬ w.q n → h.qreg n = g.qreg n) (tag : ∀ n, ¬ w.k n → h.tag n = g.tag n)
    (fold : ∀ n, ¬ w.f n → h.fold n = g.fold n) (rest : h = { g with p := h.p, q := h.q, k := h.k, f := h.f }) :
    g.Keeps h w := by
  have hv : h.v = g.v := by rw [rest]
  have hs : h.s = g.s := by rw [rest]
  have hb : h.bad = g.bad := by rw [rest]
  have hd : h.due = g.due := by rw [rest]
  have hl : h.later = g.later := by rw [rest]
  have hf : h.flips = g.flips := by rw [rest]
  exact
    { vec := fun n l _ _ => by unfold Group.vreg; rw [hv]
      uni := fun n _ => by unfold Group.sreg; rw [hs]
      pred, upred, tag, fold
      clean := fun k hk => hb ▸ hk
      poisonV := fun _ _ _ _ _ hk => hb ▸ hk
      poisonS := fun _ _ _ hk => hb ▸ hk
      poisonP := fun _ _ _ hk => hb ▸ hk
      poisonF := fun _ _ _ hk => hb ▸ hk
      poisonRest := fun _ _ hk => hb ▸ hk
      settled := fun d h' => hd ▸ h'
      dueV := fun _ _ _ _ _ _ h' => hd ▸ h'
      dueS := fun _ _ _ h' => hd ▸ h'
      later := fun _ _ _ _ => by rw [hl]
      rest := by rw [hv, hs, hb, hf, hd, hl]; exact rest }

theorem Group.Keeps.trans {g h i : Group} {w : Written} (a : g.Keeps h w) (b : h.Keeps i w) : g.Keeps i w where
  vec n l hl hw := (b.vec n l hl hw).trans (a.vec n l hl hw)
  uni n hw := (b.uni n hw).trans (a.uni n hw)
  pred n l hw := (b.pred n l hw).trans (a.pred n l hw)
  upred n hn hw := (b.upred n hn hw).trans (a.upred n hn hw)
  tag n hw := (b.tag n hw).trans (a.tag n hw)
  fold n hw := (b.fold n hw).trans (a.fold n hw)
  clean k hk := a.clean k (b.clean k hk)
  poisonV n l hn hl hw hk := b.poisonV n l hn hl hw (a.poisonV n l hn hl hw hk)
  poisonS n hn hw hk := b.poisonS n hn hw (a.poisonS n hn hw hk)
  poisonP n hn hw hk := b.poisonP n hn hw (a.poisonP n hn hw hk)
  poisonF n hn hw hk := b.poisonF n hn hw (a.poisonF n hn hw hk)
  poisonRest k hk hb := b.poisonRest k hk (a.poisonRest k hk hb)
  settled d hd := a.settled d (b.settled d hd)
  dueV n l i hn hl hw hk := b.dueV n l i hn hl hw (a.dueV n l i hn hl hw hk)
  dueS n i hw hk := b.dueS n i hw (a.dueS n i hw hk)
  later k r hv hs := (b.later k r hv hs).trans (a.later k r hv hs)
  rest := by
    have ha := a.rest
    have hb := b.rest
    rw [ha] at hb
    exact hb

theorem Group.keeps_setS (g : Group) (n : Nat) (a : Word) (w : Written) (hn : n < 64) (h : w.s n) :
    g.Keeps (g.setS n a) w := by
  have ne : ∀ m, ¬ w.s m → m ≠ n := by rintro m hm rfl; exact hm h
  refine ⟨fun _ _ _ _ => rfl, fun m hm => ?_, fun _ _ _ => rfl, fun _ _ _ => rfl, fun _ _ => rfl, fun _ _ => rfl,
    fun k hk => (List.mem_filter.mp hk).1, fun m l hn hl _ hk => List.mem_filter.mpr ⟨hk, ?_⟩,
    fun m _ hm hk => List.mem_filter.mpr ⟨hk, ?_⟩, fun m hn _ hk => List.mem_filter.mpr ⟨hk, ?_⟩,
    fun m hn _ hk => List.mem_filter.mpr ⟨hk, ?_⟩, fun k hk hb => List.mem_filter.mpr ⟨hb, ?_⟩,
    fun d hd => (List.mem_filter.mp hd).1,
    fun m l i hn hl _ hk => List.mem_filter.mpr ⟨hk, ?_⟩, fun m i hm hk => List.mem_filter.mpr ⟨hk, ?_⟩,
    fun k r _ hs => ⟨fun h' => (List.mem_filter.mp h').1, fun h' => List.mem_filter.mpr ⟨h', ?_⟩⟩, rfl⟩
  · rw [Group.sreg_setS, if_neg (ne m hm)]
  · simp; omega
  · have := ne m hm; simp; omega
  · simp; omega
  · simp; omega
  · simp; omega
  · simp; omega
  · have := ne m hm; simp; omega
  · have := hs n h; simp; omega

theorem Group.keeps_setV (g : Group) (n l : Nat) (a : Word) (w : Written) (hl : l < 64) (hn : n < 256) (h : w.v n l) :
    g.Keeps (g.setV n l a) w := by
  have ne : ∀ m k, ¬ w.v m k → ¬ (m = n ∧ k = l) := by rintro m k hm ⟨rfl, rfl⟩; exact hm h
  refine ⟨fun m k hk hm => ?_, fun _ _ => rfl, fun _ _ _ => rfl, fun _ _ _ => rfl, fun _ _ => rfl, fun _ _ => rfl,
    fun k hk => (List.mem_filter.mp hk).1, fun m k hm hk hw hb => List.mem_filter.mpr ⟨hb, ?_⟩,
    fun m _ hm hk => List.mem_filter.mpr ⟨hk, ?_⟩, fun m hn _ hk => List.mem_filter.mpr ⟨hk, ?_⟩,
    fun m hn _ hk => List.mem_filter.mpr ⟨hk, ?_⟩, fun k hk hb => List.mem_filter.mpr ⟨hb, ?_⟩,
    fun d hd => (List.mem_filter.mp hd).1,
    fun m k i hm hk hw hb => List.mem_filter.mpr ⟨hb, ?_⟩, fun m i hm hk => List.mem_filter.mpr ⟨hk, ?_⟩,
    fun k r hv _ => ⟨fun h' => (List.mem_filter.mp h').1, fun h' => List.mem_filter.mpr ⟨h', ?_⟩⟩, rfl⟩
  · rw [Group.vreg_setV _ _ _ _ _ _ hl hk, if_neg (ne m k hm)]
  · have := ne m k hw; simp; omega
  · simp; omega
  · simp; omega
  · simp; omega
  · simp; omega
  · have := ne m k hw; simp; omega
  · simp; omega
  · have := hv n l h; simp; omega

theorem Group.keeps_setPreds (g : Group) (n : Nat) (m x : Lanes) (w : Written) (h : ∀ l, hasLane m l = true → w.p n l) :
    g.Keeps (g.setPreds n m x) w := by
  refine .of _ _ _ (fun k l hk => ?_) (fun _ _ _ => rfl) (fun _ _ => rfl) (fun _ _ => rfl) rfl
  rw [Group.preds_setPreds, if_neg]; rintro ⟨rfl, hl⟩; exact hk (h l hl)

theorem Group.keeps_setQ (g : Group) (n : Nat) (b : Bool) (w : Written) (h : w.q n) : g.Keeps (g.setQ n b) w := by
  refine .of _ _ _ (fun _ _ _ => rfl) (fun k hk hw => ?_) (fun _ _ => rfl) (fun _ _ => rfl) rfl
  rw [Group.qreg_setQ _ _ _ _ hk, if_neg]; rintro rfl; exact hw h

theorem Group.keeps_setTag (g : Group) (n : Nat) (t : Tag) (w : Written) (h : w.k n) : g.Keeps (g.setTag n t) w := by
  refine .of _ _ _ (fun _ _ _ => rfl) (fun _ _ _ => rfl) (fun k hw => ?_) (fun _ _ => rfl) rfl
  rw [Group.tag_setTag, if_neg]; rintro rfl; exact hw h

/-- The poison of a fold register that a word writes, or of a lane predicate that it writes whole, is gone. -/
theorem Group.keeps_wipe (g : Group) (a : Nat) (w : Written)
    (h : (∃ n, n < 96 ∧ a = 65664 + n ∧ ∃ l, w.p n l) ∨ ∃ n, n < 8 ∧ a = 65776 + n ∧ w.f n) : g.Keeps (g.wipe a) w := by
  have big : 65664 ≤ a ∧ a < 65784 ∧ a ≠ 65760 ∧ ¬ (65768 ≤ a ∧ a < 65776) := by
    rcases h with ⟨n, hn, rfl, _⟩ | ⟨n, hn, rfl, _⟩ <;> omega
  refine ⟨fun _ _ _ _ => rfl, fun _ _ => rfl, fun _ _ _ => rfl, fun _ _ _ => rfl, fun _ _ => rfl, fun _ _ => rfl,
    fun k hk => (List.mem_filter.mp hk).1, fun m l hn hl _ hk => List.mem_filter.mpr ⟨hk, ?_⟩,
    fun m _ hm hk => List.mem_filter.mpr ⟨hk, ?_⟩, fun m hn hm hk => List.mem_filter.mpr ⟨hk, ?_⟩,
    fun m hn hm hk => List.mem_filter.mpr ⟨hk, ?_⟩, fun k hk hb => List.mem_filter.mpr ⟨hb, ?_⟩,
    fun d hd => hd, fun _ _ _ _ _ _ h => h, fun _ _ _ h => h, fun _ _ _ _ => Iff.rfl, rfl⟩
  · simp; omega
  · simp; omega
  · rcases h with ⟨n, _, rfl, l, hl⟩ | ⟨n, _, rfl, _⟩
    · have : m ≠ n := by rintro rfl; exact hm l hl
      simp; omega
    · simp; omega
  · rcases h with ⟨n, _, rfl, l, hl⟩ | ⟨n, _, rfl, hf⟩
    · simp; omega
    · have : m ≠ n := by rintro rfl; exact hm hf
      simp; omega
  · simp; omega

theorem Group.keeps_setFold (g : Group) (n : Nat) (a : DWord) (w : Written) (hn : n < 8) (h : w.f n) :
    g.Keeps (g.setFold n a) w := by
  refine (Group.keeps_wipe g (65776 + n) w (.inr ⟨n, hn, rfl, h⟩)).trans
    (.of _ _ _ (fun _ _ _ => rfl) (fun _ _ _ => rfl) (fun _ _ => rfl) (fun k hw => ?_) rfl)
  show (g.setFold n a).fold k = g.fold k
  rw [Group.fold_setFold, if_neg]; rintro rfl; exact hw h

theorem View.keeps_setPreds (x : View) (n : Nat) (m v : Lanes) (w : Written) (hn : n < 96)
    (h : ∀ l, hasLane m l = true → w.p n l) : x.g.Keeps (x.setPreds n m v) w := by
  have hp := Group.keeps_setPreds x.g n m v w h
  unfold View.setPreds
  dsimp only
  split
  · next hm =>
    refine hp.trans (Group.keeps_wipe _ _ _ (.inl ⟨n, hn, rfl, 0, h 0 ?_⟩))
    have e : (lowLanes x.w &&& ~~~ m).getLsbD 0 = false := by rw [hm]; rfl
    have hw : 0 < x.w := Nat.mul_pos (by decide) (Nat.two_pow_pos _)
    obtain ⟨k, hk⟩ := Nat.exists_eq_succ_of_ne_zero (Nat.ne_of_gt hw)
    have hl : (lowLanes x.w).getLsbD 0 = true := by
      have := Nat.two_pow_pos k
      rw [lowLanes, hk, BitVec.getLsbD_ofNat, Nat.pow_succ, Nat.testBit_zero]
      simp; omega
    rw [BitVec.getLsbD_and, hl, BitVec.getLsbD_not] at e
    simpa [hasLane] using e
  · exact hp

/-! ## Lanes written one after another -/

theorem Group.foldl_setV_keeps (n : Nat) (f : Nat → Word) (w : Written) (hn : n < 256) (ls : List Nat) (g : Group)
    (h : ∀ l ∈ ls, l < 64 ∧ w.v n l) : g.Keeps (ls.foldl (fun g i => g.setV n i (f i)) g) w := by
  induction ls generalizing g with
  | nil => exact Group.Keeps.refl g w
  | cons l ls ih =>
    have hl := h l (List.mem_cons_self ..)
    exact (Group.keeps_setV g n l (f l) w hl.1 hn hl.2).trans (ih _ (fun k hk => h k (List.mem_cons_of_mem _ hk)))

theorem Group.vreg_foldl_setV (n : Nat) (f : Nat → Word) (ls : List Nat) (g : Group) (h : ∀ l ∈ ls, l < 64) (k : Nat)
    (hk : k < 64) :
    (ls.foldl (fun g i => g.setV n i (f i)) g).vreg n k = if k ∈ ls then f k else g.vreg n k := by
  induction ls generalizing g with
  | nil => simp
  | cons l ls ih =>
    simp only [List.foldl_cons]
    rw [ih _ (fun k hk => h k (List.mem_cons_of_mem _ hk)), Group.vreg_setV _ _ _ _ _ _ (h l (List.mem_cons_self ..)) hk]
    by_cases h1 : k ∈ ls
    · simp [h1]
    · by_cases h2 : k = l <;> simp [h1, h2]

theorem Group.foldl_setVpair_keeps (n : Nat) (f : Nat → DWord) (w : Written) (hn : n + 1 < 256) (ls : List Nat) (g : Group)
    (h : ∀ l ∈ ls, l < 64 ∧ w.v n l ∧ w.v (n + 1) l) : g.Keeps (ls.foldl (fun g i => g.setVpair n i (f i)) g) w := by
  induction ls generalizing g with
  | nil => exact Group.Keeps.refl g w
  | cons l ls ih =>
    have hl := h l (List.mem_cons_self ..)
    refine Group.Keeps.trans ?_ (ih _ (fun k hk => h k (List.mem_cons_of_mem _ hk)))
    exact (Group.keeps_setV g n l _ w hl.1 (by omega) hl.2.1).trans (Group.keeps_setV _ (n + 1) l _ w hl.1 hn hl.2.2)

theorem Group.vpair_setVpair_other (g : Group) (n l k : Nat) (x : DWord) (hl : l < 64) (hk : k < 64) (h : k ≠ l) :
    (g.setVpair n l x).vpair n k = g.vpair n k := by
  unfold Group.vpair
  rw [Group.vreg_setVpair _ _ _ _ _ _ hl hk (by omega), Group.vreg_setVpair _ _ _ _ _ _ hl hk (by omega)]

theorem Group.vpair_foldl_setVpair (n : Nat) (f : Nat → DWord) (ls : List Nat) (g : Group) (h : ∀ l ∈ ls, l < 64) (k : Nat)
    (hk : k < 64) :
    (ls.foldl (fun g i => g.setVpair n i (f i)) g).vpair n k = if k ∈ ls then f k else g.vpair n k := by
  induction ls generalizing g with
  | nil => simp
  | cons l ls ih =>
    simp only [List.foldl_cons]
    rw [ih _ (fun k hk => h k (List.mem_cons_of_mem _ hk))]
    have hl := h l (List.mem_cons_self ..)
    by_cases h1 : k ∈ ls
    · simp [h1]
    · by_cases h2 : k = l
      · subst h2; simp [h1, Group.vpair_setVpair _ _ _ _ hk]
      · simp [h1, h2, Group.vpair_setVpair_other _ _ _ _ _ hl hk h2]

/-- The table of a latch: each lane of a list with its value. -/
theorem getD_map_pairs (f : Nat → Word) (ls : List Nat) (l : Nat) :
    SMap.getD (ls.map (fun i => (i, f i))) l 0 = if l ∈ ls then f l else 0 := by
  induction ls with
  | nil => simp
  | cons k ls ih =>
    rw [SMap.getD_eq] at ih ⊢
    simp only [List.map_cons, SMap.find?_cons, List.mem_cons]
    by_cases h : k = l
    · subst h; simp
    · have h' : ¬ l = k := fun e => h e.symm
      simp only [h, h', if_false, false_or]; exact ih

/-! ## What each shape completes with -/

variable {s : State} {x : View}

@[simp] theorem View.sample_s (x : View) (b : Bool) : (x.sample b).s = x.s := by unfold View.sample; split <;> rfl
@[simp] theorem View.sample_pid (x : View) (b : Bool) : (x.sample b).pid = x.pid := by unfold View.sample; split <;> rfl
@[simp] theorem View.sample_p (x : View) (b : Bool) : (x.sample b).p = x.p := by unfold View.sample; split <;> rfl
@[simp] theorem View.sample_t (x : View) (b : Bool) : (x.sample b).t = x.t := by unfold View.sample; split <;> rfl
@[simp] theorem View.sample_e (x : View) (b : Bool) : (x.sample b).e = x.e := by unfold View.sample; split <;> rfl
@[simp] theorem View.sample_false (x : View) : x.sample false = x := rfl

theorem View.commit_sample (x : View) (b : Bool) (g : Group) (p : Path) :
    ({ x.sample b with g := g, p := p } : View).commit = ({ x with g := g, p := p } : View).commit := by
  unfold View.sample; split <;> rfl

theorem View.putLanes_result (x : View) (d : Dest (Fin 256)) (m : Lanes) (q : Bool) (f : Nat → Word) :
    LaneResult x d m q f .none (x.putLanes d m q f).g (x.putLanes d m q f).p := by
  have hm : ∀ l, l ∈ lanesBelow x.w m ↔ x.writes m l := mem_lanesBelow x.w m
  refine ⟨?_, ?_, (lanesBelow x.w m).map (fun i => (i, f i)), ⟨?_, ?_⟩, ?_⟩
  · cases d with
    | latch => exact Group.Keeps.refl ..
    | reg k =>
      exact Group.foldl_setV_keeps k.val f _ k.isLt _ _ (fun l hl =>
        ⟨lt_of_mem_lanesBelow hl, ⟨k, rfl, rfl⟩, (hm l).mp hl⟩)
  · rintro k l rfl hl
    have h := Group.vreg_foldl_setV k.val f (lanesBelow x.w m) x.g (fun _ => lt_of_mem_lanesBelow) l
      (hasLane_lt m l hl.2)
    rw [if_pos ((hm l).mpr hl)] at h
    exact h
  · intro l hl; rw [getD_map_pairs, if_pos ((hm l).mpr hl)]
  · intro l hl; rw [getD_map_pairs, if_neg (fun h => hl ((hm l).mp h))]
  · have e : x.p.fstat ||| FFlags.none = x.p.fstat := by simp [FFlags.none]
    rw [e]
    cases h : x.p.chain.tail <;> simp [View.putLanes, Path.retire, h]

theorem laneWord_completes {α β γ μ : Type} (hv : s.view = some x) (w : FmtA (Dest (Fin 256)) α β γ μ) (reads : List Src)
    (f : View → Nat → Word) :
    let y := x.sample (reads.any Src.isClk && x.guardOn w.g)
    ∃ g p, laneWord w reads f s = .next ({ x with g := g, p := p } : View).commit ∧
      LaneResult y w.d (y.active w.g) w.q (f y) .none g p := by
  intro y
  refine ⟨_, _, ?_, View.putLanes_result y w.d (y.active w.g) w.q (f y)⟩
  rw [laneWord, onPath_of_view hv]
  exact congrArg _ (View.commit_sample x _ _ _)

theorem lanePairWord_completes {α β γ μ : Type} (hv : s.view = some x) (w : FmtA (Fin 128) α β γ μ) (reads : List Src)
    (f : View → Nat → DWord) :
    let y := x.sample (reads.any Src.isClk && x.guardOn w.g)
    ∃ g p, lanePairWord w reads f s = .next ({ x with g := g, p := p } : View).commit ∧
      LanePairResult y w.d (y.active w.g) w.q (f y) .none g p := by
  intro y
  refine ⟨(lanesBelow y.w (y.active w.g)).foldl (fun g i => g.setVpair (2 * w.d.val) i (f y i)) y.g,
    y.p.retire w.q .none, ?_, ?_, ?_, ?_⟩
  · rw [lanePairWord, onPath_of_view hv]
    exact congrArg _ (View.commit_sample x _ _ _)
  · refine Group.foldl_setVpair_keeps _ _ _ (by omega) _ _ (fun l hl => ?_)
    have h := (mem_lanesBelow y.w (y.active w.g) l).mp hl
    exact ⟨lt_of_mem_lanesBelow hl, ⟨Or.inl rfl, h⟩, ⟨Or.inr rfl, h⟩⟩
  · intro l hl
    rw [Group.vpair_foldl_setVpair _ _ _ _ (fun _ => lt_of_mem_lanesBelow) l (hasLane_lt _ l hl.2),
      if_pos ((mem_lanesBelow y.w (y.active w.g) l).mpr hl)]
  · have e : y.p.fstat ||| FFlags.none = y.p.fstat := by simp [FFlags.none]
    rw [e]; rfl

theorem uniWord_completes {β γ μ : Type} (hv : s.view = some x) (w : FmtA (Dest (Fin 64)) USrc β γ μ) (reads : List USrc)
    (f : View → Word) (hg : x.guardOn w.g = true) :
    let y := x.sample (reads.any USrc.isClk)
    ∃ g p, uniWord w reads f s = .next ({ x with g := g, p := p } : View).commit ∧ UniResult y w.d w.q (f y) g p := by
  intro y
  refine ⟨(y.putUni w.d w.q (f y)).g, (y.putUni w.d w.q (f y)).p, ?_, ?_, ?_, rfl⟩
  · rw [uniWord, oncePath, onPath_of_view hv, if_pos hg]
    exact congrArg _ (View.commit_sample x _ _ _)
  · unfold View.putUni
    cases w.d with
    | latch => exact Group.Keeps.refl ..
    | reg k => exact Group.keeps_setS _ _ _ _ k.isLt ⟨k, rfl, rfl⟩
  · intro k hk
    unfold View.putUni
    rw [hk]
    simp [Group.sreg_setS]

/-! ## The fence of a BAR.X -/

/-- It changes the holds of the group alone. -/
theorem Group.fence_eq (g : Group) (ids : List Nat) : g.fence ids = { g with xf := (g.fence ids).xf } := by
  unfold Group.fence; split <;> rfl
/-- The holds that it adds. -/
theorem Group.mem_fence (g : Group) (ids : List Nat) (h : XfHold) :
    h ∈ (g.fence ids).xf ↔ h ∈ g.xf ∨ (ids ≠ [] ∧ h = XfHold.mk ids ⟨true, true, false, true, false⟩ true) := by
  unfold Group.fence
  split <;> rename_i e
  · simp_all
  · simp_all

end Sys2Proof.Machine
end

