-- ==== Sys2Proof/Tests/Slice0.lean ====
section
/-! SUPPORT. Tests: ill-formed terms that WellFormed refuses, words written out from the encoding tables of 08 with
the instructions they stand for, and for each statement that has hypotheses a state and operands that meet them. -/
namespace Sys2Proof.Tests
open Sys2Proof.Machine

set_option maxRecDepth 20000

/-! ## Ill-formed terms: one for each check -/

/-- No term of the list is well formed. -/
def allRefused (is : List Instr) : Bool := is.all fun i => !i.ok

/-- C and Q together, a chain bit in SY and BR, a lane guard on a word that acts once (08 R144, R141). -/
theorem test_refused_heads :
    allRefused [
      .viAdd ⟨true, true, .always, .reg 1, .v 2, .v 3, (), ()⟩,
      .vjMovi ⟨true, true, .always, .reg 1, (), 5⟩,
      .ld ⟨true, true, .always, none, 1, .v 1, .v 2, .b32, 0⟩,
      .plShf ⟨true, true, .always, 1, 2, 0, .x, false, 1, .own, ()⟩,
      .mxZero ⟨true, true, .always, 1, none, (), (), .s 1, ()⟩,
      .snFlush ⟨true, true, .always, (), (), ()⟩,
      .syNop ⟨true, false, .always, (), (), ()⟩, .syExit ⟨true, false, .always, (), (), ()⟩,
      .syTrap ⟨true, false, .always, (), .s 1, false⟩, .syTret ⟨true, false, .always, (), .next, ()⟩,
      .syYield ⟨true, false, .always, (), (), ()⟩, .sySleep ⟨true, false, .always, (), .s 1, ()⟩,
      .syBkpt ⟨true, false, .always, (), (), ()⟩, .syGets ⟨true, false, .always, 1, (), ()⟩,
      .sySets ⟨true, false, .always, (), .s 1, ()⟩, .sySfmt ⟨true, false, .always, (), .s 1, ()⟩,
      .sySetx ⟨true, false, .always, (), .s 1, ()⟩, .syGetx ⟨true, false, .always, 1, (), ()⟩,
      .syHalt ⟨true, false, .always, (), (), ()⟩,
      .brBra ⟨true, false, .always, 0, 1, 0⟩, .brBrv ⟨true, false, .always, 0, 1, 2⟩,
      .brJoin ⟨true, false, .always, 0, 0, 0⟩, .brRegang ⟨true, false, .always, (), .s 1, (), (), ()⟩,
      .brCall ⟨true, false, .always, 0, 1, 0⟩, .brCallv ⟨true, false, .always, 1, .v 1, (), (), ()⟩,
      .brRet ⟨true, false, .always, (), 1, (), (), ()⟩, .brBrx ⟨true, false, .always, (), .s 1, 1, .s 2, ()⟩,
      .siAdd ⟨false, false, .lane 1 false, .reg 1, .s 2, .s 3, (), ()⟩,
      .smMovi ⟨false, false, .lane 1 false, .reg 1, (), 5⟩,
      .snFence ⟨false, false, .lane 1 true, (), (), ⟨true, false, .dev⟩⟩,
      .ldu ⟨false, false, .lane 0 false, none, 1, 1, .s 2, .b32, 0⟩,
      .cpBulk ⟨false, false, .lane 0 false, 0, none, 1, 2, .s 4, false⟩,
      .tkWait ⟨false, false, .lane 0 false, (), 1, (), (), ()⟩,
      .mxMma ⟨false, false, .lane 0 false, 0, none, 0, 16, .s 8, .e4m3⟩,
      .dvReg ⟨false, false, .lane 0 false, 1, .s 2, (), (), ()⟩,
      .icInv ⟨false, false, .lane 0 false, (), 1, .s 2, (), ()⟩] = true := by decide

/-- Fields that a branch or a plane word leaves unused hold 0 (08 R140, 12 R228). -/
theorem test_refused_unused :
    allRefused [
      .brBra ⟨false, false, .always, 0, 1, 4⟩, .brJoin ⟨false, false, .always, 0, 1, 0⟩,
      .brJoin ⟨false, false, .always, 0, 0, 1⟩, .brCall ⟨false, false, .always, 0, 1, 4⟩,
      .plRot ⟨false, false, .always, 1, 2, 0, .x, false, 1, .wrap, ()⟩,
      .plSpr ⟨false, false, .always, 1, 2, 0, .x, true, 1, .own, ()⟩,
      .plSpr ⟨false, false, .always, 1, 2, 0, .x, false, 1, .zero, ()⟩,
      .plFld ⟨false, false, .always, 1, 2, 0, .x, true, 0, .own, ⟨.i, .add⟩⟩,
      .plFld ⟨false, false, .always, 1, 2, 0, .x, false, 1, .own, ⟨.i, .add⟩⟩,
      .plScn ⟨false, false, .always, 1, 2, 0, .x, false, 0, .clamp, ⟨.i, .add⟩⟩,
      .plTrn ⟨false, false, .always, 1, 2, 0, .y, false, 0, .own, ()⟩,
      .plTrn ⟨false, false, .always, 1, 2, 0, .x, false, 1, .own, ()⟩,
      .plRfd ⟨false, false, .always, 1, 2, 0, .s0, false, 0, .own, 3⟩,
      .plRfd ⟨false, false, .always, 1, 2, 0, .x, true, 0, .own, 3⟩,
      .cvPack ⟨false, false, .always, .reg 1, .v 2, .v 3, .v 4, .h⟩,
      .atXadd ⟨false, false, .always, some .dev, (), .v 1, .v 4, .f32, 0⟩] = true := by decide

/-- Registers of a pair, of four, or of an operand that must be a pair (08 R142, 14 R256, R263, R273). -/
theorem test_refused_pairs :
    allRefused [
      .siCmp ⟨false, false, .always, 1, .s 3, .s 4, (), ⟨true, .eq⟩⟩,
      .siCmp ⟨false, false, .always, 1, .s 4, .t 0, (), ⟨true, .eq⟩⟩,
      .cvCvt ⟨false, false, .always, .reg 3, .v 2, (), (), .f64F32⟩,
      .cvCvt ⟨false, false, .always, .latch, .v 2, (), (), .f64F32⟩,
      .cvCvt ⟨false, false, .always, .reg 2, .v 3, (), (), .f32F64⟩,
      .cvCvt ⟨false, false, .always, .reg 2, .l .laneid, (), (), .f32F64⟩,
      .vcCmp ⟨false, false, .always, 1, .v 3, .v 4, (), ⟨.f64, .eq⟩⟩,
      .vcCmp ⟨false, false, .always, 1, .v 4, .v 3, (), ⟨.f64, .eq⟩⟩,
      .vcClass ⟨false, false, .always, 1, .v 3, .v 4, (), .f64⟩,
      .ld ⟨false, false, .always, none, 3, .v 1, .v 2, .b64, 0⟩,
      .ld ⟨false, false, .always, none, 2, .v 1, .v 2, .b128, 0⟩,
      .ldu ⟨false, false, .always, none, 2, 1, .s 2, .b128, 0⟩,
      .st ⟨false, false, .always, none, .v 3, .v 1, .v 2, .b64, 0⟩,
      .st ⟨false, false, .always, none, .v 2, .v 1, .v 2, .b128, 0⟩,
      .stu ⟨false, false, .always, none, .s 3, 1, .s 2, .b64, 0⟩,
      .stu ⟨false, false, .always, none, .s 2, 1, .s 2, .b128, 0⟩,
      .atAdd ⟨false, false, .always, none, .v 3, .v 1, .v 2, true, 0⟩,
      .atAdd ⟨false, false, .always, none, .v 2, .v 1, .v 3, true, 0⟩,
      .atCas ⟨false, false, .always, none, 3, .v 1, .v 2, true, 0⟩,
      .atCas ⟨false, false, .always, none, 2, .v 1, .v 3, true, 0⟩,
      .cpBulk ⟨false, false, .always, 0, none, 1, 2, .s 6, true⟩,
      .cpBulk ⟨false, false, .always, 0, none, 1, 2, .nat 4, true⟩,
      .mxMma ⟨false, false, .always, 0, none, 0, 16, .t 0, .nq4⟩,
      .mxMmas ⟨false, false, .always, 0, none, .s 4, 16, .x .arglo, .nq4e5⟩] = true := by decide

/-- Modifiers and immediates (10 R176, 11 R204, R205, R216, R220, 14 R265, 18 R297, R300, R303), and TRIG equal to TAG (08 R150). -/
theorem test_refused_modifiers :
    allRefused [
      .smMovh ⟨false, false, .always, 1, true, 0x40000⟩, .vjShli ⟨false, false, .always, .reg 1, .v 2, 32⟩,
      .vfAdd ⟨false, false, .always, .reg 1, .v 2, .v 3, (), ⟨false, false, true, false, false⟩⟩,
      .vfFma ⟨false, false, .always, .reg 1, .v 2, .v 3, .v 4, ⟨false, false, false, false, true⟩⟩,
      .vfFloor ⟨false, false, .always, .reg 1, .v 2, (), (), ⟨false, true, false, false, false⟩⟩,
      .vhAdd ⟨false, false, .always, .reg 1, .v 2, .v 3, (), ⟨false, false, true, false, true⟩⟩,
      .vdRint ⟨false, false, .always, 1, .v 2, (), (), ⟨false, true, false, false, false⟩⟩,
      .vcCmp ⟨false, false, .always, 1, .v 2, .v 3, (), ⟨.i32, .un⟩⟩,
      .vcCmp ⟨false, false, .always, 1, .v 2, .v 3, (), ⟨.n32, .or⟩⟩,
      .clShfx ⟨false, false, .always, .reg 1, 2, .v 3, (), ⟨.up, 0⟩⟩,
      .clShfx ⟨false, false, .always, .reg 1, 2, .v 3, (), ⟨.up, 7⟩⟩,
      .snFence ⟨false, false, .always, (), (), ⟨false, false, .dev⟩⟩,
      .snXf ⟨false, false, .always, (), (), ⟨⟨false, false, false, false, false⟩, ⟨true, false, false, false, false⟩⟩⟩,
      .snXf ⟨false, false, .always, (), (), ⟨⟨true, false, false, false, false⟩, ⟨false, false, false, false, false⟩⟩⟩,
      .axFil ⟨false, false, .always, 0, none, 1, .s 2, .s 3, ⟨0, .e5m2⟩⟩,
      .fbPut ⟨false, false, .always, 0, none, .v 1, .v 2, .v 3, ⟨false, true, true⟩⟩,
      .fbRed ⟨false, false, .always, 0, none, .v 1, .v 2, .v 3, ⟨true, false, false, .f32⟩⟩,
      .fbRed ⟨false, false, .always, 0, none, .v 1, .v 2, .v 3, ⟨false, true, false, .bf16⟩⟩,
      .cpArrv ⟨false, false, .always, 3, some 3, .s 1, .s 2, (), ()⟩] = true := by decide

/-- Events that name what is not there. -/
theorem test_refused_events :
    allRefused [
      .kick 17 0 0, .kick 0 64 0, .preemptTeam 17 0, .preemptFunction 17, .vfrstStart 0, .vfrstStart 17,
      .functionLevelReset 0, .invalidateContext 1088, .invalidatePage 1088, .invalidateRange 1088 1,
      .invalidateRange 0 (2 ^ 47), .seal (2 ^ 40), .sealCheck (2 ^ 40), .dbgteamResume 17,
      .queueEnable 0 64 0, .queueDisable 17 0 0, .queueRestart 0 64 0, .partWrite 17 false 0,
      .registerWrite 17 0 0, .registerWrite 0 4 0, .registerWrite 0 0x100008 0, .hostWindowRead 17 0 8,
      .hostWindowRead 0 60 8, .hostWindowWrite 0 0 [], .apertureRead 0 0 65, .apertureWrite 0 63 [1, 2],
      .hostAtomicop 17 0 .swap false 0 0, .atsInvalidationRequest (2 ^ 20) 0 1, .pldmAttest [1, 2],
      .entryFetch 0 64, .teamPlace 17, .preemptRequest 17, .timeSliceExpire 17, .vfResetDrainDone 0,
      .vfResetDrainTimeout 17, .linkRetrained 128, .linkDown 128, .droopEvent 256] = true := by decide

/-! ## Words and what they stand for -/

/-- The word decodes to the instruction, and the encoder writes the word. -/
def agrees (r : Nat × Instr) : Bool :=
  decide (decodeTableWord 64 r.1 = some r.2) && decide (encode r.2 = some (BitVec.ofNat 64 r.1))

/-- The worked encodings of 08, 09, 10, 11 and 12. -/
theorem test_worked_words :
    ([(0x0003F80000000000, .syNop ⟨false, false, .always, (), (), ()⟩),
      (0x0007F80000000000, .syExit ⟨false, false, .always, (), (), ()⟩),
      (0x0203F90580E1C000, .siAdd ⟨false, false, .always, .reg 5, .s 1, .nat 7, (), ()⟩),
      (0x0257F86282424006, .siCmp ⟨false, false, .always, 2, .s 4, .s 9, (), ⟨false, .ult⟩⟩),
      (0x101BF80441804003, .ld ⟨false, false, .always, none, 8, .s 3, .v 2, .s16, 3⟩),
      (0x106BF88140300000, .ldu ⟨false, false, .always, none, 2, 0, .nat 0, .b64, 0⟩),
      (0x1123F800C0800000, .st ⟨false, false, .always, none, .v 1, .s 1, .v 0, .b32, 0⟩),
      (0x0103F8FFFFFB0000, .brBra ⟨false, false, .always, 0, 0xFFFFFB, 0⟩),
      (0x0104180000030006, .brBrv ⟨false, false, .lane 3 false, 0, 3, 6⟩),
      (0x8400280300C08000, .viAdd ⟨true, false, .lane 5 false, .reg 3, .v 1, .u (.s 2), (), ()⟩),
      (0x842FF800A8608000, .viShl ⟨true, false, .always, .reg 0, .l .laneid, .u (.nat 2), (), ()⟩),
      (0x8303F900B6000000, .smMov ⟨true, false, .always, .reg 0, .x .arglo, (), (), ()⟩),
      (0x030BF902C080000C, .smMovh ⟨false, false, .always, 1, true, 0xC⟩),
      (0x060FF80A00808060, .vfFma ⟨false, false, .always, .reg 10, .v 1, .v 2, .v 3, ⟨false, false, false, false, false⟩⟩),
      (0x080FF80A0401BC41, .vdFma ⟨false, false, .always, 5, .v 4, .v 3, .u (.flt 2), ⟨true, false, false, false, false⟩⟩)]
      : List (Nat × Instr)).all agrees = true := by decide

/-- The worked encodings of 11, 12, 14 and 18. -/
theorem test_worked_words2 :
    ([(0x0900100502000004, .cvCvt ⟨false, false, .lane 2 false, .reg 5, .v 4, (), (), .f16F32⟩),
      (0x0A03F8000180400D, .vcCmp ⟨false, false, .always, 0, .v 3, .v 1, (), ⟨.n32, .ge⟩⟩),
      (0x0E03F82804200200, .plShf ⟨false, false, .always, 40, 8, 2, .x, false, 1, .own, ()⟩),
      (0x0E03F80800100300, .plShf ⟨false, false, .always, 8, 0, 1, .x, false, 1, .mirror, ()⟩),
      (0x0E0FF80C00100008, .plFld ⟨false, false, .always, 12, 0, 1, .x, false, 0, .own, ⟨.f, .add⟩⟩),
      (0x0E1BF80400100002, .plRfd ⟨false, false, .always, 4, 0, 1, .x, false, 0, .own, 2⟩),
      (0x1303F80000000006, .snFence ⟨false, false, .always, (), (), ⟨false, true, .dev⟩⟩),
      (0x1307F80000000110, .snXf ⟨false, false, .always, (), (),
        ⟨⟨false, false, false, false, true⟩, ⟨false, false, false, true, false⟩⟩⟩),
      (0x130FF80000000010, .snBar ⟨false, false, .always, (), (), ⟨true, 0⟩⟩),
      (0x1403F8C0100C0803, .cpLane ⟨false, false, .always, 1, none, .v 2, .v 3, .v 8, .b32⟩),
      (0x1603F84000210800, .mxMma ⟨false, false, .always, 0, none, 0, 16, .s 8, .e4m3⟩),
      (0x1607F8C410410904, .mxMmas ⟨false, false, .always, 1, none, .s 4, 32, .s 9, .bf16⟩),
      (0x1703F800C0C0A060, .axWin ⟨false, false, .always, (), .nat 1, .s 2, .s 3, ()⟩),
      (0x1707F940A215901A, .axDrn ⟨false, false, .always, 2, none, 40, .s 10, .nat 16, ⟨false, false, 3, .bf16⟩⟩),
      (0x1803F8C0100C0801, .fbPut ⟨false, false, .always, 1, none, .v 2, .v 3, .v 8, ⟨true, false, false⟩⟩),
      (0x180FF9C418000000, .fbAta ⟨false, false, .always, 3, none, 3, (), (), ()⟩)]
      : List (Nat × Instr)).all agrees = true := by decide

/-- What a word decodes to on its own, after the latches `ls`, in a group of 8 lanes that declares 32 registers. -/
def refusedAs (ls : List LatchKind) (f : DecodeFault) (w : Nat) : Bool :=
  match decodeWord ⟨8, 32, ls, 0⟩ (BitVec.ofNat 64 w) with
  | .error g => decide (g = f)
  | .ok _ => false

/-- Row 1 of 08 R150: a reserved class, an unlisted FUNC, reserved codes of LD and AT, unlisted modifiers, W with FADD, C in
SY, C in word 7, Q without its live-mask word. -/
theorem test_illegal_instructions :
    ([0x1B03F80000000000, 0x0037F80000000000, 0x10C3F80440000000, 0x103FF80440000000, 0x12E3F80440000000,
      0x0257F8628242400A, 0x12BBF80441804003, 0x8003F80000000000, 0x4203F90580E1C000] : List Nat).all
        (refusedAs [] .illegalInstruction) = true ∧
    refusedAs [.uni, .uni, .uni, .uni, .uni, .uni, .uni] .illegalInstruction 0x8203F90580E1C000 = true := by decide

/-- Row 2 of 08 R150: a reserved guard, GUARD 127 with GNEG, a lane guard on SI.ADD, an unused field, a vector register in a
uniform position, an odd pair, SCOPE without ORD, TRIG equal to TAG, a latch as destination, a lane latch in a uniform
position. -/
theorem test_illegal_operands :
    ([0x0203800580E1C000, 0x0203FD0580E1C000, 0x0200000580E1C000, 0x0203F90580E1C020, 0x0203F90500E1C000,
      0x024BF90580E1C000, 0x101BF90441804003, 0x1403F888100C0803, 0x0203F94080E1C000] : List Nat).all
        (refusedAs [] .illegalOperand) = true ∧
    refusedAs [.lane] .illegalOperand 0x0203F905A0404000 = true := by decide

/-- Rows 3 and 4 of 08 R150: v32 of 32 declared registers; a latch that no earlier word writes. -/
theorem test_register_range_and_latch :
    refusedAs [] .registerRange 0x0403F82000808000 = true ∧
    refusedAs [] .latchInvalid 0x0403F801A0000000 = true ∧
    refusedAs [.none] .latchInvalid 0x0403F801A0000000 = true := by decide

/-! Every instruction word, its fields laid out by the tables of 08 R140 to R149 and the entry's modifier codes. -/

theorem test_decode_sy :
    ([(0x0003F80000000000, .syNop ⟨false, false, .always, (), (), ()⟩),
      (0x0007F80000000000, .syExit ⟨false, false, .always, (), (), ()⟩),
      (0x000BF800D5800001, .syTrap ⟨false, false, .always, (), (.nat 43), true⟩),
      (0x000FF80080000000, .syTret ⟨false, false, .always, (), (.s 0), ()⟩),
      (0x00132C0000000000, .syYield ⟨false, false, (.uni 5 true), (), (), ()⟩),
      (0x0017F800B6000000, .sySleep ⟨false, false, .always, (), (.x .arglo), ()⟩),
      (0x001BF80000000000, .syBkpt ⟨false, false, .always, (), (), ()⟩),
      (0x001FF92800000000, .syGets ⟨false, false, .always, 40, (), ()⟩),
      (0x0023F8008F000000, .sySets ⟨false, false, .always, (), (.s 30), ()⟩),
      (0x0027F80081000000, .sySfmt ⟨false, false, .always, (), (.s 2), ()⟩),
      (0x002BF80084000000, .sySetx ⟨false, false, .always, (), (.s 4), ()⟩),
      (0x002FF90E00000000, .syGetx ⟨false, false, .always, 7, (), ()⟩),
      (0x0033F80000000000, .syHalt ⟨false, false, .always, (), (), ()⟩)] : List (Nat × Instr)).all agrees = true := by
  decide

theorem test_decode_br :
    ([(0x01036CFFFFB10000, .brBra ⟨false, false, (.uni 13 true), 0, 0xFFFFB1, 0x0⟩),
      (0x010776FFFC2D0257, .brBrv ⟨false, false, (.uni 14 true), 2, 0xFFFC2D, 0x257⟩),
      (0x010BF90000000000, .brJoin ⟨false, false, .always, 1, 0x0, 0x0⟩),
      (0x010FF8009D000000, .brRegang ⟨false, false, .always, (), (.s 58), (), (), ()⟩),
      (0x0113FAFFF8190000, .brCall ⟨false, false, .always, 2, 0xFFF819, 0x0⟩),
      (0x01163D000F000000, .brCallv ⟨false, false, (.lane 71 true), 0, (.v 15), (), (), ()⟩),
      (0x011BF8009B000000, .brRet ⟨false, false, .always, (), 27, (), (), ()⟩),
      (0x011FF800F542A060, .brBrx ⟨false, false, .always, (), (.flt 10), 5, (.s 3), ()⟩)] : List (Nat × Instr)).all agrees = true := by
  decide

theorem test_decode_si :
    ([(0x8203F9049AD48000, .siAdd ⟨true, false, .always, (.reg 4), (.s 53), (.x .grpid), (), ()⟩),
      (0x8207FA00995C4000, .siSub ⟨true, false, .always, .latch, (.s 50), (.x .clklo), (), ()⟩),
      (0x020BF91F9AC70000, .siMul ⟨false, false, .always, (.reg 31), (.s 53), (.s 28), (), ()⟩),
      (0x020FF93BBDF8C001, .siMulh ⟨false, false, .always, (.reg 59), (.x .bindlo), (.flt 3), (), true⟩),
      (0x0213F902825B2100, .siMad ⟨false, false, .always, (.reg 2), (.s 4), (.x .arglo), (.s 8), ()⟩),
      (0x0217752CECE6C000, .siAnd ⟨false, false, (.uni 14 true), (.reg 44), (.neg 25), (.nat 27), (), ()⟩),
      (0x021BF90D86C0C000, .siOr ⟨false, false, .always, (.reg 13), (.s 13), (.s 3), (), ()⟩),
      (0x021F4530E2CA0000, .siXor ⟨false, false, (.uni 8 true), (.reg 48), (.neg 5), (.s 40), (), ()⟩),
      (0x0223F939EDDEC000, .siShl ⟨false, false, .always, (.reg 57), (.neg 27), (.x .bindlo), (), ()⟩),
      (0x0227F91289F2C000, .siShr ⟨false, false, .always, (.reg 18), (.s 19), (.neg 11), (), ()⟩),
      (0x822BFA0091F84000, .siSra ⟨true, false, .always, .latch, (.s 35), (.flt 1), (), ()⟩),
      (0x822F3D15E55EC000, .siMin ⟨true, false, (.uni 7 true), (.reg 21), (.neg 10), (.x .bindlo), (), ()⟩),
      (0x82333E00E44B8000, .siMax ⟨true, false, (.uni 7 true), .latch, (.neg 8), (.s 46), (), ()⟩),
      (0x8237F9398CEAC000, .siMinu ⟨true, false, .always, (.reg 57), (.s 25), (.nat 43), (), ()⟩),
      (0x823BF92AE057C000, .siMaxu ⟨true, false, .always, (.reg 42), (.neg 0), (.x .teamh), (), ()⟩),
      (0x823F7E00EF800000, .siClz ⟨true, false, (.uni 15 true), .latch, (.neg 31), (), (), ()⟩)] : List (Nat × Instr)).all agrees = true := by
  decide

theorem test_decode_si2 :
    ([(0x0243F9249C800000, .siPopc ⟨false, false, .always, (.reg 36), (.s 57), (), (), ()⟩),
      (0x8247F919B6468FC0, .siSel ⟨true, false, .always, (.reg 25), (.x .arglo), (.s 26), .no, ()⟩),
      (0x024BF936F1410000, .siAdd64 ⟨false, false, .always, 27, (.flt 2), (.s 2), (), ()⟩),
      (0x024FF93AFE418000, .siSub64 ⟨false, false, .always, 29, (.flt 28), (.s 3), (), ()⟩),
      (0x0253F928C0FF4000, .siMul64 ⟨false, false, .always, 20, (.nat 1), (.flt 29), (), ()⟩),
      (0x8257F86885684018, .siCmp ⟨true, false, .always, 8, (.s 10), (.nat 33), (), ⟨true, .ugt⟩⟩)] : List (Nat × Instr)).all agrees = true := by
  decide

theorem test_decode_sm :
    ([(0x0303F93E9B800000, .smMov ⟨false, false, .always, (.reg 62), (.s 55), (), (), ()⟩),
      (0x8307451A005A3C1F, .smMovi ⟨true, false, (.uni 8 true), (.reg 26), (), 0x5A3C1F⟩),
      (0x030B1D16C082B3C1, .smMovh ⟨false, false, (.uni 3 true), 11, true, 0x2B3C1⟩),
      (0x030FF860369F8000, .smQand ⟨false, false, .always, 0, (.q 13), .no, (), ()⟩),
      (0x8313F86B3F190000, .smQor ⟨true, false, .always, 11, .no, (.q 4), (), ()⟩),
      (0x0317F8633F18C000, .smQxor ⟨false, false, .always, 3, .no, (.q 3), (), ()⟩),
      (0x031B6C6F32000000, .smQnot ⟨false, false, (.uni 13 true), 15, (.q 4), (), (), ()⟩),
      (0x831FF86D94800000, .smQmov ⟨true, false, .always, 13, (.s 41), (), (), ()⟩)] : List (Nat × Instr)).all agrees = true := by
  decide

theorem test_decode_vi :
    ([(0x040204234C194000, .viAdd ⟨false, false, (.lane 64 true), (.reg 35), (.v 152), (.v 101), (), ()⟩),
      (0x0404060017BCC000, .viSub ⟨false, false, (.lane 0 true), .latch, (.v 47), (.v 243), (), ()⟩),
      (0x840950BD988CC000, .viMul ⟨true, false, (.lane 42 false), (.reg 189), (.u (.s 49)), (.v 51), (), ()⟩),
      (0x840D84DEB33B4000, .viMulh ⟨true, false, (.lane 48 true), (.reg 222), (.l .depth), (.v 237), (), ()⟩),
      (0x0411189EAAD54000, .viMulhu ⟨false, false, (.lane 35 false), (.reg 158), (.l .teamlane), (.l .teamlane), (), ()⟩),
      (0x04171CC110BEDDE0, .viMad ⟨false, false, (.uni 3 true), (.reg 193), (.v 33), (.v 251), (.v 239), ()⟩),
      (0x041B34C865BAA541, .viMad64 ⟨false, false, (.uni 6 true), 100, (.v 203), (.v 234), (.u (.s 21)), true⟩),
      (0x841D0082E8088000, .viAnd ⟨true, false, (.lane 32 false), (.reg 130), (.u (.neg 16)), (.v 34), (), ()⟩),
      (0x0421E43107D40000, .viOr ⟨false, false, (.lane 60 true), (.reg 49), (.v 15), (.l .laneid), (), ()⟩),
      (0x842600F0AAA58000, .viXor ⟨true, false, (.lane 64 false), (.reg 240), (.l .teamlane), (.v 150), (), ()⟩),
      (0x042A707832800000, .viNot ⟨false, false, (.lane 78 false), (.reg 120), (.v 101), (), (), ()⟩),
      (0x042CBC1D89A74000, .viShl ⟨false, false, (.lane 23 true), (.reg 29), (.u (.s 19)), (.v 157), (), ()⟩),
      (0x0432EA0013598000, .viShr ⟨false, false, (.lane 93 false), .latch, (.v 38), (.l .depth), (), ()⟩),
      (0x843578BE82B2C000, .viSra ⟨true, false, (.lane 47 false), (.reg 190), (.u (.s 5)), (.v 203), (), ()⟩),
      (0x04393E00CCDEC000, .viMin ⟨false, false, (.lane 39 true), .latch, (.u (.nat 25)), (.u (.x .bindlo)), (), ()⟩),
      (0x043C1A00F24A4000, .viMax ⟨false, false, (.lane 3 false), .latch, (.u (.flt 4)), (.u (.s 41)), (), ()⟩)] : List (Nat × Instr)).all agrees = true := by
  decide

theorem test_decode_vi2 :
    ([(0x0443F86F78D40000, .viMinu ⟨false, false, .always, (.reg 111), (.v 241), (.l .laneid), (), ()⟩),
      (0x0446E200F6D54000, .viMaxu ⟨false, false, (.lane 92 false), .latch, (.u (.flt 13)), (.l .teamlane), (), ()⟩),
      (0x844B6E0031800000, .viAbs ⟨true, false, (.uni 13 true), .latch, (.v 99), (), (), ()⟩),
      (0x844F2C6E82800000, .viNeg ⟨true, false, (.uni 5 true), (.reg 110), (.u (.s 5)), (), (), ()⟩),
      (0x8450EA000E870001, .viAdds ⟨true, false, (.lane 29 false), .latch, (.v 29), (.v 28), (), true⟩),
      (0x045690319DB68001, .viSubs ⟨false, false, (.lane 82 false), (.reg 49), (.u (.s 59)), (.v 218), (), true⟩),
      (0x045A5C45ED000000, .viClz ⟨false, false, (.lane 75 true), (.reg 69), (.u (.neg 26)), (), (), ()⟩),
      (0x845E3CC595800000, .viPopc ⟨true, false, (.lane 71 true), (.reg 197), (.u (.s 43)), (), (), ()⟩),
      (0x046374D4B341C001, .viBfe ⟨false, false, (.uni 14 true), (.reg 212), (.l .depth), (.u (.s 7)), (), true⟩),
      (0x046520022B600280, .viBfi ⟨false, false, (.lane 36 false), (.reg 2), (.v 86), (.u (.nat 0)), (.v 20), ()⟩),
      (0x846AC0BE3074C3A0, .viSel ⟨true, false, (.lane 88 false), (.reg 190), (.v 96), (.u (.neg 19)), (.p 29), ()⟩),
      (0x046F06004CAF0662, .viDot4 ⟨false, false, (.uni 0 true), .latch, (.v 153), (.v 188), (.v 51), .su⟩),
      (0x8470585821A72AA2, .viDot2 ⟨true, false, (.lane 11 false), (.reg 88), (.v 67), (.v 156), (.l .teamlane), .su⟩),
      (0x0477F8A8050A8000, .viAdd64 ⟨false, false, .always, 84, (.v 5), (.v 21), (), ()⟩),
      (0x0479801427070000, .viSub64 ⟨false, false, (.lane 48 false), 10, (.v 39), (.v 14), (), ()⟩)] : List (Nat × Instr)).all agrees = true := by
  decide

theorem test_decode_vj :
    ([(0x05037C7439DA3C1F, .vjAddi ⟨false, false, (.uni 15 true), (.reg 116), (.v 115), 0x5A3C1F⟩),
      (0x05070C5C7F5A3C1F, .vjAndi ⟨false, false, (.uni 1 true), (.reg 92), (.v 254), 0x5A3C1F⟩),
      (0x050BFA0043DA3C1F, .vjOri ⟨false, false, .always, .latch, (.v 135), 0x5A3C1F⟩),
      (0x050CD6008A5A3C1F, .vjXori ⟨false, false, (.lane 26 true), .latch, (.u (.s 20)), 0x5A3C1F⟩),
      (0x0512F600A8000013, .vjShli ⟨false, false, (.lane 94 true), .latch, (.l .laneid), 0x13⟩),
      (0x051540C1005A3C1F, .vjMovi ⟨false, false, (.lane 40 false), (.reg 193), (), 0x5A3C1F⟩)] : List (Nat × Instr)).all agrees = true := by
  decide

theorem test_decode_vf :
    ([(0x0603FA009EF58002, .vfAdd ⟨false, false, .always, .latch, (.u (.s 61)), (.u (.neg 22)), (), ⟨false, true, false, false, false⟩⟩),
      (0x860460B12AD98002, .vfSub ⟨true, false, (.lane 12 false), (.reg 177), (.v 85), (.l .depth), (), ⟨false, true, false, false, false⟩⟩),
      (0x860B4CAAF3CD0002, .vfMul ⟨true, false, (.uni 9 true), (.reg 170), (.u (.flt 7)), (.u (.s 52)), (), ⟨false, true, false, false, false⟩⟩),
      (0x860D00CCB33C5FC4, .vfFma ⟨true, false, (.lane 32 false), (.reg 204), (.l .depth), (.v 241), (.v 254), ⟨false, false, true, false, false⟩⟩),
      (0x0613F87EB3214002, .vfMin ⟨false, false, .always, (.reg 126), (.l .depth), (.v 133), (), ⟨false, true, false, false, false⟩⟩),
      (0x8617060012BB4002, .vfMax ⟨true, false, (.uni 0 true), .latch, (.v 37), (.v 237), (), ⟨false, true, false, false, false⟩⟩),
      (0x061B5CEC18554002, .vfMinn ⟨false, false, (.uni 11 true), (.reg 236), (.v 48), (.l .teamlane), (), ⟨false, true, false, false, false⟩⟩),
      (0x861DF60087598002, .vfMaxn ⟨true, false, (.lane 62 true), .latch, (.u (.s 14)), (.l .depth), (), ⟨false, true, false, false, false⟩⟩),
      (0x062232006E800009, .vfFloor ⟨false, false, (.lane 70 false), .latch, (.v 221), (), (), ⟨true, false, false, true, false⟩⟩),
      (0x0624F20037800009, .vfCeil ⟨false, false, (.lane 30 false), .latch, (.v 111), (), (), ⟨true, false, false, true, false⟩⟩),
      (0x062A380927800009, .vfTrunc ⟨false, false, (.lane 71 false), (.reg 9), (.v 79), (), (), ⟨true, false, false, true, false⟩⟩),
      (0x062ED0DCB3000009, .vfRint ⟨false, false, (.lane 90 false), (.reg 220), (.l .depth), (), (), ⟨true, false, false, true, false⟩⟩),
      (0x86309C977E800009, .vfFract ⟨true, false, (.lane 19 true), (.reg 151), (.v 253), (), (), ⟨true, false, false, true, false⟩⟩),
      (0x06374C9C918F4002, .vfLdexp ⟨false, false, (.uni 9 true), (.reg 156), (.u (.s 35)), (.v 61), (), ⟨false, true, false, false, false⟩⟩),
      (0x0638544942000009, .vfGetexp ⟨false, false, (.lane 10 true), (.reg 73), (.v 132), (), (), ⟨true, false, false, true, false⟩⟩),
      (0x063F44F5E5800009, .vfGetmant ⟨false, false, (.uni 8 true), (.reg 245), (.u (.neg 11)), (), (), ⟨true, false, false, true, false⟩⟩)] : List (Nat × Instr)).all agrees = true := by
  decide

theorem test_decode_vh :
    ([(0x8703F88F40C70011, .vhAdd ⟨true, false, .always, (.reg 143), (.v 129), (.u (.s 28)), (), ⟨true, false, false, false, true⟩⟩),
      (0x07071E00327D0011, .vhSub ⟨false, false, (.uni 3 true), .latch, (.v 100), (.u (.flt 20)), (), ⟨true, false, false, false, true⟩⟩),
      (0x8709441C94494011, .vhMul ⟨true, false, (.lane 40 true), (.reg 28), (.u (.s 40)), (.u (.s 37)), (), ⟨true, false, false, false, true⟩⟩),
      (0x070E1861AA9D9D96, .vhFma ⟨false, false, (.lane 67 false), (.reg 97), (.l .teamlane), (.v 118), (.v 236), ⟨false, true, true, false, true⟩⟩),
      (0x07130CC84E998011, .vhMin ⟨false, false, (.uni 1 true), (.reg 200), (.v 157), (.v 102), (), ⟨true, false, false, false, true⟩⟩),
      (0x87149A00B6790011, .vhMax ⟨true, false, (.lane 19 false), .latch, (.u (.x .arglo)), (.u (.flt 4)), (), ⟨true, false, false, false, true⟩⟩),
      (0x071BF8B294B3A3B6, .vhDot2 ⟨false, false, .always, (.reg 178), (.u (.s 41)), (.v 206), (.u (.s 29)), ⟨false, true, true, false, true⟩⟩)] : List (Nat × Instr)).all agrees = true := by
  decide

theorem test_decode_vd :
    ([(0x0803F8E03A1D0002, .vdAdd ⟨false, false, .always, 112, (.v 58), (.v 58), (), ⟨false, true, false, false, false⟩⟩),
      (0x880400C220258002, .vdSub ⟨true, false, (.lane 0 false), 97, (.v 32), (.v 75), (), ⟨false, true, false, false, false⟩⟩),
      (0x080B24C27D220002, .vdMul ⟨false, false, (.uni 4 true), 97, (.v 125), (.v 68), (), ⟨false, true, false, false, false⟩⟩),
      (0x880F3CCC0E310B44, .vdFma ⟨true, false, (.uni 7 true), 102, (.v 14), (.v 98), (.v 45), ⟨false, false, true, false, false⟩⟩),
      (0x0811D4BA3E050002, .vdMin ⟨false, false, (.lane 58 true), 93, (.v 62), (.v 10), (), ⟨false, true, false, false, false⟩⟩),
      (0x0814747488290002, .vdMax ⟨false, false, (.lane 14 true), 58, (.u (.s 8)), (.v 82), (), ⟨false, true, false, false, false⟩⟩),
      (0x081860169A000009, .vdRint ⟨false, false, (.lane 12 false), 11, (.u (.s 26)), (), (), ⟨true, false, false, true, false⟩⟩)] : List (Nat × Instr)).all agrees = true := by
  decide

theorem test_decode_cv :
    ([(0x09010E00AA80000C, .cvCvt ⟨false, false, (.lane 33 true), .latch, (.l .teamlane), (), (), .i32F32⟩),
      (0x0907F8DAB37FE082, .cvPack ⟨false, false, .always, (.reg 218), (.l .depth), (.u (.flt 31)), (.u (.s 4)), .n⟩),
      (0x090BF8D710838003, .cvUnpk ⟨false, false, .always, (.reg 215), (.v 33), (.v 14), (), .s8⟩),
      (0x090FF8006CD40001, .cvQnt ⟨false, false, .always, (.reg 0), (.v 217), (.l .laneid), (), true⟩),
      (0x0913F83E5759BC42, .cvDqnt ⟨false, false, .always, (.reg 62), (.v 174), (.l .depth), (.u (.flt 2)), .bf⟩),
      (0x8915042719EF4001, .cvQf8 ⟨true, false, (.lane 32 true), (.reg 39), (.v 51), (.u (.nat 61)), (), .e4m3⟩),
      (0x891B7600AAD40003, .cvSrnd ⟨true, false, (.uni 14 true), .latch, (.l .teamlane), (.l .laneid), (), .e5m2⟩)] : List (Nat × Instr)).all agrees = true := by
  decide

theorem test_decode_vc :
    ([(0x8A00401EEC104016, .vcCmp ⟨true, false, (.lane 8 false), 30, (.u (.neg 24)), (.v 65), (), ⟨.f32, .un⟩⟩),
      (0x0A04742C23D40002, .vcClass ⟨false, false, (.lane 14 true), 44, (.v 71), (.l .laneid), (), .f16⟩),
      (0x8A0BF8427E9A0001, .vcTest ⟨true, false, .always, 66, (.v 253), (.v 104), (), true⟩)] : List (Nat × Instr)).all agrees = true := by
  decide

theorem test_decode_cl :
    ([(0x8B01648B1C234003, .clShfl ⟨true, false, (.lane 44 true), (.reg 139), 56, (.v 141), (), .xor⟩),
      (0x0B06440D3C268014, .clShfx ⟨false, false, (.lane 72 true), (.reg 13), 120, (.v 154), (), ⟨.dn, 4⟩⟩),
      (0x8B0B152B5E800000, .clRfl ⟨true, false, (.uni 2 true), (.reg (.s 43)), 189, (), (), ()⟩),
      (0x0B0D6D3B11C50000, .clRdl ⟨false, false, (.lane 45 true), (.reg (.s 59)), 35, (.s 20), (), ()⟩),
      (0x0B132C73EE450000, .clWrl ⟨false, false, (.uni 5 true), 115, (.neg 28), (.s 20), (), ()⟩),
      (0x0B14352567800009, .clRed ⟨false, false, (.lane 6 true), (.reg (.s 37)), 207, (), (), .or⟩),
      (0x0B19860008800009, .clScan ⟨false, false, (.lane 48 true), .latch, 17, (), (), .or⟩),
      (0x0B1E8D2C33000000, .clBallot ⟨false, false, (.lane 81 true), 22, (.q 6), (), (), ()⟩),
      (0x0B210C6202800000, .clAny ⟨false, false, (.lane 33 true), 2, (.p 5), (), (), ()⟩),
      (0x8B25C4693F800000, .clAll ⟨true, false, (.lane 56 true), 9, .yes, (), (), ()⟩),
      (0x0B2A76000B800000, .clShtl ⟨false, false, (.lane 78 true), .latch, 23, (), (), ()⟩)] : List (Nat × Instr)).all agrees = true := by
  decide

theorem test_decode_pr :
    ([(0x0C01C425039FC000, .prAnd ⟨false, false, (.lane 56 true), 37, (.p 7), .yes, (), ()⟩),
      (0x0C05E007171A8000, .prOr ⟨false, false, (.lane 60 false), 7, (.p 46), (.q 10), (), ()⟩),
      (0x0C0B5C23039A8000, .prXor ⟨false, false, (.uni 11 true), 35, (.p 7), (.q 10), (), ()⟩),
      (0x8C0FF82937800000, .prNot ⟨true, false, .always, 41, (.q 15), (), (), ()⟩),
      (0x0C13F83E3F800000, .prMov ⟨false, false, .always, 62, .yes, (), (), ()⟩),
      (0x8C174429A8554000, .prSet ⟨true, false, (.uni 8 true), 41, (.l .laneid), (.l .teamlane), (), ()⟩),
      (0x0C1B0D322E000000, .prCnt ⟨false, false, (.uni 1 true), 50, (.p 92), (), (), ()⟩)] : List (Nat × Instr)).all agrees = true := by
  decide

theorem test_decode_sf :
    ([(0x0D00046FAA800000, .sfRcp ⟨false, false, (.lane 0 true), (.reg 111), (.l .teamlane), (), (), ()⟩),
      (0x8D04E4D4F3800000, .sfRsq ⟨true, false, (.lane 28 true), (.reg 212), (.u (.flt 7)), (), (), ()⟩),
      (0x0D0A1030B3000000, .sfSqrt ⟨false, false, (.lane 66 false), (.reg 48), (.l .depth), (), (), ()⟩),
      (0x8D0CB080F3800000, .sfExp2 ⟨true, false, (.lane 22 false), (.reg 128), (.u (.flt 7)), (), (), ()⟩),
      (0x8D10DCA333800000, .sfLog2 ⟨true, false, (.lane 27 true), (.reg 163), (.v 103), (), (), ()⟩),
      (0x0D17F8EB8B000000, .sfSin ⟨false, false, .always, (.reg 235), (.u (.s 22)), (), (), ()⟩),
      (0x0D19E4F88C000000, .sfCos ⟨false, false, (.lane 60 true), (.reg 248), (.u (.s 24)), (), (), ()⟩),
      (0x0D1F6CFB1A800000, .sfTanh ⟨false, false, (.uni 13 true), (.reg 251), (.v 53), (), (), ()⟩)] : List (Nat × Instr)).all agrees = true := by
  decide

theorem test_decode_pl :
    ([(0x0E03F8987A9B3C80, .plShf ⟨false, false, .always, 152, 245, 1, .s0, true, 0x9E, .wrap, ()⟩),
      (0x0E07F879706F8E00, .plRot ⟨false, false, .always, 121, 224, 6, .s1, true, 0xC7, .own, ()⟩),
      (0x8E0B5CE238143400, .plSpr ⟨true, false, (.uni 11 true), 226, 112, 1, .y, false, 0x1A, .own, ()⟩),
      (0x0E0E60B3633C0011, .plFld ⟨false, false, (.lane 76 false), 179, 198, 3, .s1, false, 0x0, .own, ⟨.e4m3, .max⟩⟩),
      (0x0E13F8655BC80011, .plScn ⟨false, false, .always, 101, 183, 4, .s0, false, 0x0, .own, ⟨.e4m3, .max⟩⟩),
      (0x0E17F84D3C800000, .plTrn ⟨false, false, .always, 77, 121, 0, .x, false, 0x0, .own, ()⟩),
      (0x0E1BF8C34EA00005, .plRfd ⟨false, false, .always, 195, 157, 2, .x, false, 0x0, .own, 5⟩)] : List (Nat × Instr)).all agrees = true := by
  decide

theorem test_decode_fd :
    ([(0x0F03F80086000000, .fdSet ⟨false, false, .always, 0, (.s 6), (), (), ()⟩),
      (0x8F07F91403000000, .fdGet ⟨true, false, .always, 10, 6, (), (), ()⟩),
      (0x0F0BF90AD8800000, .fdChk ⟨false, false, .always, (.reg 10), (.nat 49), (), (), ()⟩)] : List (Nat × Instr)).all agrees = true := by
  decide

theorem test_decode_ld :
    ([(0x102B544B442AB266, .ld ⟨false, false, (.uni 10 true), none, 150, (.s 8), (.l .teamlane), .b64, 0x1266⟩)] : List (Nat × Instr)).all agrees = true := by
  decide

theorem test_decode_ldu :
    ([(0x9047F892C2ABF193, .ldu ⟨true, false, .always, (some .grp), 37, 5, (.x .teamh), .z8, 0x1193⟩)] : List (Nat × Instr)).all agrees = true := by
  decide

theorem test_decode_ldp :
    ([(0x109C892248A1BD23, .ldp ⟨false, false, (.lane 17 false), (some .team), 68, 17, (.s 13), 3, 0x1D23⟩)] : List (Nat × Instr)).all agrees = true := by
  decide

theorem test_decode_st :
    ([(0x1117F8B32B003D85, .st ⟨false, false, .always, (some .grp), (.l .depth), (.v 86), (.v 1), .b16, 0x1D85⟩)] : List (Nat × Instr)).all agrees = true := by
  decide

theorem test_decode_stu :
    ([(0x11676F81423B5597, .stu ⟨false, false, (.uni 13 true), (some .sys), (.s 2), 4, (.neg 26), .b32, 0x1597⟩)] : List (Nat × Instr)).all agrees = true := by
  decide

theorem test_decode_stp :
    ([(0x9181D078CE351AA2, .stp ⟨true, false, (.lane 58 false), none, 241, 28, (.nat 40), 0, 0x1AA2⟩)] : List (Nat × Instr)).all agrees = true := by
  decide

theorem test_decode_at :
    ([(0x120C1FC0490A9D28, .atAdd ⟨false, false, (.lane 3 true), (some .sys), .none, (.s 18), (.v 84), true, 0x1D28⟩),
      (0x121B546E480A9069, .atSub ⟨false, false, (.uni 10 true), none, (.v 220), (.s 16), (.v 84), true, 0x1069⟩),
      (0x922BF878418A9F05, .atMin ⟨true, false, .always, none, (.v 240), (.s 3), (.v 84), true, 0x1F05⟩),
      (0x9239AC6A2E0A973B, .atMax ⟨true, false, (.lane 53 true), none, (.v 212), (.v 92), (.v 84), true, 0x173B⟩),
      (0x124BF80E320A964F, .atMinu ⟨false, false, .always, none, (.v 28), (.v 100), (.v 84), true, 0x164F⟩),
      (0x1259604F4B8A92F8, .atMaxu ⟨false, false, (.lane 44 false), none, (.v 158), (.s 23), (.v 84), true, 0x12F8⟩),
      (0x126B0C5B378A9608, .atAnd ⟨false, false, (.uni 1 true), none, (.v 182), (.v 111), (.v 84), true, 0x1608⟩),
      (0x927D50C04B8A9B51, .atOr ⟨true, false, (.lane 42 false), (some .grp), .none, (.s 23), (.v 84), true, 0x1B51⟩),
      (0x928B5C33428A9346, .atXor ⟨true, false, (.uni 11 true), none, (.v 102), (.s 5), (.v 84), true, 0x1346⟩),
      (0x929D7555370A9512, .atXchg ⟨true, false, (.lane 46 true), (some .team), (.v 170), (.v 110), (.v 84), true, 0x1512⟩),
      (0x92AAB03F308A9DC9, .atCas ⟨true, false, (.lane 86 false), none, 126, (.v 97), (.v 84), true, 0x1DC9⟩),
      (0x92B6EC063E0913DE, .atFadd ⟨true, false, (.lane 93 true), (some .grp), (.v 12), (.v 124), (.v 72), (), 0x13DE⟩),
      (0x92CB74C0410D3461, .atXadd ⟨true, false, (.uni 14 true), none, (), (.s 2), (.v 105), .bf, 0x1461⟩),
      (0x12DEA71D15B01C4E, .atXrd ⟨false, false, (.lane 84 true), (some .sys), 58, (.v 43), (), true, 0x1C4E⟩)] : List (Nat × Instr)).all agrees = true := by
  decide

theorem test_decode_sn :
    ([(0x13033C000000000E, .snFence ⟨false, false, (.uni 7 true), (), (), ⟨true, true, .dev⟩⟩),
      (0x9307F80000000110, .snXf ⟨true, false, .always, (), (), ⟨⟨false, false, false, false, true⟩, ⟨false, false, false, true, false⟩⟩⟩),
      (0x130BF800D780000B, .snBinit ⟨false, false, .always, (), (.nat 47), 11⟩),
      (0x130FF8000000001C, .snBar ⟨false, false, .always, (), (), ⟨true, 12⟩⟩),
      (0x1313F9370000000B, .snBara ⟨false, false, .always, 55, (), 11⟩),
      (0x1317F800EC80000B, .snBarw ⟨false, false, .always, (), (.neg 25), 11⟩),
      (0x131BF80099000000, .snMarm ⟨false, false, .always, (), 25, ()⟩),
      (0x131FF93F8C800000, .snMwait ⟨false, false, .always, 63, (.s 25), ()⟩),
      (0x1323F80000000000, .snFlush ⟨false, false, .always, (), (), ()⟩),
      (0x9327240000000000, .snInv ⟨true, false, (.uni 4 true), (), (), ()⟩)] : List (Nat × Instr)).all agrees = true := by
  decide

theorem test_decode_cp :
    ([(0x140128A4A13CBE02, .cpLane ⟨false, false, (.lane 37 false), 1, (some 4), (.s 20), (.v 79), (.v 190), .b16⟩),
      (0x1407F84442050401, .cpBulk ⟨false, false, .always, 0, none, 8, 1, (.s 4), true⟩),
      (0x140BFA9C92513C00, .cpMcast ⟨false, false, .always, 5, (some 3), 18, 10, 30, ()⟩),
      (0x940FFAC46BE40001, .cpStamp ⟨true, false, .always, 5, none, 13, (.flt 18), (), true⟩),
      (0x1413FB9FEAF60000, .cpArrv ⟨false, false, .always, 7, (some 3), (.flt 26), (.x .bindlo), (), ()⟩)] : List (Nat × Instr)).all agrees = true := by
  decide

theorem test_decode_tk :
    ([(0x9503F800A6800000, .tkWait ⟨true, false, .always, (), 5, (), (), ()⟩),
      (0x1507F866A4800000, .tkTst ⟨false, false, .always, 6, 1, (), (), ()⟩),
      (0x950BF800A7800000, .tkCan ⟨true, false, .always, (), 7, (), (), ()⟩),
      (0x950F1D05A4000000, .tkCnt ⟨true, false, (.uni 3 true), (.reg 5), 0, (), (), ()⟩)] : List (Nat × Instr)).all agrees = true := by
  decide

theorem test_decode_mx :
    ([(0x1603FA898D390C07, .mxMma ⟨false, false, .always, 5, (some 1), 99, 156, (.s 12), .nq4e5⟩),
      (0x1607771C511B0C07, .mxMmas ⟨false, false, (.uni 14 true), 6, (some 3), (.s 20), 141, (.s 12), .nq4e5⟩),
      (0x160BF84000017100, .mxZero ⟨false, false, .always, 0, none, (), (), (.x .clklo), ()⟩)] : List (Nat × Instr)).all agrees = true := by
  decide

theorem test_decode_ax :
    ([(0x1703F800E0FBE200, .axWin ⟨false, false, .always, (), (.neg 1), (.flt 15), (.s 16), ()⟩),
      (0x97072D38A7C53CAB, .axDrn ⟨true, false, (.uni 5 true), 2, (some 7), 41, (.flt 2), (.s 60), ⟨true, false, 5, .e4m3⟩⟩),
      (0x170BFB1996470F31, .axFil ⟨false, false, .always, 6, (some 3), 101, (.s 35), (.s 15), ⟨6, .f16⟩⟩),
      (0x170FFBA802710700, .axChk ⟨false, false, .always, 7, (some 5), (), (.s 56), (.s 7), ()⟩)] : List (Nat × Instr)).all agrees = true := by
  decide

theorem test_decode_fb :
    ([(0x1800A721919CFC03, .fbPut ⟨false, false, (.lane 20 true), 6, (some 4), (.v 50), (.v 103), (.v 252), ⟨true, true, false⟩⟩),
      (0x9807F924E0303000, .fbGet ⟨true, false, .always, 2, (some 4), (.s 28), (.v 12), (.v 48), ()⟩),
      (0x980BFBC122292738, .fbRed ⟨true, false, .always, 7, none, (.v 36), (.s 10), (.u (.s 39)), ⟨true, true, true, .f32⟩⟩),
      (0x180FFB2448000000, .fbAta ⟨false, false, .always, 6, (some 4), 9, (), (), ()⟩),
      (0x1813FA2C90000000, .fbCmb ⟨false, false, .always, 4, (some 5), 18, (), (), ()⟩),
      (0x1817F9A483D73C00, .fbArrv ⟨false, false, .always, 3, (some 4), (.s 32), (.flt 11), (.s 60), ()⟩)] : List (Nat × Instr)).all agrees = true := by
  decide

theorem test_decode_dv :
    ([(0x9903F91E85000000, .dvReg ⟨true, false, .always, 30, .s 5, (), (), ()⟩),
      (0x9903F91EC2800000, .dvReg ⟨true, false, .always, 30, .nat 5, (), (), ()⟩),
      (0x9907F904E7000000, .dvUnreg ⟨true, false, .always, 4, (.neg 14), (), (), ()⟩),
      (0x990BF91DE6718000, .dvQry ⟨true, false, .always, 29, (.neg 12), (.neg 6), (), ()⟩),
      (0x190FF8BCBBB73F00, .dvWarm ⟨false, false, .always, 1, (some 7), (.s 46), (.neg 27), (.s 63), ()⟩)] : List (Nat × Instr)).all agrees = true := by
  decide

theorem test_decode_ic :
    ([(0x1A03346194784000, .icLock ⟨false, false, (.uni 6 true), 1, 20, (.flt 1), (), ()⟩),
      (0x9A07F80099600000, .icUnlk ⟨true, false, .always, (), 25, (.nat 0), (), ()⟩),
      (0x1A0B0C009349C000, .icInv ⟨false, false, (.uni 1 true), (), 19, (.s 39), (), ()⟩)] : List (Nat × Instr)).all agrees = true := by
  decide

/-! ## States that meet the hypotheses of the statements

`solo w` fetches the word w next, on path 4 of group 3 of team 2 of launch 1, on core 0. -/

/-- The state whose next step runs the word. -/
def solo (w : Nat) : State := State.reset.withFetchWord 64 w
/-- The same with its group changed. -/
def onGroup (f : Group → Group) (s : State) : State := s.modGroup 3 f
/-- The same with its path changed. -/
def onArm (f : Path → Path) (s : State) : State := s.modPath 4 f
/-- The same with its launch changed. -/
def onEntry (f : Entry → Entry) (s : State) : State := s.modEntry 1 f
/-- A condition on the view of the selected path. -/
def meets (s : State) (f : View → Bool) : Bool := s.view.any f
/-- A condition on the state that a word or an event leads to. -/
def after (i : Instr) (s : State) (f : State → Bool) : Bool :=
  match exec i s with
  | .next t => f t
  | _ => false
/-- A condition on the path's group. -/
def grp (s : State) (f : Group → Bool) : Bool := (SMap.find? s.groups 3).any f
/-- A condition on the path. -/
def arm (s : State) (f : Path → Bool) : Bool := (SMap.find? s.paths 4).any f
/-- Page 0x10 of context 0, 64 KiB of far memory, in the TLB of core 0. -/
def mapped (s : State) : State := { s with tlb := [⟨0, 0, 0x10000, ⟨0, 0, 0x200000000000, 16, false, false, true, true, true, 0⟩⟩] }
/-- Every number in use is below the next, and every table in order. -/
def numbered (s : State) : Bool :=
  s.reqs.all (fun e => decide (e.1 < s.nextId)) &&
  s.ops.all (fun e => decide (e.1 < s.nextId) && (e.2.covers ++ e.2.release).all (fun n => decide (n < s.nextId))) &&
  s.deliveries.all (fun e => decide (e.1 < s.nextId)) && s.entries.all (fun e => decide (e.1 < s.nextId)) &&
  s.teams.all (fun e => decide (e.1 < s.nextId) && decide (e.2.entry < s.nextId)) &&
  s.groups.all (fun e => decide (e.1 < s.nextId) && decide (e.2.team < s.nextId)) &&
  s.paths.all (fun e => decide (e.1 < s.nextId)) && s.walks.all (fun e => decide (e.1 < s.nextId)) &&
  s.fills.all (fun e => decide (e.1 < s.nextId)) &&
  SMap.rising s.reqs && SMap.rising s.ops && SMap.rising s.entries && SMap.rising s.teams && SMap.rising s.groups &&
  SMap.rising s.paths && SMap.rising s.walks
/-- That is what the statements ask of the numbers. -/
theorem numbersFresh_of_numbered {s : State} (h : numbered s = true) : s.NumbersFresh := by
  simp only [numbered, Bool.and_eq_true, List.all_eq_true, decide_eq_true_eq] at h
  obtain ⟨⟨⟨⟨⟨⟨⟨⟨⟨⟨⟨⟨⟨⟨⟨h1, h2⟩, h3⟩, h4⟩, h5⟩, h6⟩, h7⟩, h8⟩, h9⟩, a⟩, b⟩, c⟩, d⟩, e⟩, f⟩, g⟩ := h
  exact ⟨h1, h2, h3, h4, h5, h6, h7, h8, h9, a, b, c, d, e, f, g⟩
/-- A guard that holds: always, or q15 clear under its inverted sense. -/
def guardsHold (x : View) : Bool := x.guardOn .always && x.guardOn (.uni 15 true)
/-- The word stands in the buffer (Stands). -/
def standsAt (x : View) (a : Nat) (w : BitVec 64) : Bool :=
  match (x.s.core x.g.core).codeLine x.e.ctx (a / 256) with
  | some l => l.flips.isEmpty && l.bad.all (fun b => !b) && (List.range 8).all (fun k =>
      w.toNat / 2 ^ (8 * k) % 256 == (l.bytes.getD (a % 256 / 8 * 8 + k) 0).toNat)
  | none => false
/-- The chain decodes to these words. -/
def chainIs (x : View) (ws : List (BitVec 64)) (is : List Instr) : Bool :=
  match decodeChain x.w x.regs 8 [] ws with
  | .ok js => decide (js = is)
  | .error _ => false

/-- Aligned, translated to a target that may be used, and for a store no derived page (Allowed). -/
def allowed (x : View) (size : Nat) (k : AccessKind) (store : Bool) (deny : Target → Bool) (as : List (Nat × DWord)) : Bool :=
  as.all fun a => decide (a.2.toNat % size = 0) && !x.outside a.2 && (x.refusedAt a.2).isNone &&
    (match x.translate a.2 k with | .hit t _ => !deny t | _ => false) && (!store || !x.derivedAt a.2)
/-- Lane 0 alone. -/
def laneZero (s : State) : State := onArm (fun p => { p with exec := 1 }) s
/-- s2:s3 is an address. -/
def addressed (a : Nat) (s : State) : State := onGroup (fun g => g.setSpair 2 (BitVec.ofNat 64 a)) s
/-- Any target will do. -/
def anyTarget : Target → Bool := fun _ => false

/-- The launch's first fault has this code. -/
def faultIs (c : Code) (t : State) : Bool := (SMap.find? t.entries 1).any (fun e => e.faults.head?.any (fun f => decide (f.code = c)))
/-- The word has not issued: the path stands where it stood, and nothing is queued. -/
def stalls (t : State) : Bool := arm t (fun p => p.pc == 0 && decide (p.wait = .none)) && t.ops.isEmpty
/-- One operation is queued, and the path goes on. -/
def queues (t : State) : Bool := arm t (fun p => p.pc == 8) && t.ops.length == 1
/-- COUNT of tag 1. -/
def counted (n : Nat) (s : State) : State := onGroup (fun g => g.setTag 1 ⟨n, 0, false⟩) s
/-- Words in uniform registers from s4. -/
def words (ws : List Nat) (s : State) : State :=
  onGroup (fun g => (ws.zipIdx).foldl (fun g x => g.setS (4 + x.2) (BitVec.ofNat 32 x.1)) g) s
/-- A table of the path's word, read whole. -/
def tabled (a : DWord) (bs : List Byte) (s : State) : State :=
  onArm (fun p => { p with tables := p.tables ++ [⟨a, bs.length, bs.zipIdx.map (fun x => (x.2, x.1)), [], [], false⟩] }) s
/-- The address that names nothing. -/
def beyondTop : Nat := 2 ^ 57

/-- The accumulator window of the group. -/
def windowed (lo hi : Nat) (s : State) : State := onGroup (fun g => { g with abase := lo, alimit := hi }) s

/-- An arm chosen by the schedule; a word to issue with no chain under way, alone or with its live-mask word; a word that is not
ready; a chain under way. -/
theorem hyps_StepRunsDecoded :
    meets (solo 0x0003F80000000000) (fun x => !x.atJoin && x.s.expired.isNone && x.p.chain.isEmpty &&
      x.s.sched.any (fun k => decide (x.s.choices[k]? = some (.arm 4))) &&
      chainIs x [0x0003F80000000000] [.syNop ⟨false, false, .always, (), (), ()⟩] && standsAt x 0 0x0003F80000000000 &&
      x.wordReady (.syNop ⟨false, false, .always, (), (), ()⟩) &&
      (x.poisonedRead (.syNop ⟨false, false, .always, (), (), ()⟩)).isNone) = true ∧
    meets (State.reset.withFetchWord 128 0xFF000000010100004403F801A8604000) (fun x =>
      chainIs x [0x4403F801A8604000, 0xFF00000001010000] [.viAdd ⟨false, true, .always, .reg 1, .l .laneid, .u (.nat 1), (), ()⟩] &&
      qBit 0x4403F801A8604000 && standsAt x 0 0x4403F801A8604000 && standsAt x 8 0xFF00000001010000) = true ∧
    meets (onGroup (fun g => g.setTag 1 ⟨1, 0, false⟩) (solo 0x1503F80480000000)) (fun x =>
      !x.wordReady (.tkWait ⟨false, false, .always, (), 1, (), (), ()⟩)) = true ∧
    meets (onArm (fun p => { p with chain := [.syNop ⟨false, false, .always, (), (), ()⟩] }) (solo 0)) (fun x =>
      !x.atJoin && (x.poisonedRead (.syNop ⟨false, false, .always, (), (), ()⟩)).isNone) = true := by decide

/-- A latch read after the word that writes it; the last register declared; the widest segment. -/
theorem hyps_DecodeEncode :
    (encode (.viAdd ⟨false, false, .always, .reg 255, .u (.t 0), .v 1, (), ()⟩)).any (fun w =>
      !chainBad ⟨64, 256, [.lane], 0⟩ w) = true ∧
    (fun u : OpUse => !u.lats.any (LatchRead.misplaced [.lane]) && !u.lats.any (LatchRead.invalid [.lane]) && decide (u.top ≤ 256))
      (Instr.use (.viAdd ⟨false, false, .always, .reg 255, .u (.t 0), .v 1, (), ()⟩)) = true ∧
    (encode (.clShfx ⟨false, false, .always, .reg 1, 2, .v 3, (), ⟨.up, 6⟩⟩)).isSome = true ∧ 2 ^ 6 ≤ 64 := by decide

/-- A uniform guard that does not hold, in both senses. -/
theorem hyps_GuardFails :
    meets (solo 0) (fun x => !x.guardOn (.uni 15 false) && (encode (.siAdd ⟨false, true, .uni 15 false, .latch, .s 1, .nat 7, (), ()⟩)).isSome) = true ∧
    meets (onGroup (fun g => g.setQ 0 true) (solo 0)) (fun x => !x.guardOn (.uni 0 true)) = true := by decide

/-- A step of a word, and a cycle of an idle module, from canonical memories. -/
theorem hyps_StepKeepsMemoryCanonical :
    (fun s : State => Memory.wf s.mem && Memory.wf s.host &&
      s.teams.all (fun e => Memory.wf e.2.side0.spad && Memory.wf e.2.side1.spad) &&
      (match step s with | .next _ => true | _ => false))
      { solo 0x0003F80000000000 with mem := [(0x200000000000, 1)], host := [(5, 0xFF)] } = true := by decide

/-- A cycle from reset. -/
theorem hyps_StepKeepsNumbers :
    let s : State := { State.reset with sched := [0] }
    s.NumbersFresh ∧ s.FoldsLegal ∧ (match step s with | .next t => decide (t.cycle = 1) | _ => false) = true := by
  refine ⟨?_, ?_, by decide⟩
  · constructor <;> simp [State.reset, SMap.rising]
  · intro n g t e h; simp [State.reset, SMap.find?] at h

/-! SI, SM, PR: a guard that holds, in each kind. -/

theorem hyps_UniformBinary :
    meets (onGroup (fun g => g.setS 1 0xFFFFFFFF) (solo 0)) guardsHold = true ∧
    after (.siAdd ⟨false, false, .always, .reg 5, .s 1, .nat 7, (), ()⟩) (onGroup (fun g => g.setS 1 0xFFFFFFFF) (solo 0))
      (fun t => grp t (fun g => g.sreg 5 == 6 && g.sreg 1 == 0xFFFFFFFF)) = true := by decide

/-- SI.CMP on 32 bits and on pairs, at the edge between signed and unsigned. -/
theorem hyps_UniformCompare :
    meets (solo 0) guardsHold = true ∧
    after (.siCmp ⟨false, false, .always, 15, .s 0, .nat 0, (), ⟨false, .slt⟩⟩) (onGroup (fun g => g.setS 0 0x80000000) (solo 0))
      (fun t => grp t (fun g => g.qreg 15)) = true ∧
    after (.siCmp ⟨false, false, .always, 15, .s 0, .nat 0, (), ⟨true, .slt⟩⟩) (onGroup (fun g => g.setS 0 0x80000000) (solo 0))
      (fun t => grp t (fun g => !g.qreg 15)) = true := by decide

/-- SM.MOVH at both positions (10 R176: bits 45:23, and bits 63:46). -/
theorem hyps_UniformWords :
    meets (solo 0) guardsHold = true ∧
    after (.smMovh ⟨false, false, .always, 1, false, 0x400001⟩) (onGroup (fun g => g.setS 2 0xFFFFFFFF) (solo 0))
      (fun t => grp t (fun g => g.spair 2 == 0x0000200000FFFFFF#64)) = true ∧
    after (.smMovh ⟨false, false, .always, 1, true, 0xC⟩) (onGroup (fun g => g.setS 2 0xFFFFFFFF) (solo 0))
      (fun t => grp t (fun g => g.spair 2 == 0x00030000FFFFFFFF#64)) = true := by decide

/-- PR.CNT counts lanes; PR.SET reads a bit of the lane's value. -/
theorem hyps_LanePredicates :
    meets (solo 0) guardsHold = true ∧
    after (.prCnt ⟨false, false, .always, 1, .yes, (), (), ()⟩) (solo 0) (fun t => grp t (fun g => g.sreg 1 == 64)) = true ∧
    after (.prSet ⟨false, false, .always, 95, .l .laneid, .u (.nat 5), (), ()⟩) (solo 0)
      (fun t => grp t (fun g => g.preds 95 == 0xFFFFFFFF00000000#64)) = true := by decide

/-- VI.SRA by 63, VI.MULH and VI.MULHU of the same words, in lane 0. -/
theorem hyps_LaneIntegerBinary :
    meets (solo 0) (fun x => x.active .always == BitVec.allOnes 64) = true ∧
    (fun s : State =>
      after (.viSra ⟨false, false, .always, .reg 1, .v 0, .u (.nat 63), (), ()⟩) s (fun t => grp t (fun g => g.vreg 1 0 == 0xFFFFFFFF)) &&
      after (.viMulh ⟨false, false, .always, .reg 1, .v 0, .u (.nat 2), (), ()⟩) s (fun t => grp t (fun g => g.vreg 1 0 == 0xFFFFFFFF)) &&
      after (.viMulhu ⟨false, false, .always, .reg 1, .v 0, .u (.nat 2), (), ()⟩) s (fun t => grp t (fun g => g.vreg 1 0 == 1)))
      (onGroup (fun g => g.setV 0 0 0x80000001) (solo 0)) = true := by decide

/-- VI.ABS of the most negative word is itself; VI.ADDS saturates; VJ.SHLI at its largest immediate. -/
theorem hyps_LaneIntegerWords :
    meets (solo 0) (fun x => x.active .always == BitVec.allOnes 64) = true ∧ (31 : BitVec 23).toNat < 32 ∧
    (fun s : State =>
      after (.viAbs ⟨false, false, .always, .reg 1, .v 0, (), (), ()⟩) s (fun t => grp t (fun g => g.vreg 1 0 == 0x80000000)) &&
      after (.viAdds ⟨false, false, .always, .reg 1, .v 0, .u (.neg 31), (), false⟩) s (fun t => grp t (fun g => g.vreg 1 0 == 0x80000000)) &&
      after (.vjShli ⟨false, false, .always, .reg 1, .u (.nat 1), 31⟩) s (fun t => grp t (fun g => g.vreg 1 0 == 0x80000000)))
      (onGroup (fun g => g.setV 0 0 0x80000000) (solo 0)) = true := by decide

/-- VI.BFE with pos 28 and len 63 keeps four bits, sign-extended under .S; VI.DOT2 in its three signednesses (11 R202, R203). -/
theorem hyps_BitFieldsAndDots :
    (fun s : State =>
      after (.viBfe ⟨false, false, .always, .reg 1, .v 0, .v 2, (), false⟩) s (fun t => grp t (fun g => g.vreg 1 0 == 0xF)) &&
      after (.viBfe ⟨false, false, .always, .reg 1, .v 0, .v 2, (), true⟩) s (fun t => grp t (fun g => g.vreg 1 0 == 0xFFFFFFFF)) &&
      after (.viDot2 ⟨false, false, .always, .reg 1, .v 0, .v 0, .u (.nat 1), .ss⟩) s (fun t => grp t (fun g => g.vreg 1 0 == 3)) &&
      after (.viDot2 ⟨false, false, .always, .reg 1, .v 0, .v 0, .u (.nat 1), .uu⟩) s (fun t => grp t (fun g => g.vreg 1 0 == 0xFFFC0003)) &&
      after (.viDot2 ⟨false, false, .always, .reg 1, .v 0, .v 0, .u (.nat 1), .su⟩) s (fun t => grp t (fun g => g.vreg 1 0 == 0xFFFE0003)))
      (onGroup (fun g => (g.setV 0 0 0xFFFFFFFF).setV 2 0 0x3F1C) (solo 0)) = true := by decide

/-- A value that rounds without overflow, one that overflows, one whose result is subnormal, and sums that are 0 and not: for each
rounding mode and the boundary m = 1. -/
theorem hyps_RoundingRules :
    ([0, 1, 2, 3].all fun rm => FFmt.all.all fun f =>
      let v : FEnv := { FEnv.plain with rm := rm, ftz := false }
      decide (FFmt.qmin f ≤ 0) && ((f.round v false false 1 0).2 &&& .of) == .none &&
        ((f.round v false false 1 2000).2 &&& .of) == .of &&
        (f.round v false false 3 (f.qmin - 1)).1 != 0) = true ∧
    FVal.units 0 (.num false 1 0) + FVal.units 0 (.num true 1 0) = 0 ∧
    FVal.units 0 (.num false 1 0) + FVal.units 0 (.num false 1 0) ≠ 0 := by decide

/-- Quiet and signalling NaNs as either operand, and the largest patterns; conversions to one bit and to 32. -/
theorem hyps_NansAndIntegers :
    (0xFFFFFFFF : Nat) < 2 ^ 32 ∧ 0x7F800000 < 0xFFFFFFFF % 2 ^ 31 ∧ 0x7F800000 < 0x7F800001 % 2 ^ 31 ∧
    FFmt.f32.add ⟨0, false, false, false, false⟩ 0x7F800001 0xFFFFFFFF = (0x7FC00001, .nv) ∧
    FFmt.f32.mul ⟨0, false, false, false, false⟩ 0x3F800000 0xFFFFFFFF = (0xFFFFFFFF, .none) ∧
    FVal.toInt .plain true 32 (.num true 1 31) = (0x80000000, .none) ∧
    FVal.toInt .plain true 32 (.num false 1 31) = (0x7FFFFFFF, .nv ||| .satf) ∧
    FVal.toInt .plain false 1 (.num false 1 0) = (1, .none) := by decide

/-- One word of VF, VH and VD each: 1.0 + 1.0, on halves, and on a pair. -/
theorem hyps_FloatWords :
    (fun s : State =>
      after (.vfAdd ⟨false, false, .always, .reg 1, .u (.flt 2), .u (.flt 2), (), ⟨true, true, false, false, false⟩⟩) s
        (fun t => grp t (fun g => g.vreg 1 63 == 0xC0000000)) &&
      after (.vhAdd ⟨false, false, .always, .reg 1, .u (.flt 2), .u (.flt 2), (), ⟨false, false, false, false, true⟩⟩) s
        (fun t => grp t (fun g => g.vreg 1 63 == 0x40004000)) &&
      after (.vdAdd ⟨false, false, .always, 1, .u (.flt 2), .u (.flt 2), (), ⟨false, false, false, false, false⟩⟩) s
        (fun t => grp t (fun g => g.vpair 2 63 == 0x4000000000000000#64)))
      (solo 0) = true := by decide

/-- Wide and narrow rows of CV.CVT with their destinations; a 64-bit result goes to an even pair. -/
theorem hyps_ConversionWords :
    Cvt.destOk .f64F32 (.reg 254) = true ∧ Cvt.destOk .f64F32 .latch = false ∧ Cvt.destOk .n8N32 .latch = true ∧
    (fun s : State =>
      after (.cvCvt ⟨false, false, .always, .reg 254, .u (.flt 2), (), (), .f64F32⟩) s
        (fun t => grp t (fun g => g.vpair 254 0 == 0x3FF0000000000000#64)) &&
      after (.cvCvt ⟨false, false, .always, .reg 1, .u (.flt 2), (), (), .f16F32⟩) s
        (fun t => grp t (fun g => g.vreg 1 0 == 0x3C00)))
      (solo 0) = true := by decide

/-- Types and conditions that may stand together; 0.0 and −0.0 are equal; a NaN is unordered. -/
theorem hyps_LaneCompares :
    VcMod.ok ⟨.i32, .ge⟩ = true ∧ VcMod.ok ⟨.f64, .or⟩ = true ∧ VcMod.ok ⟨.n32, .un⟩ = false ∧
    (fun s : State =>
      after (.vcCmp ⟨false, false, .always, 95, .u (.flt 0), .u (.flt 1), (), ⟨.f32, .eq⟩⟩) s
        (fun t => grp t (fun g => g.preds 95 == BitVec.allOnes 64)) &&
      after (.vcCmp ⟨false, false, .always, 95, .u (.flt 28), .u (.flt 1), (), ⟨.f64, .un⟩⟩) s
        (fun t => grp t (fun g => g.preds 95 == BitVec.allOnes 64)) &&
      after (.vcCmp ⟨false, false, .always, 95, .u (.flt 28), .u (.flt 28), (), ⟨.f32, .eq⟩⟩) s
        (fun t => grp t (fun g => g.preds 95 == 0) && arm t (fun p => p.fstat == 0)))
      (solo 0) = true := by decide

/-- SF on a path; negative operands at both ends of their range. -/
theorem hyps_SpecialFunctions :
    meets (solo 0) (fun x => x.active .always == BitVec.allOnes 64) = true ∧
    rsq .plain 0x80800000 = (0x7FC00000, .nv) ∧ sqrtF .plain 0xFF7FFFFF = (0x7FC00000, .nv) := by decide

/-! CL, PL, FD. -/

/-- Shuffles in and out of range; a vote with one lane active and with none. -/
theorem hyps_LaneMoves :
    (fun s : State =>
      after (.clShfl ⟨false, false, .always, .reg 1, 0, .u (.nat 1), (), .up⟩) s
        (fun t => grp t (fun g => g.vreg 1 0 == 0 && g.vreg 1 63 == 7)) &&
      after (.clShfx ⟨false, false, .always, .reg 1, 0, .u (.nat 1), (), ⟨.dn, 1⟩⟩) s
        (fun t => grp t (fun g => g.vreg 1 62 == 0 && g.vreg 1 61 == 0)) &&
      after (.clBallot ⟨false, false, .lane 0 false, 31, .yes, (), (), ()⟩) s (fun t => grp t (fun g => g.spair 62 == 8)) &&
      after (.clAll ⟨false, false, .lane 1 false, 0, .no, (), (), ()⟩) s (fun t => grp t (fun g => !g.qreg 0)) &&
      meets s (fun x => x.active (.lane 0 false) == 8 && x.active (.lane 1 false) == 0))
      (onGroup (fun g => (g.setV 0 62 7).setPreds 0 (BitVec.allOnes 64) 8) (solo 0)) = true := by decide

/-- The width is a power of two. -/
theorem hyps_LaneReductions :
    meets (solo 0) (fun x => x.w == 2 ^ 6) = true ∧
    after (.clRed ⟨false, false, .lane 0 false, .reg (.s 5), 0, (), (), .add⟩)
      (onGroup (fun g => ((g.setV 0 62 7).setV 0 3 9).setPreds 0 (BitVec.allOnes 64) 8) (solo 0))
      (fun t => grp t (fun g => g.sreg 5 == 9)) = true := by decide

/-- A twin launch on the first of two groups, the other on the odd core: not twin; retired; no exchange yet; one exchange. -/
def twinned (n : Nat) (gone : Bool) (s : State) : State :=
  let s := onEntry (fun e => { e with body := { e.body with twin := true, tdx := 128 } }) s
  match SMap.find? s.groups 3 with
  | some g => { s.setGroup 5 { g with idx := 1, core := 1, shtlCount := n, retired := gone } with nextId := 6 }
  | none => s

theorem hyps_HalfExchange :
    meets (solo 0) (fun x => !x.e.body.twin) = true ∧
    meets (twinned 0 true (solo 0)) (fun x => x.e.body.twin && x.partner.isNone) = true ∧
    meets (twinned 0 false (solo 0)) (fun x => x.partner.any (fun h => h.1 == 5 && decide (h.2.shtlCount ≤ x.g.shtlCount) &&
      decide (SMap.find? x.s.groups h.1 = some h.2))) = true ∧
    meets (twinned 1 false (solo 0)) (fun x => x.partner.any (fun h => h.1 == 5 && decide (x.g.shtlCount < h.2.shtlCount))) = true ∧
    after (.clShtl ⟨false, false, .always, .reg 0, 1, (), (), ()⟩) (solo 0) (fun t => arm t (fun p => decide (p.wait = .stopped))) = true := by
  decide

/-- The fold word of the last plane that fits: 64 lanes, 256 registers of four-byte elements; one past each limit. -/
theorem hyps_Folding :
    (0x2003B : Nat) < 2 ^ 28 ∧ foldOk 0x3 64 = true ∧ foldOk 0x1B 64 = true ∧ foldOk 0x3F 64 = false ∧
    foldOk (0x20000 + 8 * 64) 64 = true ∧ foldOk (0x20000 + 9 * 64) 64 = false ∧ foldOk 0x10000000 64 = false ∧
    ([Axis.x, .y, .s0, .s1].all fun a => decide ((⟨7, 7, 0, 0⟩ : Coord).get a < (FoldWord.of 0x1B).extent a)) = true ∧
    after (.fdSet ⟨false, false, .always, 7, .s 0, (), (), ()⟩) (onGroup (fun g => g.setS 0 0x1B) (solo 0))
      (fun t => grp t (fun g => g.fold 7 == 0x1B)) = true ∧
    after (.fdSet ⟨false, false, .always, 7, .s 0, (), (), ()⟩) (onGroup (fun g => g.setS 1 1) (solo 0))
      (fun t => arm t (fun p => decide (p.wait = .stopped)) && grp t (fun g => g.fold 7 == 0)) = true := by decide

/-- Plane words: no active lane; an odd register of 8-byte elements; their own check; a register past REGCNT; and one that
completes: PL.SHF toward lower x across a plane of 8 columns. -/
theorem hyps_PlaneWords :
    (fun s : State =>
      meets s (fun x => foldOk (x.g.fold 1) x.w && foldOk (x.g.fold 2) x.w && x.active (.lane 1 false) == 0 &&
        (FoldWord.of (x.g.fold 2)).ew == 3 && decide ((FoldWord.of (x.g.fold 1)).extent .x ≤ 8) &&
        (FoldWord.of (x.g.fold 1)).gx == (FoldWord.of (x.g.fold 1)).gy && (FoldWord.of (x.g.fold 3)).gx != (FoldWord.of (x.g.fold 3)).gy &&
        decide (x.regs < 255 + (FoldWord.of (x.g.fold 2)).nreg) && (FoldWord.of (x.g.fold 1)).ew == 2) &&
      after (.plShf ⟨false, false, .always, 4, 0, 1, .x, true, 1, .zero, ()⟩) s
        (fun t => grp t (fun g => g.vreg 4 0 == 5 && g.vreg 4 7 == 0 && g.vreg 4 1 == 0)) &&
      after (.plSpr ⟨false, false, .always, 4, 0, 1, .x, false, 8, .own, ()⟩) s (fun t => arm t (fun p => decide (p.wait = .stopped))) &&
      after (.plFld ⟨false, false, .always, 4, 0, 1, .x, false, 0, .own, ⟨.i, .add⟩⟩) s (fun t => grp t (fun g => g.vreg 4 6 == 11)))
      (onGroup (fun g => (((((g.setFold 1 0x2001B).setFold 2 0x3001B).setFold 3 0x20003).setV 0 1 5).setV 0 8 9).setV 0 7 6) (solo 0)) = true := by
  decide

/-- SI.CMP with each end of MOD's lists, and the values past them. -/
theorem hyps_UniformCompare_mod :
    (encode (.siCmp ⟨false, false, .always, 3, .s 4, .s 6, (), ⟨false, .eq⟩⟩)).any (fun w =>
      w.toNat / 2 ^ 56 % 64 == 2 && w.toNat / 2 ^ 50 % 64 == 21 &&
      [10, 15, 26, 31].all (fun m => (match decodeWord ⟨64, 256, [], 0⟩ (w + m) with | .error e => decide (e = .illegalInstruction) | _ => false)) &&
      [(9, (⟨false, .uge⟩ : SiCond)), (25, ⟨true, .uge⟩)].all (fun m =>
        match decodeWord ⟨64, 256, [], 0⟩ (w + BitVec.ofNat 64 m.1) with | .ok (.siCmp y) => decide (y.mod = m.2) | _ => false)) = true := by
  decide

/-! Accesses. -/

/-- The clauses of Checks: misaligned, outside the address space, not translated, refused, a derived page, and an access that passes. -/
theorem hyps_Loads :
    numbered (mapped (solo 0)) = true ∧
    meets (mapped (addressed 0x1FFFC (solo 0))) (fun x => allowed x 4 .read false anyTarget [(0, 0x1FFFC)] &&
      (x.s.core x.g.core).loads.isEmpty) = true ∧
    meets (mapped (solo 0)) (fun x => (0x1FFFD : DWord).toNat % 4 != 0 && x.outside (BitVec.ofNat 64 (2 ^ 57)) &&
      !x.outside 0x1FFFC && (match x.translate 0x20000 .read with | .miss _ => true | _ => false) && (x.refusedAt 0x20000).isNone) = true ∧
    after (.ld ⟨false, false, .always, none, 8, .s 1, .u (.nat 0), .b32, 0⟩) (mapped (addressed 0x1FFFC (laneZero (solo 0))))
      (fun t => t.reqs.any (fun e => e.1 == 5 && decide (e.2.op = .read 4) && decide (e.2.tgt = .dev 0x20000000FFFC))) = true ∧
    after (.ldu ⟨false, false, .always, none, 8, 1, .nat 0, .b64, 1⟩) (mapped (addressed 0x10000 (solo 0)))
      (fun t => t.reqs.any (fun e => e.1 == 5 && decide (e.2.op = .read 8) && decide (e.2.tgt = .dev 0x200000000008))) = true := by
  decide

/-- A page without write permission refuses; the data of each size. -/
theorem hyps_Stores :
    numbered (mapped (solo 0)) = true ∧
    meets (mapped (solo 0)) (fun x => allowed x 16 .write true anyTarget [(0, 0x1FFF0)]) = true ∧
    meets { solo 0 with tlb := [⟨0, 0, 0, ⟨0, 0, 0x200000000000, 12, false, false, false, false, false, 0⟩⟩] } (fun x =>
      (x.denied .write anyTarget 0xFF0).isSome && !x.outside 0xFF0) = true ∧
    after (.st ⟨false, false, .always, none, .u (.neg 0), .s 1, .u (.nat 0), .b16, 0x1FFF⟩) (mapped (addressed 0x10002 (laneZero (solo 0))))
      (fun t => t.reqs.any (fun e => decide (e.2.op = .write [0xE0, 0xFF] [false, false]) && decide (e.2.tgt = .dev 0x200000000000))) = true ∧
    after (.stu ⟨false, false, .always, some .dev, .nat 5, 1, .nat 0, .b8, 0⟩) (mapped (addressed 0x1FFFF (solo 0)))
      (fun t => t.reqs.any (fun e => decide (e.2.op = .write [5] [false]))) = true := by decide

/-- No active lane; an odd register; a register beyond REGCNT; a short pitch; a misaligned base; and a plane that passes. -/
theorem hyps_PlaneAccesses :
    (fun s : State => numbered s && meets s (fun x => foldOk (x.g.fold 1) x.w && foldOk (x.g.fold 2) x.w &&
        (FoldWord.of (x.g.fold 2)).ew == 3 && decide (x.regs < 255 + (FoldWord.of (x.g.fold 2)).nreg) &&
        x.active (.lane 1 false) == 0 && (x.g.sreg 5).toNat == 31 && (2 ^ 3 * (FoldWord.of (x.g.fold 1)).ewb) == 32) &&
      after (.ldp ⟨false, false, .always, none, 9, 1, .nat 0, 1, 0⟩) s
        (fun t => t.reqs.length == 64 && t.reqs.any (fun e => decide (e.2.tgt = .dev 0x2000000000FC))) &&
      after (.ldp ⟨false, false, .always, none, 9, 1, .nat 0, 2, 0⟩) s (fun t => arm t (fun p => decide (p.wait = .stopped))) &&
      after (.ldp ⟨false, false, .always, none, 9, 1, .s 5, 1, 0⟩) s (fun t => arm t (fun p => decide (p.wait = .stopped))))
      (mapped (addressed 0x10000 (onGroup (fun g => ((g.setFold 1 0x2001B).setFold 2 0x3001B).setS 5 31) (solo 0)))) = true := by decide

/-- An atomic that passes, and one to a host page, which is denied. -/
theorem hyps_Atomics :
    numbered (mapped (solo 0)) = true ∧
    meets (mapped (solo 0)) (fun x => allowed x 64 .write true anyTarget [(0, 0x1FFC0)]) = true ∧
    meets { solo 0 with tlb := [⟨0, 0, 0x10000, ⟨2, 0, 0, 16, false, false, true, true, true, 0⟩⟩] } (fun x =>
      (x.denied .write (fun t => match t with | .host _ => true | _ => false) 0x10000).isSome) = true ∧
    after (.atCas ⟨false, false, .always, none, 8, .s 1, .u (.nat 3), false, 0⟩)
      (mapped (addressed 0x10004 (laneZero (onGroup (fun g => g.setV 8 0 9) (solo 0)))))
      (fun t => t.reqs.any (fun e => decide (e.2.op = .atomic .cas false 3 9 0))) = true := by decide

set_option exponentiation.threshold 1024 in
/-- Old bytes of 4, 8 and 64; a compare that fails; an exact-sum cell that takes 1.0 and reads it back. -/
theorem hyps_AtomicSteps :
    (ReqOp.atomic .cas false 1 2 0).atomicStep [3, 0, 0, 0] = (none, [3, 0, 0, 0]) ∧
    (ReqOp.atomic .max true (BitVec.allOnes 64) 0 0).atomicStep [5, 0, 0, 0, 0, 0, 0, 0]
      = (some [5, 0, 0, 0, 0, 0, 0, 0], [5, 0, 0, 0, 0, 0, 0, 0]) ∧
    (match ((ReqOp.xadd .f32 0x3F800000).atomicStep (List.replicate 64 0)).1 with
      | some b => decide (b.length = 64) && decide ((ReqOp.xrd true).atomicStep b = (some (List.replicate 64 0), [0, 0, 0x80, 0x3F]))
      | none => false) = true := by decide

/-! SN and TK. -/

/-- A fence with an earlier load in flight; an acquire wider than a group; a full and an empty hold. -/
theorem hyps_Fences :
    (fun s : State => meets s (fun x => x.guardOn .always && x.s.reqs.any (fun e => e.2.value.isNone && e.2.path == .l && e.2.grp == x.gid &&
        (e.2.lanes &&& x.p.mask) != 0)) &&
      after (.snFence ⟨false, false, .always, (), (), ⟨true, false, .team⟩⟩) s (fun t => arm t (fun p => p.acquires.length == 1)) &&
      after (.snXf ⟨false, false, .always, (), (), ⟨⟨true, false, false, false, false⟩, ⟨true, true, true, true, true⟩⟩⟩) s
        (fun t => grp t (fun g => g.xf.length == 1)) &&
      after (.snXf ⟨false, false, .always, (), (), ⟨⟨false, false, false, true, false⟩, ⟨true, true, true, true, true⟩⟩⟩) s
        (fun t => grp t (fun g => g.xf.isEmpty)))
      (match exec (.ldu ⟨false, false, .always, none, 8, 1, .nat 0, .b32, 0⟩) (mapped (addressed 0x10000 (solo 0))) with
        | .next t => t
        | _ => State.reset) = true := by decide

/-- SN.BINIT at 65,535 and one above; an arrival that flips and one that waits; SN.BARW in both phases. -/
theorem hyps_Barriers :
    (fun s : State => meets s (fun x => x.guardOn .always && decide (x.p.wait = .none)) &&
      after (.snBinit ⟨false, false, .always, (), .s 0, 15⟩) s (fun t => (SMap.find? t.teams 2).any (fun u => (u.bar 15).expected == 65535)) &&
      after (.snBinit ⟨false, false, .always, (), .s 1, 15⟩) s (fun t => arm t (fun p => decide (p.wait = .stopped))) &&
      after (.snBar ⟨false, false, .always, (), (), ⟨false, 0⟩⟩) s (fun t => arm t (fun p => decide (p.wait = .none))) &&
      after (.snBar ⟨false, false, .always, (), (), ⟨false, 1⟩⟩) (s.modTeam 2 (fun u => u.setBar 1 ⟨2, 0, false, false, [], false⟩))
        (fun t => arm t (fun p => decide (p.wait = .barrier 1 false))) &&
      after (.snBarw ⟨false, false, .always, (), .nat 0, 0⟩) s (fun t => arm t (fun p => decide (p.wait = .barrier 0 false))) &&
      after (.snBarw ⟨false, false, .always, (), .nat 1, 0⟩) s (fun t => arm t (fun p => decide (p.wait = .none))))
      (onGroup (fun g => (g.setS 0 65535).setS 1 65536) (solo 0)) = true := by decide

/-- The monitor: unarmed, with a pending wake, under a timeout of 0, of 1, and without limit. Tags: COUNT 0 and not; a stamp that
waits for what it covers. -/
theorem hyps_MonitorsAndTags :
    (fun s : State => meets (mapped (addressed 0x1FFFF s)) (fun x => x.guardOn .always && allowed x 1 .read false
        (fun t => match t with | .host _ => true | .peer _ _ => true | _ => false) [(0, 0x1FFFF)]) &&
      after (.snMarm ⟨false, false, .always, (), 1, ()⟩) (mapped (addressed 0x1FFFF s))
        (fun t => grp t (fun g => decide (g.monitor = ⟨some (.dev 0x20000000FF80), false⟩))) &&
      after (.snMwait ⟨false, false, .always, 5, .nat 1, ()⟩) s (fun t => grp t (fun g => g.sreg 5 == 1)) &&
      after (.snMwait ⟨false, false, .always, 5, .nat 1, ()⟩) (onGroup (fun g => { g with monitor := ⟨some (.dev 0), true⟩ }) s)
        (fun t => grp t (fun g => g.sreg 5 == 0 && !g.monitor.wake)) &&
      after (.snMwait ⟨false, false, .always, 5, .nat 0, ()⟩) (onGroup (fun g => { g with monitor := ⟨some (.dev 0), false⟩ }) s)
        (fun t => grp t (fun g => g.sreg 5 == 1)) &&
      after (.snMwait ⟨false, false, .always, 5, .neg 31, ()⟩) (onGroup (fun g => { g with monitor := ⟨some (.dev 0), false⟩ }) s)
        (fun t => arm t (fun p => decide (p.wait = .monitor 5 none))) &&
      after (.snMwait ⟨false, false, .always, 5, .nat 1, ()⟩) (onGroup (fun g => { g with monitor := ⟨some (.dev 0), false⟩ }) s)
        (fun t => arm t (fun p => decide (p.wait = .monitor 5 (some 1)))))
      (solo 0) = true := by decide

/-- TK.WAIT at COUNT 0 and 1; TK.CAN of a stamp that waits for a copy. -/
theorem hyps_TagWords :
    (fun s : State => meets s (fun x => (x.g.tag 0).count == 0 && (x.g.tag 1).count == 1) && decide ((s.ops.map (·.1)).Nodup) &&
      after (.tkWait ⟨false, false, .always, (), 1, (), (), ()⟩) s (fun t => arm t (fun p => p.pc == 8)) &&
      after (.tkCan ⟨false, false, .always, (), 1, (), (), ()⟩) s (fun t => t.ops.isEmpty && grp t (fun g => g.tag 1 == ⟨0, 3, true⟩)))
      (match exec (.cpStamp ⟨false, false, .always, 1, some 2, 1, .nat 5, (), false⟩) (onGroup (fun g => g.setTag 2 ⟨1, 0, false⟩) (solo 0)) with
        | .next t => t
        | _ => State.reset) = true := by decide

/-! CP, MX, AX, FB. Each clause at the edge of its range. -/

theorem hyps_CopyWords :
    (fun s : State => numbered s && meets s (fun x => x.guardOn .always && x.active (.lane 9 false) == 0) &&
      after (.cpLane ⟨false, false, .always, 1, none, .s 1, .s 1, .u (.nat 32), .b32⟩) (counted 254 (laneZero s)) queues &&
      after (.cpLane ⟨false, false, .always, 1, none, .s 1, .s 1, .u (.nat 32), .b32⟩) (counted 255 (laneZero s)) stalls &&
      after (.cpLane ⟨false, false, .always, 1, none, .s 1, .s 1, .u (.nat 32), .b32⟩) (addressed 16 (laneZero s)) (faultIs .misaligned) &&
      after (.cpLane ⟨false, false, .always, 1, none, .s 1, .s 1, .u (.nat 32), .b32⟩) (addressed beyondTop (laneZero s)) (faultIs .address) &&
      after (.cpBulk ⟨false, false, .always, 1, none, 1, 1, .s 4, false⟩) (words [4] (counted 254 s)) queues &&
      after (.cpBulk ⟨false, false, .always, 1, none, 1, 1, .s 4, false⟩) (words [0x1000000] (counted 255 s)) stalls &&
      after (.cpBulk ⟨false, false, .always, 1, none, 1, 1, .s 4, false⟩) (words [0x1000004] s) (faultIs .illegalOperand) &&
      after (.cpBulk ⟨false, false, .always, 1, none, 1, 1, .s 4, true⟩) (words [4, 0x10000, 4, 6] s) (faultIs .misaligned) &&
      meets (words [0x1000000, 0x10000, 4, 4] s) (fun x => decide ((x.g.sreg 4).toNat ≤ 2 ^ 24) && decide ((x.g.sreg 5).toNat ≤ 2 ^ 16) &&
        !x.outside (BitVec.ofNat 64 (0xFFFF * 4 + 0x1000000 - 1)) && !x.outside 0) &&
      after (.cpBulk ⟨false, false, .always, 1, none, 1, 1, .s 4, true⟩) (words [4, 1, 4, 4] s) queues &&
      after (.cpBulk ⟨false, false, .always, 1, none, 1, 1, .s 4, true⟩) (words [4, 0x10001, 4, 4] s) (faultIs .illegalOperand) &&
      after (.cpBulk ⟨false, false, .always, 1, none, 1, 1, .nat 4, false⟩) (addressed beyondTop s) (faultIs .address))
      (solo 0) = true := by decide

theorem hyps_CopyWords_stamps :
    (fun s : State =>
      after (.cpStamp ⟨false, false, .always, 1, none, 1, .nat 5, (), false⟩) (addressed 4 s) (faultIs .misaligned) &&
      after (.cpStamp ⟨false, false, .always, 1, none, 1, .nat 5, (), false⟩) (addressed 8 s) queues &&
      after (.cpArrv ⟨false, false, .always, 1, none, .s 1, .nat 15, (), ()⟩) s queues &&
      after (.cpArrv ⟨false, false, .always, 1, none, .s 1, .nat 16, (), ()⟩) s (faultIs .illegalOperand))
      (solo 0) = true := by decide

/-- CP.MCAST: sizes, offsets and counts at their ends, with and without a stamp, its table absent, under way, poisoned and there. -/
theorem hyps_Multicast :
    (fun (s : State) (w : FmtX (Fin 32) (Fin 16) (Fin 32) Unit) =>
      numbered s && meets s (fun x => x.guardOn .always) &&
      after (.cpMcast w) (words [65536, 0, 1, 0xFFFFFFFF] (counted 255 s)) stalls &&
      after (.cpMcast w) (words [65540, 0, 1, 0xFFFFFFFF] s) (faultIs .illegalOperand) &&
      after (.cpMcast w) (words [4, 2, 1, 0xFFFFFFFF] s) (faultIs .misaligned) &&
      after (.cpMcast w) (words [4, 4, 65, 0xFFFFFFFF] s) (faultIs .illegalOperand) &&
      after (.cpMcast w) (words [4, 4, 64, 12] s) (faultIs .misaligned) &&
      after (.cpMcast w) (words [4, 4, 1, 8] (addressed 2 s)) (faultIs .misaligned) &&
      after (.cpMcast w) (words [4, 4, 1, 8] (mapped (onGroup (fun g => g.setSpair 12 0x10000) s)))
        (fun t => t.ops.isEmpty && !t.reqs.isEmpty && arm t (fun p => p.pc == 0 && p.tables.length == 1)) &&
      after (.cpMcast w) (words [4, 4, 1, 8] (tabled 0 (List.replicate 12 1) s)) queues &&
      meets (words [65536, 4, 64, 0xFFFFFFFF] s) (fun x => decide ((x.g.sreg 4).toNat ≤ 65536) && (x.g.sreg 7) == 0xFFFFFFFF) &&
      after (.cpMcast w) (words [4, 4, 1, 0xFFFFFFFF] (tabled 0 (List.replicate 12 1) s)) queues)
      (solo 0) ⟨false, false, .always, 1, none, 1, 1, 6, ()⟩ = true := by decide

/-- MX: a window that holds the rows and one that starts a row late, a superscale register that is no even register, registers
within and past REGCNT, a tag that is full, tiles misaligned, past the scratchpad and within it. -/
theorem hyps_MatrixWords :
    (fun s : State => numbered s && meets (windowed 8 72 s) (fun x => x.guardOn .always && decide (x.g.abase ≤ 8) && decide (8 + 64 ≤ x.g.alimit) &&
        decide ((x.g.tag 1).count < 255) && decide (0 + (fragA x.w .e4m3).nreg ≤ x.regs) && decide (16 + (fragB x.w .e4m3).nreg ≤ x.regs)) &&
      after (.mxMma ⟨false, false, .always, 1, none, 0, 16, .nat 8, .e4m3⟩) (windowed 9 72 s) (faultIs .accWindow) &&
      after (.mxMma ⟨false, false, .always, 1, none, 0, 16, .nat 8, .e4m3⟩) (windowed 8 72 (counted 255 s)) stalls &&
      after (.mxMma ⟨false, false, .always, 1, none, 0, 16, .s 9, .nq4⟩) (windowed 0 64 s) (faultIs .illegalOperand) &&
      after (.mxMma ⟨false, false, .always, 1, none, 255, 16, .nat 0, .bf16⟩) (windowed 0 64 s) (faultIs .registerRange) &&
      after (.mxMmas ⟨false, false, .always, 1, none, .nat 4, 16, .nat 0, .e4m3⟩) (windowed 0 64 s) (faultIs .misaligned) &&
      after (.mxMmas ⟨false, false, .always, 1, none, .nat 0, 16, .nat 0, .e4m3⟩) (windowed 0 64 s) (faultIs .address) &&
      meets (onEntry (fun e => { e with body := { e.body with spad := 1 } }) s) (fun x => decide (2048 ≤ x.e.body.spadBytes)) &&
      after (.mxZero ⟨false, false, .always, 1, none, (), (), .nat 0, ()⟩) (windowed 0 64 s) queues &&
      after (.mxZero ⟨false, false, .always, 1, none, (), (), .nat 1, ()⟩) (windowed 0 64 s) (faultIs .accWindow))
      (solo 0) = true := by decide

/-- AX: rows in and past the window; a group that is not the first; a plane of the wrong shape, and one at and past REGCNT. -/
theorem hyps_MatrixWords_rows :
    (fun s : State =>
      after (.axWin ⟨false, false, .always, (), .neg 31, .nat 0, .nat 63, ()⟩) s (faultIs .illegalOperand) &&
      after (.axWin ⟨false, false, .always, (), .neg 31, .nat 0, .nat 63, ()⟩)
        (onEntry (fun e => { e with body := { e.body with acc := 1 } }) s) (fun t => grp t (fun g => g.alimit == 63)) &&
      after (.axWin ⟨false, false, .always, (), .neg 31, .nat 0, .nat 63, ()⟩) (onGroup (fun g => { g with idx := 1 }) s)
        (faultIs .illegalInstruction) &&
      after (.axChk ⟨false, false, .always, 1, none, (), .nat 0, .nat 1, ()⟩) (windowed 0 1 s) queues &&
      after (.axChk ⟨false, false, .always, 1, none, (), .nat 0, .nat 0, ()⟩) (windowed 0 1 s) (faultIs .accWindow) &&
      after (.axDrn ⟨false, false, .always, 1, none, 0, .nat 0, .nat 8, ⟨false, false, 0, .f32⟩⟩) (windowed 0 8 s) (faultIs .foldInvalid) &&
      after (.axDrn ⟨false, false, .always, 1, none, 248, .nat 0, .nat 8, ⟨false, false, 1, .f32⟩⟩)
        (windowed 0 8 (onGroup (fun g => g.setFold 1 0x200DB) s)) queues &&
      after (.axDrn ⟨false, false, .always, 1, none, 249, .nat 0, .nat 8, ⟨false, false, 1, .f32⟩⟩)
        (windowed 0 8 (onGroup (fun g => g.setFold 1 0x200DB) s)) (faultIs .registerRange))
      (solo 0) = true := by decide

/-! FB, BR, SY, DV, IC. -/

/-- Two packages in the domain. -/
def paired (s : State) : State := { s with domsize := 2 }
/-- FB.PUT of lane 0 with control word s4 from and to s2:s3. -/
def putWord (st : Bool) : Instr := .fbPut ⟨false, false, .always, 1, none, .s 1, .s 1, .u (.s 4), ⟨st, false, false⟩⟩

/-- No lane contributing; a full tag; no peer; a size that is no multiple of four; past the top; a stamp of other than eight bytes, and
one at an address that is no multiple of eight; and a word that queues. A map and a combine record that pass, each with its tables there. -/
theorem hyps_FabricWords :
    (fun s : State => numbered s &&
      after (putWord false) (words [1] s) (fun t => arm t (fun p => p.pc == 8) && t.ops.isEmpty) &&
      after (putWord false) (words [0x4001] (counted 255 s)) stalls &&
      after (putWord false) (words [0x4002] s) (faultIs .fabric) &&
      after (putWord false) (words [0x2001] s) (faultIs .misaligned) &&
      after (putWord false) (words [0x4001] (addressed (2 ^ 57 - 3) s)) (faultIs .misaligned) &&
      after (putWord false) (words [0x8001] (addressed (2 ^ 57 - 4) s)) (faultIs .address) &&
      after (putWord true) (words [0x4001] s) (faultIs .illegalOperand) &&
      after (putWord true) (words [0x8001] (addressed 4 s)) (faultIs .misaligned) &&
      after (putWord true) (words [0x8001] (counted 254 s)) queues &&
      after (.fbArrv ⟨false, false, .always, 1, none, .nat 1, .nat 0, .nat 15, ()⟩) s queues &&
      after (.fbArrv ⟨false, false, .always, 1, none, .nat 1, .nat 0, .nat 16, ()⟩) s (faultIs .illegalOperand) &&
      after (.fbArrv ⟨false, false, .always, 1, none, .nat 2, .nat 0, .nat 0, ()⟩) s (faultIs .fabric))
      (paired (laneZero (solo 0))) = true := by decide

set_option exponentiation.threshold 1024 in
theorem hyps_FabricWords_tables :
    mapOk (2 + 2 ^ 8 + 2 ^ 128 + 2 ^ 160 + 2 ^ 192 + 2 ^ 224 + 2 ^ 256 + 2 ^ 272 + 2 ^ 288 + 2 ^ 304 + 2 ^ 320 + 2 ^ 336 + 2 ^ 352 + 2 ^ 368)
      1 0 = true ∧ mapOk 0 1 0 = false ∧
    cmbOk (1 + 2 ^ 32 + 2 ^ 64 + 4 * 2 ^ 96) = true ∧ cmbOk 0 = false ∧
    slotsOk (1 + 2 ^ 32 + 2 ^ 64 + 4 * 2 ^ 96) 2 ([1] ++ List.replicate 15 0) = true ∧
    slotsOk (1 + 2 ^ 32 + 2 ^ 64 + 4 * 2 ^ 96) 2 ([2] ++ List.replicate 15 0) = false ∧
    after (.fbAta ⟨false, false, .always, 1, none, 1, (), (), ()⟩) (tabled 0 (List.replicate 128 0) (solo 0)) (faultIs .recordInvalid) = true ∧
    after (.fbCmb ⟨false, false, .always, 1, none, 1, (), (), ()⟩) (tabled 0 (List.replicate 64 0) (solo 0)) (faultIs .recordInvalid) = true := by
  decide

/-- A split of the path: p9 holds in lane 0 alone. -/
def splitting (m : Lanes) (s : State) : State := onGroup (fun g => g.setPreds 9 (BitVec.allOnes 64) m) s
/-- BR.BRV to the word 4 on, join at the word 6 on. -/
def branchWord (join : BitVec 16) : Instr := .brBrv ⟨false, false, .lane 9 false, 0, 4, join⟩

/-- Uniform branches: with a pending join and without, to an address that is no multiple of 8, past the table. BRV: no lane; every
lane; JOIN16 0; an undivided slice that divides; an arm that splits; whole slices that part. -/
theorem hyps_Branches :
    (fun s : State => meets s (fun x => x.guardOn .always) && s.paths.all (fun e => decide (e.1 < s.nextId)) &&
      meets s (fun x => (x.g.joinOf x.p).isNone) &&
      meets (onArm (fun p => { p with frames := [⟨64, 0, [], 0, 0, 0⟩] }) s) (fun x => decide (x.g.joinOf x.p = some 64)) &&
      after (.brBra ⟨false, false, .always, 0, 0xFFFFFF, 0⟩) s (fun t => arm t (fun p => p.pc == BitVec.ofInt 64 (-8))) &&
      after (.brRet ⟨false, false, .always, (), 1, (), (), ()⟩) (addressed 4 s) (faultIs .misaligned) &&
      after (.brRet ⟨false, false, .always, (), 1, (), (), ()⟩) (addressed 8 s) (fun t => arm t (fun p => p.pc == 8)) &&
      after (.brBrx ⟨false, false, .always, (), .nat 5, 1, .nat 5, ()⟩) s (fun t => arm t (fun p => p.pc == 8)) &&
      after (.brBrx ⟨false, false, .always, (), .nat 4, 1, .nat 5, ()⟩) (addressed 2 s) (faultIs .misaligned) &&
      after (.brBrx ⟨false, false, .always, (), .nat 4, 1, .nat 5, ()⟩) (tabled 16 [0xFF, 0xFF, 0xFF, 0xFF] s)
        (fun t => arm t (fun p => p.pc == BitVec.ofInt 64 (-8))) &&
      after (branchWord 6) (splitting 0 s) (fun t => arm t (fun p => p.pc == 8)) &&
      after (branchWord 6) (splitting (BitVec.allOnes 64) s) (fun t => arm t (fun p => p.pc == 32)) &&
      after (branchWord 0) (splitting 1 s) (fun t => arm t (fun p => p.pc == 32)) &&
      after (branchWord 6) (splitting 1 s) (fun t => t.paths.length == 3 && grp t (fun g => g.tops.length == 1)) &&
      after (branchWord 6) (splitting 0xF s) (fun t => t.paths.length == 2 && grp t (fun g => g.tops.isEmpty && g.key 0 == 1 && g.key 1 == 0)) &&
      after (branchWord 6) (splitting 1 (onArm (fun p => { p with frames := [⟨64, 0, [], 0, 0, 0⟩] }) s))
        (fun t => t.paths.length == 1 && arm t (fun p => p.mask == 1 && p.frames.length == 2)))
      (solo 0) = true := by decide

/-- Paths 4 and 5 are the two arms of slice 0, lanes 0 and 1 to 3; the rest of the group has exited. -/
def armed (a b : Wait) (s : State) : State :=
  let s := onGroup (fun g => { g with exited := 0xFFFFFFFFFFFFFFF0, tops := [(0, ⟨64, 0, 0, 0, 0⟩)] }) (onArm (fun p => { p with mask := 1, exec := 1, wait := a }) s)
  match SMap.find? s.paths 4 with
  | some p => { s.setPath 5 { p with mask := 14, exec := 14, wait := b } with nextId := 6 }
  | none => s

/-- Two arms at their join; one of them not; a regang word that releases its slice; one that names a slice that waits elsewhere. -/
theorem hyps_JoinsAndRegangs :
    (fun s : State => decide ((s.armsAt 3 0).map (·.1) = [4, 5]) && decide ((s.mergeTop 3 0).paths.map (·.1) = [4])) (armed .join .join (solo 0)) = true ∧
    (fun s : State => decide ((s.mergeTop 3 0).paths.map (·.1) = [4, 5])) (armed .join .none (solo 0)) = true ∧
    (fun s : State => meets s (fun x => x.guardOn .always) && s.groups.all (fun e => (List.range 16).all fun j => decide (e.2.key j ≤ 65535)) &&
      decide ((s.paths.map (·.1)).Nodup) &&
      after (.brRegang ⟨false, false, .always, (), .nat 0, (), (), ()⟩) s (fun t => arm t (fun p => p.pc == 8 && decide (p.wait = .none))))
      (solo 0) = true ∧
    (fun s : State => (s.regangCheck 3).entries.any (fun e => e.2.faults.any (fun f => decide (f.code = .rejoinCycle))))
      (armed (.regang 0 0) .join (solo 0)) = true ∧
    (fun s : State => (s.regangCheck 3).entries.all (fun e => e.2.faults.isEmpty)) (armed (.regang 0 0) .none (solo 0)) = true := by decide

/-- BR.CALLV: no active lane; a misaligned entry; a target that is no multiple of 8; a call whole; two classes in slice 0, lanes 1 to
3 at the lower lane's class first (10 R187). -/
theorem hyps_LaneCall :
    (fun s : State => meets s (fun x => x.guardOn .always && x.active (.lane 9 false) == 0) && s.paths.all (fun e => decide (e.1 < s.nextId)) &&
      after (.brCallv ⟨false, false, .always, 5, .s 1, (), (), ()⟩) (mapped (addressed 0x10004 s)) (faultIs .misaligned) &&
      after (.brCallv ⟨false, false, .always, 5, .s 1, (), (), ()⟩) (tabled 0x10000 [4, 0, 0, 0, 0, 0, 0, 0] (mapped (addressed 0x10000 s))) (faultIs .misaligned) &&
      after (.brCallv ⟨false, false, .always, 5, .s 1, (), (), ()⟩) (tabled 0x10000 [64, 0, 0, 0, 0, 0, 0, 0] (mapped (addressed 0x10000 s)))
        (fun t => arm t (fun p => p.pc == 64 && p.entry == 0x10000) && grp t (fun g => g.spair 10 == 8)))
      (solo 0) = true ∧
    after (.brCallv ⟨false, false, .always, 5, .v 0, (), (), ()⟩)
      (tabled 0x10000 [128, 0, 0, 0, 0, 0, 0, 0] (tabled 0x10008 [64, 0, 0, 0, 0, 0, 0, 0] (mapped
        (onArm (fun p => { p with mask := 15, exec := 15 }) (onGroup (fun g =>
          { ((((g.setV 0 0 0x10008).setV 0 1 0x10000).setV 0 2 0x10000).setV 0 3 0x10008) with exited := 0xFFFFFFFFFFFFFFF0 }) (solo 0))))))
      (fun t => t.paths.any (fun e => e.2.mask == 9 && e.2.pc == 64 && e.2.entry == 0x10008)) = true := by decide

/-- SY: an exit of some lanes and of none; debug enabled and not, on a resident team; fields at and past their width. -/
theorem hyps_GroupAndPathWords :
    (fun s : State => meets s (fun x => x.guardOn .always && decide (x.t.place = .resident) && !x.t.halted) &&
      after (.syExit ⟨false, false, .lane 9 false, (), (), ()⟩) s (fun t => grp t (fun g => g.exited == 0)) &&
      after (.syExit ⟨false, false, .lane 9 true, (), (), ()⟩) (splitting 1 s) (fun t => grp t (fun g => g.exited == BitVec.allOnes 64 - 1)) &&
      after (.syBkpt ⟨false, false, .always, (), (), ()⟩) s (fun t => !(t.fn 0).dbgValid) &&
      after (.syBkpt ⟨false, false, .always, (), (), ()⟩) { s with fns := [(0, { Fn.zero with debug := true })] } (fun t => (t.fn 0).dbgValid) &&
      after (.sySets ⟨false, false, .always, (), .s 0, ()⟩) (onGroup (fun g => g.setS 0 127) s) (fun t => arm t (fun p => p.fstat == 127)) &&
      after (.sySets ⟨false, false, .always, (), .s 0, ()⟩) (onGroup (fun g => g.setS 0 128) s) (faultIs .illegalOperand) &&
      after (.sySfmt ⟨false, false, .always, (), .nat 63, ()⟩) s (fun t => arm t (fun p => p.fmt == 63)) &&
      after (.sySfmt ⟨false, false, .always, (), .s 0, ()⟩) (onGroup (fun g => g.setS 0 64) s) (faultIs .illegalOperand) &&
      after (.sySleep ⟨false, false, .always, (), .nat 0, ()⟩) s (fun t => arm t (fun p => decide (p.wait = .none))) &&
      after (.sySleep ⟨false, false, .always, (), .nat 1, ()⟩) s (fun t => arm t (fun p => decide (p.wait = .sleep 1))))
      (solo 0) = true := by decide

/-- A handler at 64. -/
def handled (s : State) : State := onEntry (fun e => { e with body := { e.body with trappc := 64 } }) s

/-- SY.TRAP: no active lane; no handler; in the handler already; the handler taken by another path; entered. SY.TRET outside, to an
address that is no multiple of 8, and back. -/
theorem hyps_Traps :
    (fun s : State => meets s (fun x => x.active (.lane 9 false) == 0 && decide (x.p.wait = .none)) &&
      after (.syTrap ⟨false, false, .always, (), .nat 5, true⟩) s (faultIs .bind) &&
      after (.syTrap ⟨false, false, .always, (), .nat 5, false⟩) (onArm (fun p => { p with inHandler := true }) (handled s)) (faultIs .userTrap) &&
      after (.syTrap ⟨false, false, .always, (), .nat 5, false⟩) (handled s)
        (fun t => arm t (fun p => p.pc == 64 && p.trapCode == 0x11 && p.trapArg == 5 && p.inHandler)) &&
      after (.syTrap ⟨false, false, .always, (), .nat 5, true⟩)
        ((handled s).setPath 5 { Path.start 3 soloRecord with inHandler := true }) (fun t => arm t (fun p => decide (p.wait = .handler true 5 0))) &&
      after (.syTret ⟨false, false, .always, (), .next, ()⟩) s (faultIs .illegalInstruction) &&
      after (.syTret ⟨false, false, .always, (), .s 1, ()⟩) (onArm (fun p => { p with inHandler := true }) (addressed 4 s)) (faultIs .misaligned) &&
      after (.syTret ⟨false, false, .always, (), .next, ()⟩) (onArm (fun p => { p with inHandler := true, trapPc := 24, trapQ := true }) s)
        (fun t => arm t (fun p => p.pc == 40 && !p.inHandler)))
      (solo 0) = true := by decide

/-! Derived tensors and the instruction cache. -/

/-- Eight bytes of memory, least significant first, without the zeros. -/
def stored (a v : Nat) : Memory := ((leBytes 8 v).zipIdx.map (fun x => (a + x.2, x.1))).filter (fun c => c.2 != 0)
/-- Context 0 maps pages 1 and 2 to two pages of far memory, through five levels of tables. -/
def paged (s : State) : State :=
  let t (k : Nat) : Nat := 0x200000001000 + 0x1000 * k
  { s with
    contexts := [(0, ⟨0, false, false, 0, true, t 0 / 4096⟩)]
    mem := (List.range 4).flatMap (fun k => stored (t k) (t (k + 1) + 1)) ++ stored (t 4 + 8) (0x200000010000 + 0x31) ++
      stored (t 4 + 16) (0x200000011000 + 0x31) }
/-- A record: TRN of one F32 element at 0x1000 to one at `to`. -/
def transposing (d : Nat) : Nat := 0x1000 + d * 2 ^ 128 + 2 ^ 256 + 2 ^ 288 + 128 * 2 ^ 320 + 128 * 2 ^ 352
/-- The record, with its pages. -/
def transposed : Deriv :=
  ⟨0, 0, 0, transposing 0x2000, [⟨0x1000, 0x200000010000, 12, 0x200000005008⟩], [], [⟨0x2000, 0x200000011000, 12, 0x200000005010⟩], []⟩
/-- It is registered, at handle 0. -/
def registered (s : State) : State := { s with derivs := [transposed] }
/-- Its tile is in this state. -/
def tileIs (a : TileState) (s : State) : State := { s with tiles := [⟨0, 0, a⟩] }

set_option exponentiation.threshold 1024 in
/-- DV.REG: a record that passes; one refused for its fields, one for its pages, one whose output is its base; its pages taken. -/
theorem hyps_DerivationWords :
    (fun (s : State) (w : FmtA (Fin 64) IntPair Unit Unit Unit) =>
      meets s (fun x => x.guardOn .always && numbered s) &&
      (match s.captureRecord { transposed with pagesA := [], pagesD := [] } with | .ok d => decide (d = transposed) | _ => false) && transposed.fieldsOk &&
      after (.dvReg w) (tabled 0 (leBytes 64 (transposing 0x2000)) s) (fun t => decide (t.derivs = [transposed]) &&
        grp t (fun g => g.sreg 9 == 0)) &&
      after (.dvReg w) (tabled 0 (leBytes 64 (transposing 0x2001)) s) (faultIs .recordInvalid) &&
      after (.dvReg w) (tabled 0 (leBytes 64 (transposing 0x3000)) s) (faultIs .recordInvalid) &&
      after (.dvReg w) (tabled 0 (leBytes 64 (transposing 0x1000)) s) (faultIs .recordInvalid) &&
      after (.dvReg w) (registered (tabled 0 (leBytes 64 (transposing 0x2000)) s)) (faultIs .recordInvalid) &&
      after (.dvReg w) (addressed 8 s) (faultIs .misaligned) &&
      after (.dvReg w) (mapped (addressed 0x10000 s)) (fun t => !t.reqs.isEmpty && arm t (fun p => p.pc == 0)))
      (paged (solo 0)) ⟨false, false, .always, 9, .s 1, (), (), ()⟩ = true := by decide

set_option exponentiation.threshold 1024 in
/-- The other words of DV: no record; the tile STALE, VALID and awaited; tiles within and past the record; a tag with and without room. -/
theorem hyps_DerivationWords_handles :
    (fun (s : State) (w : FmtA (Fin 64) IntSrc Unit Unit Unit) (q : FmtA (Fin 64) IntSrc IntSrc Unit Unit)
        (m : FmtX IntSrc IntSrc IntSrc Unit) =>
      meets (registered s) (fun x => x.guardOn .always && decide (x.deriv 0 = some transposed) && (x.deriv 5).isNone) &&
      after (.dvUnreg { w with a := .nat 5 }) (registered s) (faultIs .recordInvalid) &&
      after (.dvUnreg w) (tileIs .valid (registered s)) (fun t => t.derivs.isEmpty && arm t (fun p => p.pc == 8)) &&
      after (.dvUnreg w) (registered s) (fun t => t.derivs.length == 1 && arm t (fun p => decide (p.wait = .derive 0 [0])) &&
        decide (t.tileState 0 0 = some .computing)) &&
      after (.dvUnreg w) (onArm (fun p => { p with wait := .derive 0 [0] }) (registered s)) (fun t => t.derivs.length == 1) &&
      after (.dvUnreg w) (onArm (fun p => { p with wait := .derive 0 [] }) (registered s)) (fun t => t.derivs.isEmpty) &&
      after (.dvQry { q with a := .nat 5 }) (registered s) (faultIs .recordInvalid) &&
      after (.dvQry q) (registered s) (fun t => grp t (fun g => g.sreg 9 == 1)) &&
      after (.dvQry { q with b := .nat 1 }) (registered s) (fun t => grp t (fun g => g.sreg 9 == 7)) &&
      after (.dvWarm m) (registered (counted 255 s)) stalls && after (.dvWarm m) (registered (counted 254 s)) queues &&
      after (.dvWarm { m with a := .nat 5 }) (registered s) (faultIs .recordInvalid))
      (paged (solo 0)) ⟨false, false, .always, 9, .nat 0, (), (), ()⟩ ⟨false, false, .always, 9, .nat 0, .nat 0, (), ()⟩
      ⟨false, false, .always, 1, none, .nat 0, .nat 0, .nat 1, ()⟩ = true := by decide

/-- IC: a line that is held, locked; none asked for; 65 lines; a line that is not there; a line unlocked, and taken out. -/
theorem hyps_InstructionCache :
    (fun (s : State) (w : FmtA (Fin 16) (Fin 32) USrc Unit Unit) (u : FmtA Unit (Fin 32) USrc Unit Unit) =>
      meets s (fun x => x.guardOn .always && allowed x 1 .fetch false anyTarget [(0, 0x10000)]) &&
      after (.icLock w) s (fun t => arm t (fun p => p.pc == 0 && p.locking == 1)) &&
      after (.icLock w) (onArm (fun p => { p with locking := 1 }) s) (fun t => grp t (fun g => g.qreg 3) && arm t (fun p => p.pc == 8)) &&
      meets (onArm (fun p => { p with locking := 4 }) s) (fun x => allowed x 1 .fetch false anyTarget [(0, 0x14000)]) &&
      after (.icLock { w with b := .s 9 }) (onArm (fun p => { p with locking := 4 }) (words [0, 0, 0, 0, 0, 16385] s)) (fun t =>
        arm t (fun p => p.pc == 0 && p.locking == 5)) &&
      after (.icLock { w with b := .s 9 }) (onArm (fun p => { p with locking := 5 }) (words [0, 0, 0, 0, 0, 16385] s)) (fun t =>
        grp t (fun g => !g.qreg 3) && arm t (fun p => p.pc == 8)) &&
      after (.icLock { w with b := .s 9 }) (onArm (fun p => { p with locking := 1 }) (words [0, 0, 0, 0, 0, 257] s)) (fun t => !t.fills.isEmpty && arm t (fun p => p.pc == 0)) &&
      after (.icLock { w with b := .nat 0 }) s (fun t => grp t (fun g => g.qreg 3)) &&
      after (.icUnlk u) s (fun t => arm t (fun p => p.pc == 8)) &&
      after (.icInv u) s (fun t => (t.core 0).code.length == 1 && arm t (fun p => p.pc == 8)))
      (let s := mapped (addressed 0x10000 (solo 0))
       s.setCore 0 { s.core 0 with code := ⟨0, 256, List.replicate 256 0, List.replicate 256 false, [], 0, []⟩ :: (s.core 0).code })
      ⟨false, false, .always, 3, 1, .nat 1, (), ()⟩ ⟨false, false, .always, (), 1, .nat 1, (), ()⟩ = true := by decide

/-! Steps at the owners, answers and operations in flight. -/

/-- Request 5, on path L of core 0: its operation, target and answer. -/
def request (o : ReqOp) (t : Target) (r : Ret) : Req :=
  ⟨0, 4, 0, .l, 0, 1, 2, 3, 1, 1, 0, 0x10000, 0, o, t, [], r, false, false, none, 0, false, none, [], 0⟩
/-- It is in flight. -/
def flying (r : Req) (s : State) : State := { s with reqs := [(5, r)], nextId := 6 }
/-- Its turn has come. -/
def turn (r : Req) : Bool := let s := flying r (solo 0); s.mayPerform 5 r && decide (SMap.find? s.reqs 5 = some r)
/-- A frame of far memory. -/
def far : Nat := 0x200000010000

set_option exponentiation.threshold 1024 in
/-- Reads of plain memory, of a VALID tile and of a STALE one; writes by a core and by an engine, to plain and to derived memory,
one held by its tile; a write to a scratchpad and to host memory. -/
theorem hyps_OwnerSteps :
    (fun (s : State) (rd wr : Target → Req) =>
      turn (rd (.dev far)) && turn (wr (.dev far)) &&
      ((flying (rd (.dev far)) s).notValid far 4).isEmpty &&
      after (.sliceRead 5) (flying (rd (.dev far)) s) (fun t => t.reqs.all (fun e => e.2.half.isSome)) &&
      after (.sliceRead 5) (flying { rd (.dev far) with half := some (List.replicate 64 1, clean 64) } s) (fun t =>
        (t.core 0).loads.length == 1 && t.reqs.all (fun e => e.2.value.any (fun v => decide (v.1 = [1, 1, 1, 1])))) &&
      after (.sliceRead 5) (flying { rd (.dev far) with noFill := true } s) (fun t => (t.core 0).loads.isEmpty && t.reqs.all (fun e => e.2.value.isSome)) &&
      after (.sliceRead 5) (flying { rd (.dev far) with acquire := true } s) (fun t => (t.core 0).loads.isEmpty) &&
      after (.sliceRead 5) (flying (rd (.dev (far + 4096))) (registered s)) (fun t => decide (t.tileState 0 0 = some .computing)) &&
      after (.sliceRead 5) (flying { rd (.dev (far + 4096)) with noFill := true } (tileIs .valid (registered s)))
        (fun t => t.reqs.all (fun e => e.2.value.isSome)) &&
      after (.sliceWrite 5) (flying (wr (.dev far)) (tileIs .valid (registered s)))
        (fun t => t.reqs.isEmpty && t.mem.byte far == 7 && t.tiles.isEmpty) &&
      after (.sliceWrite 5) (flying (wr (.dev far)) (tileIs .computing (registered s)))
        (fun t => decide (t.tileState 0 0 = some .computingStale)) &&
      after (.sliceWrite 5) (flying { wr (.dev (far + 4096)) with src := 256, path := .c, ret := .op 9 0 } (registered s))
        (fun t => t.reqs.isEmpty && t.mem.byte (far + 4096) == 0) &&
      (flying (wr (.dev far)) (tileIs .exclusive (registered s))).writesHeld far 1 &&
      after (.sliceWrite 5) (flying (wr (.dev far)) (tileIs .exclusive (registered s))) (fun t => t.reqs.length == 1) &&
      after (.sliceWrite 5) (flying (wr (.spad 2 0 8)) s) (fun t => (SMap.find? t.teams 2).any (fun u => u.side0.spad.byte 8 == 7)) &&
      after (.hostWriteCompletion 5) (flying (wr (.host 64)) s) (fun t => t.host.byte 64 == 7))
      (solo 0) (fun t => request (.read 4) t (.lanes 3 [(1, 0)] 0 .b32)) (fun t => request (.write [7] [false]) t .none) = true := by decide

/-- Atomics, with and without an answer, on poison, and a reduction. -/
theorem hyps_OwnerSteps_atomics :
    (fun (s : State) (at_ : Ret → Req) (rd : Req) =>
      turn (at_ .none) && turn rd && !(at_ .none).ofEngine && !s.writesHeld far 4 && decide ((at_ .none).op.width = 4) &&
      (at_ .none).op.modifies && (at_ .none).op.returns &&
      after (.sliceAtomic 5) (flying (at_ (.atom 3 0 8 false)) s) (fun t => t.mem.byte far == 5 && t.reqs.length == 1) &&
      after (.sliceAtomic 5) (flying (at_ .none) s) (fun t => t.mem.byte far == 5 && t.reqs.isEmpty) &&
      after (.sliceAtomic 5) (flying (at_ .none) { s with bad := [far] }) (fun t => t.mem.byte far == 0 && t.reqs.isEmpty) &&
      after (.sliceAtomic 5) (flying rd s) (fun t => t.mem.byte far == 3 && t.reqs.isEmpty))
      (solo 0) (fun r => request (.atomic .add false 5 0 0) (.dev far) r)
      (request (.red .i32 [3, 0, 0, 0] (clean 4)) (.dev far) .none) = true := by decide

/-- The answer of request 5 is due at these registers. -/
def awaited (ks : List Nat) (s : State) : State := onGroup (fun g => { g with due := ks.map (fun k => (k, 5)) }) s

/-- Answers of every form, clean and poisoned; a wait at a monitor and a sleep that end. -/
theorem hyps_AnswersAndWaits :
    (fun (s : State) (r : Ret → List Byte → List Bool → Req) =>
      (flying (r .host [9] [false]) s).mayReturn (r .host [9] [false]) &&
      after (.loadReturn 5) (flying (r (.lanes 3 [(1, 0)] 255 .z8) [9] [false]) (awaited [16320] s)) (fun t => grp t (fun g => g.vreg 255 0 == 9)) &&
      after (.loadReturn 5) (flying (r (.lanes 3 [(1, 0)] 252 .b128) (List.replicate 16 1) (clean 16)) (awaited [16320] s))
        (fun t => grp t (fun g => g.vreg 255 0 == 0x01010101)) &&
      after (.loadReturn 5) (flying (r (.uni 3 60 .b128) (List.replicate 16 1) (clean 16)) (awaited [65599] s))
        (fun t => grp t (fun g => g.sreg 63 == 0x01010101)) &&
      after (.loadReturn 5) (flying (r (.atom 3 63 8 true) (List.replicate 8 1) (clean 8)) (awaited [639] s))
        (fun t => grp t (fun g => g.vreg 9 63 == 0x01010101)) &&
      after (.loadReturn 5) (flying (r (.atom 3 0 8 true) (List.replicate 8 1) (clean 8)) (onGroup (fun g => { g with exited := 1 }) s))
        (fun t => grp t (fun g => g.vreg 8 0 == 0)) &&
      after (.loadReturn 5) (flying (r (.elem 3 1 [(0, 8, 3, 0)]) [9] [false]) (awaited [512] s)) (fun t => grp t (fun g => g.vreg 8 0 == 0x09000000)) &&
      after (.loadReturn 5) (flying (r .host [9] [false]) s) (fun t => decide (t.hostReply = [9])) &&
      after (.loadReturn 5) (flying (r (.uni 3 8 .z8) [9] [true]) s) (fun t => faultIs .poison t && grp t (fun g => g.sreg 8 == 0)) &&
      after (.mwaitTimeout 3 4) (onGroup (fun g => { g with due := [(65544, 4)] }) (onArm (fun p => { p with wait := .monitor 8 (some 0) }) s))
        (fun t => grp t (fun g => g.sreg 8 == 1) && arm t (fun p => decide (p.wait = .none))) &&
      after (.sleepExpire 3 4) (onArm (fun p => { p with wait := .sleep 0 }) s) (fun t => arm t (fun p => decide (p.wait = .none))))
      (solo 0) (fun a d b => { request (.read d.length) (.dev far) a with value := some (d, b) }) = true := by decide

/-- Operation 5 of the path, under tag 1. -/
def operation (k : OpKind) : Op := ⟨k, 0, 0, 1, 2, 3, 0, 1, 0, 1, none, false, [], false, [], [], [], 0, false, [], [], []⟩
/-- It is in flight, the only one of its tag. -/
def inFlight (o : Op) (s : State) : State := { counted 1 s with ops := [(5, o)], nextId := 6 }
/-- It has completed, with this status. -/
def ended (st : Nat) (t : State) : Bool := t.ops.isEmpty && grp t (fun g => decide (g.tag 1 = ⟨0, st, st == 3⟩))
/-- Team 2 stands behind slot 0 of core 0, generation 1. -/
def behind (s : State) : State := s.setCore 0 { s.core 0 with handles := [(0, ⟨1, some 2⟩)] }
/-- Its handle. -/
def handle : Word := 1

set_option exponentiation.threshold 1024 in
/-- A start of each kind; a completion; a stamp written, and one barred. -/
theorem hyps_OperationSteps :
    (fun s : State =>
      after (.triggerStart 5) (inFlight (operation (.zero 0)) s) (fun t => decide ((t.core 0).mxOrder = [5])) &&
      after (.triggerStart 5) (inFlight (operation (.warm 0 0 1)) (registered s)) (fun t => decide (t.tileState 0 0 = some .computing)) &&
      after (.triggerStart 5) (inFlight (operation (.lane [⟨0x10000, 0x10040, 4, false⟩] 8)) (mapped s))
        (fun t => (SMap.find? t.reqs 6).any (fun r => r.path == .c && decide (r.tgt = .dev 0x200000000000) && decide (r.ret = .op 5 0))) &&
      after (.copyComplete 5) (inFlight { operation (.bulk 0 0 4 1 0 0) with started := true } s) (ended 0) &&
      after (.stampWrite 5) (inFlight { operation (.stamp 0x10000 9 false) with barred := true } (mapped s)) (ended 3) &&
      after (.stampWrite 5) (inFlight (operation (.stamp 0x10000 9 false)) (mapped s))
        (fun t => ended 0 t && t.mem.byte 0x200000000000 == 9))
      (solo 0) = true := by decide

/-- Arrivals and deliveries: barred, with no team behind the handle, and landing. -/
theorem hyps_OperationSteps_teams :
    (fun (s : State) (arr : Op) (d : Option (Nat × List Byte × List Bool) → Word → State → State) =>
      ((behind s).behindSlot handle 0).isSome && ((behind s).behindSlot 0 0).isNone &&
      after (.arrivalLand 5) (inFlight { arr with barred := true } (behind s)) (ended 3) &&
      after (.arrivalLand 5) (inFlight arr s) (ended 1) &&
      after (.arrivalLand 5) (inFlight arr (behind s)) (fun t => ended 0 t &&
        (SMap.find? t.teams 2).any (fun u => (SMap.find? u.bars 3).any (fun b => b.phase))) &&
      after (.arrivalLand 5) (d none 0 (behind s)) (fun t => t.deliveries.isEmpty) &&
      after (.arrivalLand 5) (d none handle (behind s)) (fun t => t.deliveries.isEmpty) &&
      after (.deliveryLand 5) (d (some (8, [7], [false])) 0 (behind s)) (fun t => t.deliveries.isEmpty) &&
      after (.deliveryLand 5) (d (some (8, [7], [false])) handle (onEntry (fun e => { e with body := { e.body with spad := 1 } }) (behind s)))
        (fun t => t.deliveries.isEmpty && (SMap.find? t.teams 2).any (fun u => u.side0.spad.byte 8 == 7)))
      (solo 0)
      (operation (.arrive handle 3))
      (fun data h s => { s with deliveries := [(5, ⟨0, 1, h, data, 3, .none, []⟩)], nextId := 6 }) = true := by decide

/-- The oldest operation of an engine, on rows that agree with their checksums; a fill of one row; a fold of 64 columns and 8 rows
of F32 for a drain. -/
theorem hyps_MatrixSteps :
    (fun (s : State) (at_ : OpKind → State → State) =>
      (operation (.zero 0)).kind.onM && decide (((at_ (.zero 0) s).core 0).mxOrder.head? = some 5) &&
      decide (rowGranules 0 64 = [0]) && decide (rowGranules 63 2 = [0, 1]) &&
      (List.range 4).all (fun i => s.rowXor 2 0 i == SMap.getD (s.sideOf 2 0).accCol i 0) &&
      s.colXor 2 0 0 0 == SMap.getD (s.sideOf 2 0).accRow 0 0 && !s.accPoison 2 0 0 &&
      after (.matrixOpComplete 5) (at_ (.fill (List.replicate 64 1) 0 1) s) (fun t => ended 0 t && SMap.getD (t.sideOf 2 0).acc 63 0 == 1) &&
      foldOk 0x200DB 64 && (FoldWord.of 0x200DB).extent .x == 64 && (FoldWord.of 0x200DB).extent .y == 8 &&
      (FoldWord.of 0x200DB).ew == castEw .f32)
      (solo 0) (fun k s => let s := inFlight (operation k) s; s.setCore 0 { s.core 0 with mxOrder := [5] }) = true := by decide

/-! Translations, recomputes, registers, queues and placement. -/

/-- Walk 5, of page 1 of context 0 for the path, of this kind. -/
def walking (kind : Nat) (s : State) : State := { s with walks := [(5, ⟨0, 0, 1, 4, kind⟩)], nextId := 6 }
/-- Context 0 with PRI enabled and two requests allocated. -/
def priOn (s : State) : State := { s with contexts := [(0, ⟨0, true, true, 0, true, 0⟩)], fns := [(0, { Fn.zero with priAlloc := 2 })] }
/-- A fill whose bytes are all there. -/
def filling (s : State) : State :=
  { s with fills := [(5, ⟨0, 0, 256, 4, ⟨0x10000, 256, (List.range 256).map (fun i => (i, 7)), [], [], false⟩⟩)], nextId := 6 }

/-- A walk that finds a leaf and one that does not; the host's answers, without PRI and with it; a line. -/
theorem hyps_TranslationSteps :
    (fun s : State => (walking 0 s).walks.all (fun e => decide (e.1 < (walking 0 s).nextId)) && SMap.rising (walking 2 s).walks &&
      after (.pageWalkComplete 5) (walking 0 (paged s)) (fun t => t.walks.isEmpty && t.tlb.length == 2 && t.mem.byte 0x200000005008 == 0x71) &&
      after (.pageWalkComplete 5) (walking 0 s) (fun t => t.walks.isEmpty && arm t (fun p => decide (p.refused = [(1, 1)]))) &&
      (walking 1 s).walks.all (fun e => e.2.kind == 1 && e.2.core != queueUnit) && (SMap.find? s.paths 4).isSome &&
      after (.atsTranslationCompletion 0 0x1000 none) (walking 1 s) (fun t => arm t (fun p => decide (p.refused = [(1, 4)]))) &&
      after (.atsTranslationCompletion 0 0x1000 none) (walking 1 (priOn s)) (fun t => t.walks.any (fun e => e.2.kind == 2)) &&
      after (.pageRequestResponse 0 0x1000 .success) (walking 2 (priOn s)) (fun t => t.walks.any (fun e => e.2.kind == 1)) &&
      after (.pageRequestResponse 0 0x1000 .failure) (walking 2 (priOn s)) (fun t => arm t (fun p => decide (p.refused = [(1, 3)]))) &&
      after (.lineFill 5) (filling s) (fun t => t.fills.isEmpty && (t.core 0).code.length == 2))
      (solo 0) = true := by decide

/-- The three commands idle and busy, with a translation of the context at both ends of its range; an invalidation done and not. -/
theorem hyps_Invalidations :
    (fun s : State => decide (s.mode = .running) && !s.invcmd.getLsbD 63 &&
      after (.invalidateContext 0) (mapped s) (fun t => t.tlb.isEmpty && t.invcmd.getLsbD 63) &&
      after (.invalidatePage 0) { mapped s with invaddr := 0x1FFFF } (fun t => t.tlb.isEmpty) &&
      after (.invalidatePage 0) { mapped s with invaddr := 0x20000 } (fun t => t.tlb.length == 1) &&
      after (.invalidateRange 0 2) { mapped s with invaddr := 0xF000 } (fun t => t.tlb.isEmpty) &&
      after (.invalidateRange 0 1) { mapped s with invaddr := 0xF000 } (fun t => t.tlb.length == 1) &&
      after (.invalidateContext 0) { mapped s with invcmd := 1#64 <<< 63 } (fun t => t.tlb.length == 1) &&
      after .invalidationComplete { s with invals := [⟨0, [5]⟩], invcmd := 1#64 <<< 63 } (fun t => t.invals.isEmpty && t.invcmd == 0) &&
      after .invalidationComplete (flying (request (.read 4) (.dev far) .none) { s with invals := [⟨0, [5]⟩], invcmd := 1#64 <<< 63 })
        (fun t => t.invals.length == 1) &&
      after (.atsInvalidationRequest 0 0x10000 1) (priOn (mapped s)) (fun t => t.tlb.isEmpty))
      (solo 0) = true := by decide

/-- A recompute of the tile, moved or not, at this try. -/
def computing (moved : Bool) (tries : Nat) (s : State) : State := { s with recomputes := [⟨0, 0, moved, tries, 0, []⟩] }

set_option exponentiation.threshold 1024 in
/-- A recompute that writes its tile, one that tries again, one that tries the last time; a record of sums. -/
theorem hyps_RecomputeSteps :
    (fun s : State =>
      ((transposed.needs 0).flatMap transposed.baseRuns).all (fun b => (s.notValid b.1 b.2).isEmpty) &&
      (tileWrites s transposed 0).length == 1 &&
      after (.recomputeComplete 0 0) (computing false 0 s) (fun t => decide (t.tileState 0 0 = some .valid) && t.mem.byte (far + 4096) == 9) &&
      after (.recomputeComplete 0 0) (computing true 0 s) (fun t => t.recomputes.any (fun r => r.tries == 1) && t.mem.byte (far + 4096) == 0) &&
      after (.recomputeComplete 0 0) (computing true 3 s) (fun t => decide (t.tileState 0 0 = some .exclusive)) &&
      after (.recomputeComplete 0 0) (computing true 4 (tileIs .exclusive s)) (fun t => decide (t.tileState 0 0 = some .valid)) &&
      after (.recomputeComplete 1 0)
        { s with derivs := s.derivs ++ [{ transposed with handle := 1, pagesA := transposed.pagesD }], recomputes := [⟨1, 0, false, 0, 0, []⟩] }
        (fun t => decide (t.tileState 0 0 = some .computing)) &&
      transposed.rule == 0 && transposed.baseB == 0 && transposed.drows == 1 && transposed.dcols == 1 && transposed.dsize == 4 &&
      transposed.bsize == 4 && decide (paOf transposed.pagesA transposed.baseA = some far))
      (tileIs .computing (registered { solo 0 with mem := [(far, 9)] })) = true ∧
    (fun d : Deriv => d.rule == 2 && d.baseB == 0 && d.bfmt == 5 && d.dfmt == 5 && d.drows == 1)
      { transposed with img := 0x1000 + 0x2000 * 2 ^ 128 + 2 ^ 256 + 2 ^ 288 + 128 * 2 ^ 320 + 2 * 2 ^ 384 + 5 * 2 ^ 392 + 5 * 2 ^ 396 } = true := by
  decide

/-- Queue 0 of function 0 in a state, its context valid. -/
def queued (f : Queue → Queue) (s : State) : State := (paged s).setQueue 0 0 (f { Queue.zero with enable := true, state := 0, log2n := 4 })

/-- Tails below, at and past their bounds; a queue's controls that pass and do not; a restart; a team let go on. -/
theorem hyps_HostRegisters_queues :
    (fun s : State => decide ((s.fn 0).reset = 0) &&
      after (.kick 0 0 16) (queued id s) (fun t => (t.queue 0 0).tail == 16 && !(t.queue 0 0).kerr) &&
      after (.kick 0 0 17) (queued id s) (fun t => (t.queue 0 0).tail == 0 && (t.queue 0 0).kerr) &&
      after (.kick 0 0 1) (queued (fun q => { q with tail := 2 }) s) (fun t => (t.queue 0 0).tail == 2 && (t.queue 0 0).kerr) &&
      after (.queueEnable 0 0 16) (queued (fun q => { q with state := 3 }) s) (fun t => (t.queue 0 0).enable && (t.queue 0 0).state == 0) &&
      after (.queueEnable 0 0 3) (queued id s) (fun t => !(t.queue 0 0).enable && (t.queue 0 0).state == 3) &&
      after (.queueEnable 0 0 16) (queued (fun q => { q with fault := 8388608 - 63 }) s) (fun t => !(t.queue 0 0).enable) &&
      after (.queueEnable 0 0 16) (queued (fun q => { q with fault := 8388608 - 64 }) s) (fun t => (t.queue 0 0).enable) &&
      after (.queueRestart 0 0 16) (queued (fun q => { q with state := 2, status := 3 }) s)
        (fun t => (t.queue 0 0).state == 0 && (t.queue 0 0).status == 0) &&
      after (.queueDisable 0 0 4) (queued id s) (fun t => (t.queue 0 0).state == 3) &&
      after (.dbgteamResume 0) { s with fns := [(0, { Fn.zero with dbgValid := true, dbgId := 2 })] } (fun t => !(t.fn 0).dbgValid))
      (solo 0) = true := by decide

/-- A partition that is free, one that another function has, one of a function with a team; registers of each function and of the
physical one alone. -/
theorem hyps_HostRegisters :
    (fun s : State => decide (s.mode = .running) && s.sealtag.length == 32 &&
      s.entries.all (fun e => e.2.phase == .waiting || e.2.body.ty != 0) && !(s.hasTeams 0) && (solo 0).hasTeams 0 &&
      after (.partWrite 1 true 6) s (fun t => (t.fn 1).part == 6#128 <<< 64 && (t.fn 1).cursor == 130) &&
      after (.partWrite 1 false 6) { s with fns := [(2, { Fn.zero with part := 4 })] } (fun t => (t.fn 1).part == 0) &&
      after (.partWrite 0 false 6) (solo 0) (fun t => (t.fn 0).part == 0) &&
      after (.registerWrite 1 0x80008 5) s (fun t => t.invaddr == 0) &&
      after (.registerWrite 0 0x80008 5) s (fun t => t.invaddr == 5) &&
      after (.registerWrite 0 0x80020 0x20001) s (fun t => t.peerid == 1 && t.domsize == 2) &&
      after (.registerWrite 0 0x80020 0x20001) (solo 0) (fun t => t.peerid == 0) &&
      after (.registerWrite 0 0x90008 (1#64 <<< 32)) s (fun t => (t.context 0).v) &&
      after (.registerWrite 0 0xA0018 7) s (fun t => SMap.getD t.routes 1 0 == 7#128 <<< 64))
      (State.reset) = true := by decide

/-- A launch of one team of 64 lanes at 0x1000, as its 128 bytes. -/
def launchWord : Nat :=
  0x1000 + 2 ^ 576 + 2 ^ 608 + 2 ^ 640 + 64 * 2 ^ 672 + 2 ^ 688 + 2 ^ 704 + 256 * 2 ^ 832 + 3 * 2 ^ 841
/-- It stands in the first slot of the ring, with one more bit set, and the partition holds core 0. -/
def ringed (bit : Nat) (s : State) : State :=
  let s := queued (fun q => { q with base := 0x1000, tail := 1 }) s
  { s with
    mem := s.mem ++ ((leBytes 128 (launchWord + bit)).zipIdx.map (fun x => (far + x.2, x.1))).filter (fun c => c.2 != 0)
    fns := [(0, { Fn.zero with part := 1 })] }
/-- Its first 64 bytes have been read, and these are poisoned. -/
def halved (bit : Nat) (bad : List Nat) (s : State) : State :=
  let s := ringed bit s
  { s.setQueue 0 0 { s.queue 0 0 with half := some ((launchWord + bit) % 2 ^ 512) } with bad := bad }

set_option exponentiation.threshold 1024 in
/-- An entry whose halves are read one by one, and that passes; one with a reserved bit; one whose stamp does not translate; one that fits on no core; one that is poisoned. -/
theorem hyps_QueueEntries :
    (fun s : State => (ringed 0 s).mayFetch 0 0 && entryOk launchWord && !entryOk (launchWord + 2 ^ 900) && (entryOf launchWord).ty == 0 &&
      decide (((ringed 0 s).queueTrans 0 0x1000 .read).pa = far) &&
      after (.entryFetch 0 0) (ringed 0 s) (fun t => t.entries.isEmpty && decide ((t.queue 0 0).half = some (launchWord % 2 ^ 512))) &&
      after (.entryFetch 0 0) (halved 0 [] s) (fun t => t.entries.length == 1 && (t.queue 0 0).head == 1 && (t.queue 0 0).state == 0) &&
      after (.entryFetch 0 0) (halved (2 ^ 900) [] s) (fun t => t.entries.isEmpty && (t.queue 0 0).status == 2) &&
      after (.entryFetch 0 0) (halved (0x100000 * 2 ^ 192) [] s) (fun t => (t.queue 0 0).status == 2) &&
      after (.entryFetch 0 0) (halved (192 * 2 ^ 720 + 2 ^ 736) [] s) (fun t => (t.queue 0 0).status == 1) &&
      after (.entryFetch 0 0) { ringed 0 s with bad := [far] } (fun t => (t.queue 0 0).status == 2) &&
      after (.entryFetch 0 0) (halved 0 [far + 64] s) (fun t => (t.queue 0 0).status == 2 && (t.queue 0 0).half.isNone))
      (State.reset) = true := by decide

/-- Entry 1, of this type, waiting at the head of queue 0. -/
def entered (ty : Nat) (s : State) : State :=
  let s := onEntry (fun e => { e with phase := .waiting, placed := 0, body := { e.body with ty := ty } }) (queued id s)
  { s with teams := [], groups := [], paths := [] }

/-- A stamp wait that holds and one that does not; each type of entry; a launch whose last team has retired. -/
theorem hyps_QueueEntries_events :
    (fun s : State =>
      after (.stampWaitHolds 1 false) (onEntry (fun e => { e with w0ok := false, w0Pa := far }) (entered 0 s))
        (fun t => t.entries.all (fun e => e.2.w0ok)) &&
      after (.stampWaitHolds 1 true) (onEntry (fun e => { e with w1ok := false, w1Pa := far, body := { e.body with w1val := 1 } }) (entered 0 s))
        (fun t => t.entries.all (fun e => !e.2.w1ok)) &&
      after (.launch 1) (entered 0 s) (fun t => t.entries.all (fun e => e.2.phase == .started)) &&
      after (.barrier 1) (entered 1 s) (fun t => t.entries.all (fun e => e.2.phase == .started)) &&
      after (.barrier 1) (onEntry (fun e => { e with phase := .started }) (entered 1 s)) (fun t => t.entries.isEmpty) &&
      after (.flush 1) (entered 2 s) (fun t => t.entries.all (fun e => e.2.phase == .started)) &&
      after (.flush 1) (onEntry (fun e => { e with phase := .started }) (entered 2 s)) (fun t => t.entries.isEmpty) &&
      after (.stamp 1) (onEntry (fun e => { e with csPa := far, body := { e.body with csaddr := 0x1000, csval := 5 } }) (entered 3 s))
        (fun t => t.entries.isEmpty && t.mem.byte far == 5) &&
      after (.launchComplete 1) (onEntry (fun e => { e with phase := .started, placed := 1, retired := 1 }) (entered 0 s))
        (fun t => t.entries.isEmpty))
      (solo 0) = true := by decide

/-- The launch has started and function 0 has these cores. -/
def onPart (p : BitVec 128) (s : State) : State :=
  { onEntry (fun e => { e with phase := .started }) s with fns := [(0, { Fn.zero with part := p })] }

/-- A team that has never been placed, one that was saved, and none that may be; a group whose lanes have exited. -/
theorem hyps_TeamPlacement :
    (fun s : State =>
      decide (((onPart 1 s).pendings 0).length = 1) && ((onPart 1 s).pendings 0).all (fun p => p.teams.isEmpty && p.count == 1 && p.entry == 1) &&
      after (.teamPlace 0) (onPart 1 s) (fun t => t.teams.length == 1 && t.groups.length == 1 && t.paths.length == 1) &&
      after (.teamPlace 0) (onPart 0 s) (fun t => t.teams.isEmpty) &&
      after (.teamPlace 0) ((fun t : State => { t with teams := t.teams.map (fun u => (u.1, { u.2 with place := .saved })), fns := [(0, { Fn.zero with part := 1 })] })
        (solo 0)) (fun t => t.teams.all (fun u => decide (u.2.place = .resident) && u.2.resumes == 1)) &&
      after (.groupRetire 3) { onGroup (fun g => { g with exited := BitVec.allOnes 64 }) (solo 0) with paths := [] }
        (fun t => grp t (fun g => g.retired) && t.teams.all (fun u => decide (u.2.place = .ended))))
      (entered 0 (solo 0)) = true := by decide

/-! Faults, pre-emption, resets, the host, management and the fabric. -/

/-- A fault at a core with a code. -/
def faultEv (core : Nat) (c : Code) : FaultEv := ⟨c, true, 0, 0, 1, 0, 1, 0, 0, 0, core, 0, (0, 0)⟩

set_option exponentiation.threshold 1024 in
/-- Two faults at one core, and at two; a watchdog that has run down; a drain that is done. -/
theorem hyps_FaultSteps :
    (fun s : State => decide ((s.fn 0).reset = 0) &&
      after (.faultRecorded 1) (onEntry (fun e => { e with faults := [faultEv 0 .fabric, faultEv 0 .address] }) s)
        (fun t => t.entries.any (fun e => e.2.fault.any (fun f => decide (f.code = .address)) && e.2.nfault == 1)) &&
      after (.faultRecorded 1) (onEntry (fun e => { e with faults := [faultEv 2 .address, faultEv 1 .fabric] }) s)
        (fun t => t.entries.any (fun e => e.2.fault.any (fun f => decide (f.code = .fabric)) && e.2.phase == .draining)) &&
      after (.watchdog 1) (onEntry (fun e => { e with wdOn := true, wdLeft := 0, wdPhase := 1 }) s)
        (fun t => t.entries.any (fun e => e.2.fault.any (fun f => decide (f.code = .watchdog)))) &&
      after (.watchdog 1) (onEntry (fun e => { e with wdOn := true, wdLeft := 0, wdPhase := 0 }) s)
        (fun t => t.entries.all (fun e => e.2.fault.isNone)) &&
      after (.faultDrainDone 1) (onEntry (fun e => { e with phase := .draining, fault := some (faultEv 0 .address) }) (queued id s))
        (fun t => t.entries.isEmpty && (t.queue 0 0).status == 3 && t.mem.byte windowBase == 6))
      (solo 0) = true := by decide

/-- A team of priority 0 on core 0, saved images having room, and a launch of priority 1 that waits for its place. -/
def crowded (prio : Nat) (s : State) : State :=
  let full (b : EntryRec) (p : Nat) : EntryRec := { b with prio := p, acc := 192, regs := 8 }
  match SMap.find? s.entries 1 with
  | some e =>
    { (onEntry (fun e => { e with body := full e.body 0 }) s).setEntry 7 { e with placed := 0, order := 7, body := full e.body prio } with
      fns := [(0, { Fn.zero with part := 1, saveSize := 0x1000000, tslice := 1 })], nextId := 8 }
  | none => s
/-- The save of team 2 has been asked for. -/
def asked (t : State) : Bool := (SMap.find? t.teams 2).any (fun u => u.save.isSome)
/-- The save of team 2 was asked for at cycle 0, and its path stands at a safe point with this live mask. -/
def saving (live : DWord) (s : State) : State :=
  let s := onArm (fun p => { p with safe := some live, wait := .stopped }) s
  { s with teams := s.teams.map (fun u => (u.1, { u.2 with save := some ⟨0, false, false, false⟩ })) }

/-- A launch of higher priority, and one of the same after its time; the host's commands for a team that is there and one that is
not, with room for its image and without; the bound before and at its end; a save at a safe point. -/
theorem hyps_Preemption :
    (fun s : State => decide ((s.fn 0).reset = 0) && !(crowded 1 s).saving 0 && decide (((crowded 1 s).pendings 0).length = 1) &&
      ((crowded 1 s).pendings 0).all (fun p => ((crowded 1 s).placeOne p).isNone && !(crowded 1 s).lacksSlotOnly p && p.prio == 1) &&
      decide ((((crowded 1 s).savable 0).map (·.1)) = [2]) && (crowded 1 s).imagesFit 0 ((crowded 1 s).unit 2) &&
      after (.preemptRequest 0) (crowded 1 s) asked && after (.preemptRequest 0) (crowded 0 s) (fun t => !asked t) &&
      after (.timeSliceExpire 0) { crowded 0 s with cycle := 4097 } asked &&
      after (.timeSliceExpire 0) { crowded 0 s with cycle := 4096 } (fun t => !asked t) &&
      after (.preemptTeam 0 1) (crowded 1 s) asked && after (.preemptTeam 0 2) (crowded 1 s) (fun t => t.preempt.toNat / 2 ^ 61 == 1) &&
      after (.preemptTeam 0 1) s (fun t => t.preempt.toNat / 2 ^ 61 == 2 && !asked t) &&
      after (.preemptFunction 0) (crowded 1 s) asked && after (.preemptFunction 0) s (fun t => t.preempt.toNat / 2 ^ 61 == 2) &&
      after (.preemptBoundExpire 2) { saving 0 s with cycle := 75000 }
        (fun t => (SMap.find? t.teams 2).any (fun u => u.save.any (fun r => r.bound))) &&
      after (.preemptBoundExpire 2) { saving 0 s with cycle := 74999 }
        (fun t => (SMap.find? t.teams 2).any (fun u => u.save.any (fun r => !r.bound))) &&
      SMap.rising s.groups && SMap.rising s.paths)
      (solo 0) = true := by decide

/-- A save that keeps s4 to s7, and v0 to v7 alone. -/
theorem hyps_Preemption_save :
    (fun s : State => after (.preemptSave 2) (saving (1#64 <<< 16 ||| 1#64 <<< 24) s) (fun t =>
      grp t (fun g => g.vreg 0 3 == 1 && g.vreg 8 3 == 0 && g.sreg 7 == 2 && g.sreg 8 == 0) && t.teams.all (fun u => decide (u.2.place = .saved))))
      (onGroup (fun g => (((g.setV 0 3 1).setV 8 3 1).setS 7 2).setS 8 2) (crowded 1 (solo 0))) = true := by decide

/-- Resets of function 1: started, started already, done, and abandoned. -/
theorem hyps_FunctionResets :
    (fun s : State => decide (s.mode = .running) && s.vfrstBusy == 0 && SMap.rising s.teams && SMap.rising s.entries &&
      after (.vfrstStart 1) s (fun t => t.vfrstBusy == 1 && (t.fn 1).reset != 0 && t.teams.isEmpty) &&
      after (.functionLevelReset 1) s (fun t => t.vfrstBusy == 1 && t.teams.isEmpty) &&
      after (.vfrstStart 1) { s with vfrstBusy := 1 } (fun t => t.teams.length == 1) &&
      after (.vfrstStart 2) { s with vfrstBusy := 1 } (fun t => t.vfrstBusy == 3 && t.teams.length == 1) &&
      after (.vfResetDrainDone 1) { s with vfrstBusy := 1, fns := [(1, { Fn.zero with reset := 1 })] }
        (fun t => t.vfrstBusy == 0 && t.vfrstDone == 1 && t.entries.isEmpty && (t.queue 1 0).status == 4) &&
      after (.vfResetDrainTimeout 1) (flying { request (.read 4) (.peer 1 0) .none with fn := 1 }
          { s with vfrstBusy := 1, cycle := 75000000, fns := [(1, { Fn.zero with reset := 1 })] }) (fun t => t.reqs.isEmpty))
      (onEntry (fun e => { e with fn := 1 }) (solo 0)) = true := by decide

/-- The aperture of function 0 shows context 0 from page 1 on. -/
def opened (s : State) : State := { paged s with fns := [(0, { Fn.zero with apEnable := true, apBase := 0x1000 })] }

set_option exponentiation.threshold 1024 in
/-- The window at its last byte and past it; AtomicOps aligned, misaligned and on poison; the aperture mapped, not, and derived. -/
theorem hyps_HostAccesses :
    (fun s : State =>
      after (.hostWindowRead 0 8388607 1) s (fun t => decide (t.hostReply = [0])) &&
      after (.hostWindowRead 0 8388608 2) s (fun t => decide (t.hostReply = [0xFF, 0xFF])) &&
      after (.hostWindowWrite 1 0 [7]) s (fun t => t.mem.byte windowBase == 7) &&
      after (.hostWindowWrite 1 524288 [7]) s (fun t => t.mem.byte windowBase == 0) &&
      after (.hostAtomicop 0 8 .fetchAdd false 5 0) s (fun t => t.mem.byte (windowBase + 8) == 5) &&
      after (.hostAtomicop 0 9 .fetchAdd false 5 0) s (fun t => t.hostReply.isEmpty && t.mem.byte (windowBase + 9) == 0) &&
      (match s.aperture 0 (2 ^ 36) false with | .error none => true | _ => false) &&
      (match (opened s).aperture 0 (2 ^ 36) true with | .ok (a, _) => a == far | _ => false) &&
      after (.apertureRead 0 (2 ^ 36) 4) s (fun t => decide (t.hostReply = List.replicate 4 0xFF) && (t.fn 0).errcnt == 1) &&
      after (.apertureRead 0 (2 ^ 36) 4) (opened s) (fun t => t.reqs.length == 1 && (t.fn 0).errcnt == 0) &&
      after (.apertureWrite 0 (2 ^ 36) [7]) (opened s) (fun t => t.mem.byte far == 7) &&
      after (.apertureWrite 0 (2 ^ 36) [7]) s (fun t => (t.fn 0).errcnt == 1) &&
      after (.apertureWrite 0 (2 ^ 36 + 4096) [7]) (registered (opened s)) (fun t => t.mem.byte (far + 4096) == 0 && (t.fn 0).errcnt == 1))
      (State.reset) = true := by decide

/-- Every event of management; a unit corrected, detected, scrubbed. -/
theorem hyps_ManagementAndErrors :
    (fun s : State => decide (s.mode = .running) && s.measurement.length == 64 && s.ownerKeys.isEmpty &&
      after (.firmwareStage 0 2) s (fun t => decide (t.staged = some [0, 0])) &&
      decide ({ s with mode := .waitFirmware }.mode = .waitFirmware) && decide ([1] ∉ s.ownerKeys) &&
      decide (4 ≤ { s with ownerKeys := [[2], [3], [4], [5]] }.ownerKeys.length) &&
      after (.pldmSetPowerLimit 1225) s (fun t => t.powerLimit == 1225) && after (.pldmSetPowerLimit 1226) s (fun t => t.powerLimit == 3600) &&
      after (.pldmSetPowerLimit 1175) s (fun t => t.powerLimit == 3600) &&
      after .thermalStop s (fun t => t.thermalStop) && after .thermalShutdown s (fun t => decide (t.mode = .powerOff)) &&
      after (.droopEvent 0) s (fun t => (t.core 0).droop == 1) &&
      after (.seal 0) s (fun t => t.sealtag.length == 32) &&
      granuleOf far == far && (placeOf far).isSome && (s.flips (.dev far)).isEmpty &&
      after (.softError (.dev far) [3]) s (fun t => !t.badByte far) && after (.softError (.dev far) [3, 8]) s (fun t => t.badByte far) &&
      after (.patrolScrub (.dev far)) { s with errs := [(.dev far, [3])] }
        (fun t => (t.flips (.dev far)).isEmpty && SMap.getD t.errCorrected (sliceOf far) 0 == 1) &&
      { s with errs := [(.dev far, [3, 8])] }.uncorrectable (.dev far) && !{ s with errs := [(.dev far, [3])] }.uncorrectable (.dev far) &&
      (s.devWrite far [1] [true]).badByte far && ({ s with bad := [far] }.devWrite far [1] [false]).badByte far &&
      !({ s with bad := [far] }.devWrite far (List.replicate 64 1) (clean 64)).badByte far)
      (State.reset) = true := by decide

/-- The request has left through port 9. -/
def sent (r : Req) (s : State) : State := { flying r s with fabricOut := [(9, ⟨0, 1, 0, 5, .get far 4, []⟩)] }

/-- A packet of each kind for this package, and one for another; an answer, by itself and as a packet; a link that goes down. -/
theorem hyps_FabricSteps :
    (fun (s : State) (k : PktBody → Packet) (r : Req) =>
      after (.fabricPacketReceive { k (.put far [7]) with dst := 3 }) s (fun t => t.mem.byte far == 0) &&
      after (.fabricPacketReceive (k (.put far [7]))) s (fun t => t.mem.byte far == 7 && t.reqs.isEmpty) &&
      after (.fabricPacketReceive (k (.red .i32 far [3, 0, 0, 0]))) s (fun t => t.mem.byte far == 3) &&
      after (.fabricPacketReceive (k (.atomic .add false far 5 0 0))) s (fun t => t.mem.byte far == 5) &&
      after (.fabricPacketReceive (k (.get far 4))) s (fun t => t.reqs.any (fun e => decide (e.2.ret = .peer 1 9))) &&
      after (.fabricPacketReceive (k (.spad 1 8 [7]))) s (fun t => t.deliveries.length == 1) &&
      after (.fabricPacketReceive (k (.arrive 1 3))) s (fun t => t.deliveries.length == 1) &&
      after (.fabricAcknowledge 5 [1, 2, 3, 4] (clean 4)) (flying r s) (fun t => t.reqs.all (fun e => e.2.value.isSome)) &&
      after (.fabricPacketReceive { k (.reply [1, 2, 3, 4]) with op := 5, poison := clean 4 }) (flying r s) (fun t => t.reqs.all (fun e => e.2.value.isSome)) &&
      after (.fabricAcknowledge 5 [0] [false]) (flying { r with op := .write [7] [false], ret := .op 6 0 }
          { s with ops := [(6, { operation (.fbArrive 1 0 0) with waiting := [5, 7] })] })
        (fun t => t.reqs.isEmpty && t.ops.any (fun e => decide (e.2.waiting = [7]))) &&
      after (.fabricAcknowledge 5 [] []) s (fun t => t.reqs.isEmpty) &&
      (sent r s).leftThrough 9 5 r &&
      after (.linkDown 9) (sent r s) (fun t => faultIs .fabric t && t.reqs.all (fun e => e.2.doneAt == 2)) &&
      after (.linkRetrained 9) { s with linksDown := [9] } (fun t => t.linksDown.isEmpty))
      (solo 0) (fun b => ⟨1, 0, 0, 9, b, []⟩)
      { request (.read 4) (.peer 1 far) (.lanes 3 [(1, 0)] 0 .b32) with doneAt := 1 } = true := by decide

/-! The parts of statements that the words' sources, values and states bring in. -/

/-- A uniform latch and a lane latch of the chain, and a tag that counts. -/
def latched (s : State) : State := counted 1 (onArm (fun p => { p with latches := [.uni 5, .lanes [(0, 7)]] }) s)
/-- Slice 0 is divided: the path has lane 1, another the lanes 0, 2 and 3, all of them active. -/
def divided (s : State) : State :=
  let s := (onGroup (fun g => { g with tops := [(0, ⟨0x1000, 0, 0, 0, 0⟩)] }) (onArm (fun p => { p with mask := 2, exec := 2 }) s)).setPath 5
    { Path.start 3 soloRecord with mask := 13, exec := 13 }
  { s with nextId := 6 }

/-- What SM.MOV reads from a tag word, a latch and a special register; a guard that holds. -/
theorem hyps_UniformWords_sources :
    (fun s : State => meets s (fun x => guardsHold x && decide (x.p.latches[0]? = some (.uni 5))) &&
      after (.smMov ⟨false, false, .always, .reg 1, .k 1, (), (), ()⟩) s (fun t => grp t (fun g => g.sreg 1 == 1)) &&
      after (.smMov ⟨false, false, .always, .reg 1, .t 0, (), (), ()⟩) s (fun t => grp t (fun g => g.sreg 1 == 5)) &&
      after (.smMov ⟨false, false, .always, .reg 1, .flt 31, (), (), ()⟩) s (fun t => grp t (fun g => g.sreg 1 == 0x34000000)) &&
      after (.smMov ⟨false, false, .always, .reg 1, .x .clkhi, (), (), ()⟩) (onGroup (fun g => { g with clk := 3#64 <<< 32 }) s)
        (fun t => grp t (fun g => g.sreg 1 == 3)) &&
      after (.smMov ⟨false, false, .always, .reg 1, .x .grpw, (), (), ()⟩) s (fun t => grp t (fun g => g.sreg 1 == 64)))
      (latched (solo 0)) = true := by decide

/-- Numbers are fresh in a divided slice whose lowest active lane, 0, is the other path's. -/
theorem hyps_LaneIntegerWords_sources :
    (divided (solo 0)).NumbersFresh ∧
    (fun s : State => meets s (fun x => (SMap.find? x.g.tops 0).isSome && (SMap.find? x.g.tops 1).isNone && !hasLane x.g.exited 0 && !hasLane x.p.exec 0 &&
        x.s.paths.any (fun e => e.1 != x.pid && e.2.grp == x.gid && hasLane e.2.mask 0 && hasLane e.2.exec 0)) &&
      after (.vjAddi ⟨false, false, .always, .reg 1, .l .pathid, 0⟩) s (fun t => grp t (fun g => g.vreg 1 1 == 1)) &&
      after (.vjAddi ⟨false, false, .always, .reg 1, .u (.t 1), 0⟩) (latched (solo 0)) (fun t => grp t (fun g => g.vreg 1 0 == 7 && g.vreg 1 1 == 0)))
      (divided (solo 0)) = true := by
  refine ⟨⟨?_, ?_, ?_, ?_, ?_, ?_, ?_, ?_, ?_, ?_⟩, ?_⟩ <;> decide

/-- For each format: a finite pattern and, where there is one, an infinite one; operands finite and infinite; a sum of 0. -/
theorem hyps_RoundingRules_values :
    (FFmt.all.all fun f => decide (f.maxBits < 2 * f.signBit) && decide (f.operand .plain 1 ≠ .inf false) &&
      (match f.operand .plain 0 with | .num false 0 _ => true | _ => false)) = true ∧
    FFmt.f32.operand .plain 0x7F800000 = .inf false ∧ FFmt.f32.operand .plain 0x3F800000 = .num false 8388608 (-23) ∧
    FFmt.fE4m3.val 0x7F = .nan false (7 * 2 ^ 49) true ∧ FEnv.plain.rm < 4 := by decide

/-- MINN of a NaN and a number, of two NaNs, of two numbers; a value with a fraction, for the whole numbers; FRACT that would round to
1; LDEXP at its ends; GETEXP of zero, of a subnormal and of an infinity. -/
theorem hyps_FloatWords_values :
    (fun v : FEnv =>
      FFmt.f32.val 0x7FC00001 == .nan false (2 ^ 29 * 4194305) true && (FFmt.f32.val 0x3F800000).isNan == false &&
      FFmt.f32.minMaxNum v true 0x7FC00001 0x3F800000 == (0x3F800000, .none) &&
      FFmt.f32.minMaxNum v false 0x80000000 0 == (0x80000000, .none) &&
      FFmt.f32.operand v 0xBFC00000 == .num true 12582912 (-23) &&
      FFmt.f32.integral v 3 false 0xBFC00000 == (0xC0000000, .none) && FFmt.f32.integral v 0 true 0xBF000000 == (0x80000000, .nx) &&
      FFmt.f32.fract v 0xB0000000 == (0x3F7FFFFF, .nx) &&
      FFmt.f32.ldexp v 0x3F800000 (-151) == (0, .uf ||| .nx) &&
      FFmt.f32.getexp v 0 == (0xFF800000, .dz) && FFmt.f32.getexp v 0x7F800000 == (0x7F800000, .none) &&
      FFmt.f32.getexp v 1 == (0xC3150000, .none) && FFmt.f32.getmant v 0xC0400000 == (0xBFC00000, .none))
      ⟨0, false, false, false, false⟩ = true := by decide

/-- Rows of CV.CVT of each kind at their limits; a constant that E4M3 holds; quantising with a block scale that is positive, zero and
infinite; a code that reaches; stochastic rounding below, at and past the largest value. -/
theorem hyps_ConversionWords_values :
    (fun v : FEnv =>
      convert v .f32E4m3 0x7E == (0x43E00000, .none) && convert v .e4m3F32 0x7F800000 == (0x7F, .nv) &&
      convert { v with satn := true } .e4m3F32 0xFF800000 == (0xFE, .nv ||| .satf) &&
      convert { v with satn := true } .i8I32 0xFFFFFF00 == (0x80, .satf) && convert v .f32I32 0xFFFFFFFF == (0xBF800000, .none) &&
      convert v .i64F64 0xBFF8000000000000 == (0xFFFFFFFFFFFFFFFE, .nx) &&
      nqCode v 0x3F800000 0x3F800000 == (15, .none) && nqCode v 0xBF800000 0 == (0, .nv) && nqCode v 0x7FC00000 0x3F800000 == (15, .none) &&
      scaleOf v 0x3F800000 0x3F800000 == 255 && scaleOf v 0x3F000000 0x3F800000 == 128 && scaleOf v 0x7FC00000 0x3F800000 == 255 &&
      scaleOf v 0 0 == 1 && blockScale 0x7F800000 0 == 0x7FC00000 &&
      FFmt.fE4m3.stochastic v 0 (.num false 448 0) == (0x7E, .none) && FFmt.fE4m3.stochastic v 65535 (.num false 479 0) == (0x7F, .of ||| .nx) &&
      FFmt.fE4m3.stochastic v 0 (.num false 479 0) == (0x7E, .nx) && FFmt.fE4m3.stochastic v 0 (.num false 480 0) == (0x7F, .of ||| .nx) &&
      FFmt.fE4m3.stochastic v 32768 (.num false 33 (-5)) == (0x38, .nx))
      ⟨0, false, false, false, false⟩ = true := by decide

/-- Reciprocal and roots of 2.0, whose value and bounds the rule's grid holds; a power of two and its logarithm. -/
theorem hyps_SpecialFunctions_values :
    (fun v : FEnv => FFmt.f32.val 0x40000000 == .num false 8388608 (-22) && decide ((-150 : Int) < FFmt.qmin .f32) &&
      rcp v 0x40000000 == (0x3F000000, .none) && rsq v 0x40000000 == (0x3F3504F3, .nx) && sqrtF v 0x40800000 == (0x40000000, .none) &&
      FFmt.f32.round ⟨0, false, false, false, false⟩ false true 126 0 == (0xC2FC0000, .none) &&
      exp2F v 0xC2FC0000 == (0x00800000, .none) && log2F v 0x00800000 == (0xC2FC0000, .none))
      ⟨0, false, false, false, false⟩ = true := by decide

/-- A second path of the group, with these lanes. -/
def second (n : Nat) (m : Lanes) (f : Path → Path) (s : State) : State :=
  { (s.setPath n (f { Path.start 3 soloRecord with mask := m, exec := m })) with nextId := n + 1 }

/-- CL.SHTL outside a twin launch faults under a guard that does not hold too; a path that waits in it holds its group's other path; the exchange
with a path that waits. -/
theorem hyps_HalfExchange_waits :
    after (.clShtl ⟨false, false, .uni 15 false, .reg 0, 1, (), (), ()⟩) (solo 0) (faultIs .illegalInstruction) = true ∧
    meets (second 5 2 (fun p => { p with wait := .shtl 0 none 2 0 }) (solo 0)) (fun x => !x.ready) = true ∧
    after (.clShtl ⟨false, false, .always, .reg 0, 1, (), (), ()⟩)
      ((twinned 1 false (solo 0)).setPath 6 { Path.start 5 soloRecord with wait := .shtl 0 (some 7) 2 0 })
      (fun t => (SMap.find? t.paths 6).any (fun r => decide (r.wait = .none))) = true := by decide

/-- A line of the load buffer that a load hits; a fence toward L that drops it; an earlier access of the lane to it. -/
def lined (s : State) : State :=
  mapped (addressed 0x10000 (laneZero (s.setCore 0 { s.core 0 with loads := [⟨0x200000000000 / 128, List.replicate 128 9, List.replicate 128 false, false⟩] })))
theorem hyps_Loads_lines :
    (fun (s : State) (ld : Option Scope → Instr) =>
      numbered s && after (ld none) s (fun t => t.reqs.all (fun e => e.2.value.isSome)) &&
      after (ld (some .team)) s (fun t => t.reqs.any (fun e => e.2.value.isNone) && arm t (fun p => p.acquires.length == 1 && p.fresh)) &&
      after (ld none) (onGroup (fun g => { g with xf := [⟨[], ⟨true, false, false, false, false⟩, true⟩] }) s)
        (fun t => t.reqs.any (fun e => e.2.value.isNone)) &&
      after (ld none) { flying (request (.read 4) (.dev 0x200000000040) (.lanes 3 [(1, 0)] 9 .b32)) s with nextId := 6 }
        (fun t => t.reqs.all (fun e => e.2.value.isNone)) &&
      after (.st ⟨false, false, .always, none, .u (.neg 0), .s 1, .u (.nat 0), .b32, 0⟩) s (fun t => (t.core 0).loads.isEmpty) &&
      after (.atXrd ⟨false, false, .always, none, 8, .s 1, (), true, 0⟩) s (fun t => (t.core 0).loads.isEmpty))
      (lined (solo 0)) (fun o => .ld ⟨false, false, .always, o, 8, .s 1, .u (.nat 0), .b32, 0⟩) = true := by decide

/-- Two bytes of one scratchpad word, read by one request. -/
theorem hyps_Loads_words :
    after (.ld ⟨false, false, .always, none, 8, .s 1, .v 9, .z8, 0⟩)
      (onGroup (fun g => (g.setV 9 0 1).setV 9 1 3) (onArm (fun p => { p with exec := 3 })
        (onEntry (fun e => { e with body := { e.body with spad := 1 } }) (addressed spadOwn (solo 0)))))
      (fun t => decide (t.reqs.map (fun e => e.2.op) = [.read 4]) && t.reqs.all (fun e =>
        decide (e.2.ret = .lanes 3 [(1, 1), (2, 3)] 8 .z8))) = true := by decide

/-- A phase that ends with a fence: what it covers, and another path that waits there. -/
theorem hyps_Barriers_fenced :
    (fun s : State => meets s (fun x => SMap.rising x.s.paths && decide (x.pid = 4)) && s.reqs.any (fun e => e.2.value.isNone && e.2.team == 2) &&
      after (.snBar ⟨false, false, .always, (), (), ⟨true, 1⟩⟩) s (fun t =>
        grp t (fun g => !g.xf.isEmpty && g.xf.all (fun h => decide (h.ids = [5]) && h.dst.l && h.dst.g && h.dst.m)) &&
        (SMap.find? t.paths 6).any (fun r => decide (r.wait = .none)) && (t.core 0).loads.isEmpty) &&
      after (.snBarw ⟨false, false, .always, (), .nat 0, 1⟩) (s.modTeam 2 (fun u => u.setBar 1 ⟨2, 0, true, false, [5], false⟩))
        (fun t => grp t (fun g => g.xf.any (fun h => decide (h.ids = [5])))))
      ((second 6 2 (fun p => { p with wait := .barrier 1 false }) (onArm (fun p => { p with mask := 1, exec := 1 })
        (flying (request (.read 4) (.dev far) (.lanes 3 [(1, 0)] 9 .b32)) (solo 0)))).modTeam 2 (fun u => u.setBar 1 ⟨2, 1, false, false, [], false⟩))
      = true := by decide

/-- An operation that makes a release while an access of its path is in flight, and behind a barred tag; two lanes whose copies merge
into one line request and one whose line is another. -/
theorem hyps_CopyWords_releases :
    (fun s : State =>
      after (.cpArrv ⟨false, false, .always, 1, none, .s 1, .nat 15, (), ()⟩) (flying (request (.read 4) (.dev far) (.uni 3 1 .b32)) s)
        (fun t => t.ops.all (fun o => decide (o.2.release = [5]))) &&
      after (.cpStamp ⟨false, false, .always, 1, none, 1, .nat 5, (), false⟩) (onGroup (fun g => g.setTag 1 ⟨1, 1, true⟩) (addressed 8 s))
        (fun t => t.ops.all (fun o => o.2.barred)) &&
      after (.cpLane ⟨false, false, .always, 1, none, .v 9, .v 9, .u (.nat 4), .b32⟩)
        (onGroup (fun g => (g.setV 18 1 32).setV 18 2 128) (onArm (fun p => { p with exec := 7 }) s))
        (fun t => decide (t.ops.map (fun o => o.2.lanes) = [3, 4]) && grp t (fun g => (g.tag 1).count == 3)))
      (solo 0) = true := by decide

/-- A combine record's table that is misaligned, and one brought with poison. -/
theorem hyps_FabricWords_tables_refused :
    after (.fbCmb ⟨false, false, .always, 1, none, 1, (), (), ()⟩) (addressed 8 (solo 0)) (faultIs .misaligned) = true ∧
    after (.fbCmb ⟨false, false, .always, 1, none, 1, (), (), ()⟩)
      (mapped (onArm (fun p => { p with tables := [⟨0x10000, 64, [], [3], [], false⟩] }) (addressed 0x10000 (solo 0))))
      (fun t => arm t (fun p => decide (p.wait = .stopped)) &&
        (SMap.find? t.entries 1).any (fun e => e.faults.any (fun f => decide (f.code = .poison) && !f.precise && decide (f.detail = 0)))) = true := by
  decide

/-- Reductions of two elements, the second of them poisoned; a wrap; an exact contribution. -/
theorem hyps_FabricWords_reductions :
    redAll .i32 [255, 255, 255, 255, 1, 0, 0, 0] [false, false, false, false, true, false, false, false] [2, 0, 0, 0, 2, 0, 0, 0] (clean 8)
      = ([1, 0, 0, 0, 1, 0, 0, 0], clean 4 ++ List.replicate 4 true) ∧
    redAll .bf16 [0x80, 0x3F] (clean 2) [0x80, 0x3F] (clean 2) = ([0, 0x40], clean 2) ∧
    redAll .f16 [0, 0x3C] (clean 2) [0, 0x3C] (clean 2) = ([0, 0x40], clean 2) ∧
    redAll .f32 [0, 0, 0x80, 0x3F] (clean 4) [0, 0, 0x80, 0x3F] (clean 4) = ([0, 0, 0, 0x40], clean 4) ∧
    (redAll .xc (List.replicate 64 0) (clean 64) [0, 0, 0, 0] (clean 4)).1.length = 64 := by decide

/-- A drain to E4M3 and a fill from it at their limits. -/
theorem hyps_MatrixWords_casts :
    drainCast ⟨false, false, 0, .e4m3⟩ 0xC4000000 = 0xFF ∧ drainCast ⟨true, false, 0, .e4m3⟩ 0xC4000000 = 0xFE ∧ fillCast .e4m3 0x7E = 0x43E00000 := by decide

/-- The FMT and FSTAT of what a regang puts together: slices of two paths, and the two arms of one slice; a cycle that a regang word
keeps while a path of the group goes on, and one that is. -/
theorem hyps_JoinsAndRegangs_state :
    (fun s : State => s.paths.length == 2 && SMap.rising s.paths &&
      (match SMap.find? (s.regangCheck 3).paths 4 with
        | some p => p.fmt == 3 && p.fstat == 0x45 && p.mask == 0xFF && decide (p.wait = .none)
        | none => false) && (s.regangCheck 3).paths.length == 1)
      (onGroup (fun g => { g with exited := 0xFFFFFFFFFFFFFF00 }) ((onArm (fun p => { p with mask := 0xF, exec := 0xF, fmt := 3, fstat := 1, wait := .regang 0 0 }) (solo 0)).setPath 5
        { Path.start 3 soloRecord with mask := 0xF0, exec := 0xF0, fmt := 5, fstat := 4, wait := .regang 0 0 })) = true ∧
    (fun s : State => (match SMap.find? (s.regangCheck 3).paths 4 with
        | some p => p.fmt == 3 && p.fstat == 5 && p.mask == 0xF && p.exec == 0xF && decide (p.wait = .none)
        | none => false) && ((s.regangCheck 3).paths.length == 1))
      ((armed (.regang 0 0) (.regang 0 0) (onArm (fun p => { p with fmt := 3, fstat := 1 }) (solo 0))).modPath 5 (fun p => { p with fmt := 5, fstat := 4 }))
      = true := by decide

/-- BR.CALLV whose entry's word lies in a tile that is not valid; BR.CALLV's second lane; SY.BKPT's numbers. -/
theorem hyps_GroupAndPathWords_debug :
    (fun s : State =>
      after (.syBkpt ⟨false, false, .always, (), (), ()⟩) s (fun t => (t.fn 0).dbgId == 2 && (SMap.find? t.teams 2).any (fun u => u.debug)))
      { onArm (fun p => { p with safe := some 3 }) (solo 0) with fns := [(0, { Fn.zero with debug := true })] } = true := by decide

/-- SY.TRAP while its team is being saved; a trap that waits, and then enters whatever its guard says. -/
theorem hyps_Traps_waits :
    (fun s : State =>
      after (.syTrap ⟨false, false, .always, (), .nat 5, true⟩) ((handled s).modTeam 2 (fun u => { u with save := some ⟨0, false, false, false⟩ }))
        (fun t => arm t (fun p => decide (p.wait = .handler true 5 0))) &&
      after (.syTrap ⟨false, false, .uni 15 false, (), .nat 6, false⟩) (onArm (fun p => { p with wait := .handler true 5 0, entry := 72 }) (handled s))
        (fun t => arm t (fun p => p.pc == 64 && p.trapCode == 0x10 && p.trapArg == 5 && p.bindAddr == 72)))
      (solo 0) = true := by decide

/-- DV.REG with a constant pair; waiting for a store of its group; going on; IC.INV behind an earlier access. -/
theorem hyps_DerivationWords_waits :
    (fun s : State =>
      after (.dvReg ⟨false, false, .always, 0, .neg 0, (), (), ()⟩) s (faultIs .misaligned) &&
      after (.dvReg ⟨false, false, .always, 0, .nat 1, (), (), ()⟩) s (faultIs .misaligned) &&
      meets (flying (request (.read 4) (.dev far) (.uni 3 1 .b32)) s) (fun x => !x.wordReady (.icInv ⟨false, false, .always, (), 1, .nat 1, (), ()⟩)))
      (solo 0) = true := by decide

/-! Owners and operations: the parts of writes, lines and tables. -/

/-- Operation 6 of the path, under tag 1. -/
def running (o : Op) (s : State) : State := { s with ops := [(6, o)], nextId := 7 }

set_option exponentiation.threshold 1024 in
/-- A line's second half where the first has been read, for a load in either half; a copy's bytes that land in parts, at
memory and at a scratchpad; an atomic and an exact reduction that meet poison. -/
theorem hyps_OwnerSteps_parts :
    (fun (s : State) (rd : Nat → Req) (wr : Target → Req) =>
      after (.sliceRead 5) (flying { rd (far + 64) with half := some (List.replicate 64 1, clean 64) } s) (fun t =>
        (t.core 0).loads.length == 1 && t.reqs.all (fun e => e.2.value.any (fun v => decide (v.1 = [0, 0, 0, 0])))) &&
      (let u := running (operation (.bulk 0 0 2 1 0 0)) (flying (wr (.dev far)) s)
       u.mayPerform 5 (wr (.dev far)) && decide (SMap.find? u.ops 6 = some (operation (.bulk 0 0 2 1 0 0)))) &&
      (let u := running (operation (.bulk 0 0 2 1 0 0)) (flying { wr (.spad 2 0 8) with part := [0] } s)
       u.mayPerform 5 { wr (.spad 2 0 8) with part := [0] } && (SMap.find? u.teams 2).isSome) &&
      after (.sliceAtomic 5) (flying (request (.atomic .add false 5 0 0) (.dev far) (.atom 3 0 8 false)) { s with bad := [far] }) (faultIs .poison) &&
      after (.sliceAtomic 5) (flying (request (.red .xc [0, 0, 0x80, 0x3F] (clean 4)) (.dev far) .none) { s with bad := [far] }) (faultIs .poison))
      (solo 0) (fun a => request (.read 4) (.dev a) (.lanes 3 [(1, 0)] 0 .b32))
      (fun t => { request (.write [7, 8] (clean 2)) t (.op 6 0) with path := .c, src := 256 }) = true := by decide

/-- A table and a line that take a part of their bytes; an answer to two lanes; two elements of one word; poison that came by a link. -/
theorem hyps_AnswersAndWaits_parts :
    (fun (s : State) (r : Ret → List Byte → List Bool → Req) =>
      after (.loadReturn 5) (flying (r (.table 4 0 8) [9, 9] (clean 2))
          (onArm (fun p => { p with tables := [⟨0, 16, [], [], [5, 6], false⟩] }) s))
        (fun t => arm t (fun p => p.tables.any (fun u => decide (u.left = [6]) && SMap.getD u.data 8 0 == 9))) &&
      after (.loadReturn 5) (flying (r (.line 6 64) [9] [false]) { s with fills := [(6, ⟨0, 0, 1, 4, ⟨256, 256, [], [], [5, 7], false⟩⟩)] })
        (fun t => (SMap.find? t.fills 6).any (fun u => decide (u.got.left = [7]) && SMap.getD u.got.data 64 0 == 9)) &&
      after (.loadReturn 5) (flying (r (.lanes 3 [(1, 0), (2, 1)] 8 .z8) [9, 7, 0, 0] (clean 4)) (awaited [512, 513] s))
        (fun t => grp t (fun g => g.vreg 8 0 == 9 && g.vreg 8 1 == 7 && g.due.isEmpty)) &&
      after (.loadReturn 5) (flying (r (.elem 3 2 [(0, 8, 0, 0), (0, 8, 2, 2)]) [1, 2, 3, 4] (clean 4)) (awaited [512] s))
        (fun t => grp t (fun g => g.vreg 8 0 == 0x04030201)) &&
      after (.loadReturn 5) (flying { r (.uni 3 8 .z8) [9] [true] with mesh := true } s)
        (fun t => (SMap.find? t.entries 1).any (fun e => e.faults.any (fun f => f.detail == 2))))
      (solo 0) (fun a d b => { request (.read d.length) (.dev far) a with value := some (d, b) }) = true := by decide

/-- The end of a line request of two lanes; a release that holds a stamp; an arrival for this module and for a peer; a payload that
would lie beyond the scratchpad, and one that lands in parts. -/
theorem hyps_OperationSteps_parts :
    (fun (s : State) (d : List Nat → State → State) =>
      after (.copyComplete 5) ({ onGroup (fun g => g.setTag 1 ⟨2, 0, false⟩) (inFlight { operation (.lane [⟨0, 0, 4, true⟩, ⟨4, 4, 4, true⟩] 4) with started := true } s) with nextId := 6 })
        (ended 0) &&
      after (.stampWrite 6) (running { operation (.stamp 0x10000 9 false) with release := [5] } (flying (request (.read 4) (.dev far) (.uni 3 1 .b32)) s))
        (fun t => t.mem.isEmpty && t.ops.length == 1) &&
      after (.arrivalLand 5) (inFlight (operation (.fbArrive 0 handle 3)) s) (fun t => t.deliveries.any (fun x => x.2.bar == 3)) &&
      after (.arrivalLand 5) (inFlight (operation (.fbArrive 1 handle 3)) (paired s)) (fun t => t.reqs.any (fun x => decide (x.2.op = .arrive handle 3))) &&
      after (.deliveryLand 5) (d [] (behind s)) (fun t => t.deliveries.isEmpty && t.ops.any (fun o => o.2.failed && o.2.status == 4)) &&
      (onEntry (fun e => { e with body := { e.body with spad := 1 } }) (d [0] (behind s))).ops.all (fun o => o.2.pieces.all (fun q => !q.last)))
      (solo 0)
      (fun p s => { running { operation (.mcast 0 2 8 [handle] none) with
          pieces := [⟨.given, .team handle 8, 2, 0, some ([7, 7], clean 2), true, true, 5, 0, false, 0⟩], waiting := [5], started := true } s with
        deliveries := [(5, ⟨0, 1, handle, some (8, [7, 7], clean 2), 0, .op 6 0, p⟩)] }) = true := by decide

/-- What may be written: the second row of a bulk copy when the first has landed; a stamp that lands last. -/
theorem hyps_OperationSteps_order :
    (fun (s : State) (q : Bool → Bool → Nat → Piece) =>
      (let o := { operation (.bulk 0 0 4 2 4 4) with pieces := [q true false 0, q false false 1] }
       s.mayPut o 1 (q false false 1) && !s.mayPut { o with pieces := [q false false 0, q false false 1] } 1 (q false false 1)) &&
      (let o := { operation (.put ⟨true, false, false⟩ []) with pieces := [q true false 0, q false true 0] }
       s.mayPut o 1 (q false true 0) && !s.mayPut { o with failed := true } 1 (q false true 0)) &&
      (let o := { operation (.lane [⟨0, 8, 4, true⟩, ⟨4, 8, 4, true⟩] 4) with pieces := [q true false 0, q false false 1] }
       s.mayPut o 1 (q false false 1)))
      (solo 0) (fun put last key => ⟨.given, .mem 8, 4, 0, some ([1, 1, 1, 1], clean 4), true, put, 0, key, last, 0⟩) = true := by decide

/-- Values for a multiply's sums: finite, of both signs of zero, infinite, none; a row of a granule with one wrong word, and with two. -/
theorem hyps_MatrixSteps_values :
    groupSum [.num true 0 0, .num true 0 0] = .num true 0 0 ∧ groupSum [.num true 0 0, .num false 0 0] = .num false 0 0 ∧
    groupSum [.inf true, .num false 1 0] = .inf true ∧ (groupSum [.inf true, .inf false]).isNan = true ∧
    accAdd 0x3F800000 (.num false 1 0) = 0x40000000 ∧ accAdd 0x7FC00001 (.num false 1 0) = 0x7FC00000 ∧
    accAdd 0x7F800000 (.inf true) = 0x7FC00000 ∧ accAdd 0x3F800000 (.inf true) = 0xFF800000 ∧
    productOf (.inf true) (.num false 3 0) = .inf true ∧ (productOf (.inf true) (.num false 0 0)).isNan = true ∧
    FFmt.f32.val 0xFF800000 = .inf true ∧ FFmt.f32.val 0xC4000000 = .num true 8388608 (-14) := by decide

theorem hyps_MatrixSteps_correction :
    (fun (s : State) (at_ : OpKind → State → State) (acc : SMap Word → State → State) =>
      (acc [(0, 1)] s).rowXor 2 0 0 == 1 && (acc [(0, 1)] s).colXor 2 0 0 0 == 1 &&
      after (.matrixOpComplete 5) (at_ (.check 0 64) (acc [(0, 1)] s)) (fun t => ended 0 t && SMap.getD (t.sideOf 2 0).acc 0 0 == 0) &&
      after (.matrixOpComplete 5) (at_ (.check 0 64) (acc [(0, 1), (65, 1)] s)) (faultIs .accIntegrity))
      (solo 0) (fun k s => let s := inFlight (operation k) s; s.setCore 0 { s.core 0 with mxOrder := [5] })
      (fun a s => s.modTeam 2 (fun u => { u with side0 := { u.side0 with acc := a } })) = true := by decide

/-! Translations, registers, launches, faults, management and the fabric: the further clauses. -/

/-- A fallback slot that is filled: 256 lines, each of them locked. -/
def lockedLines (s : State) : State :=
  s.setCore 0 { s.core 0 with code := (List.range 256).map (fun (k : Nat) => CodeLine.mk 0 (1000 + k) [] [] [3] 0 []) }
theorem hyps_TranslationSteps_fallback :
    (fun s : State => decide (s.victim 0 = none) && decide (256 ≤ (s.core 0).code.length) &&
      after (.lineFill 5) s (fun t => t.fills.isEmpty && grp t (fun g => g.fallback.any (fun b => b.arm == 4 && !b.used)))) (filling (lockedLines (solo 0))) = true := by
  decide

/-- A monitor on the line of a leaf whose A bit is set wakes; an answer of the host that carries a grant. -/
theorem hyps_TranslationSteps_monitor :
    (fun s : State =>
      after (.pageWalkComplete 5) (walking 0 (paged (onGroup (fun g => { g with monitor := ⟨some (.dev 0x200000005000), false⟩ }) s)))
        (fun t => grp t (fun g => g.monitor.wake)) &&
      (walking 2 (priOn s)).walks.all (fun e => (SMap.find? s.paths e.2.arm).isSome) &&
      (walking 2 s).walks.all (fun e => e.2.core != queueUnit && (SMap.find? s.ops e.2.arm).isNone))
      (solo 0) = true := by decide

set_option exponentiation.threshold 1024 in
/-- A recompute that a write passed; a source's second base; the rules' values at their ends: cvt, rsum, QNT. -/
theorem hyps_RecomputeSteps_values :
    (fun s : State => after (.recomputeComplete 0 0) (computing false 2 s) (fun t => decide (t.tileState 0 0 = some .computing) &&
      t.recomputes.any (fun r => r.tries == 0) && t.mem.byte (far + 4096) == 9))
      (tileIs .computingStale (registered { solo 0 with mem := [(far, 9)] })) = true ∧
    (fun v : FEnv => (Elem.int 256).convert v 7 == 0 && (Elem.int 256).convert { v with satn := true } 7 == 127 &&
      (Elem.int (-1)).convert v 0 == 0xBF800000 && (Elem.flt (.num false 3 (-1))).convert v 5 == 2 &&
      (Elem.flt (.inf true)).convert v 3 == 0xFF && (Elem.flt (.nan true 0 true)).convert { v with nanc := true } 1 == 0x7E00 &&
      sumElems v 5 [.int 2147483647, .int 1] == 0x80000000 && sumElems v 0 [.flt (.num true 0 0), .flt (.num true 0 0)] == 0x80000000 &&
      sumElems v 0 [.flt (.inf true), .flt (.inf false)] == 0x7FC00000 && sumElems v 0 [.flt (.num true 1 0), .flt (.num false 3 0)] == 0x40000000)
      ⟨0, false, false, false, false⟩ = true ∧
    scaleCode 0x3F800000 (blockMax [.flt (.num false 1 0)]) 1 255 = 255 ∧
    quantCode (FFmt.f32.val (blockScale 0x3F800000 255)) (.flt (.num true 1 0)) = 0 ∧
    quantCode (.num false 1 0) (.flt (.inf false)) = 15 ∧ quantCode (.inf false) (.flt (.num false 1 0)) = 15 := by decide

/-- What the host reads: ID, a queue's controls, a virtual function's reading of the module's registers; the kick page. -/
theorem hyps_HostRegisters_reads :
    (fun s : State => s.readReg 0 0x1008 == 4 + 2 ^ 16 && s.readReg 1 0x80020 == 0 && s.readReg 0 0x80020 == 0x30002 && s.readReg 0 0x38 == 0 &&
      s.readReg 0 0x90008 == 2 ^ 32 && readKick 0 0 0 == 0 && decide (s.writeKick 0 0 8 8 1 = s))
      { queued id State.reset with peerid := 2, domsize := 3 } = true := by decide

/-- A seal that begins, one that is ignored, one whose work is there to end; ATTCMD's values. -/
theorem hyps_HostRegisters_seal :
    (fun s : State => decide (s.sealJob = none) &&
      after (.seal 5) s (fun t => t.sealcmd == 2 ^ 63 + 5 && decide (t.sealJob = some 64)) &&
      after (.sealCheck 5) s (fun t => t.sealcmd == 2 ^ 63 + 2 ^ 62 + 5) &&
      after (.seal 5) { s with sealJob := some 64, sealcmd := 2 ^ 63 + 2 ^ 62 + 9 } (fun t => t.sealcmd == 2 ^ 63 + 2 ^ 62 + 9) &&
      after (.attcmd 2) s (fun t => t.host.isEmpty) && s.measurement.length == 64)
      { State.reset with sealaddr := 64 } = true := by decide

set_option exponentiation.threshold 1024 in
/-- An entry that was read already; a ring that does not translate, whose walk is on its way, at the host, in a tile that is not valid. -/
theorem hyps_QueueEntries_reads :
    (fun s : State =>
      after (.entryFetch 0 0) ((ringed 0 s).setQueue 0 0 { (ringed 0 s).queue 0 0 with got := some (launchWord + 2 ^ 900) })
        (fun t => (t.queue 0 0).status == 2 && decide ((t.queue 0 0).got = none)) &&
      after (.entryFetch 0 0) { ringed 0 s with contexts := [(0, ⟨0, false, false, 0, false, 0⟩)] } (fun t => (t.queue 0 0).status == 2) &&
      decide ({ ringed 0 s with contexts := [(0, ⟨0, false, true, 0, true, 0⟩)] }.queueTrans 0 0x1000 .read = .wait 0x1000) &&
      after (.entryFetch 0 0) { ringed 0 s with contexts := [(0, ⟨0, false, true, 0, true, 0⟩)] } (fun t => t.walks.length == 1 && (t.queue 0 0).head == 0) &&
      (match ({ ringed 0 s with contexts := [(0, ⟨0, false, true, 0, true, 0⟩)], tlb := [⟨queueUnit, 0, 0x1000, ⟨2, 0, 64, 12, false, false, false, true, true, 0⟩⟩] }).queueTrans 0 0x1000 .read with
        | .at_ (.host _) _ _ => true | _ => false) &&
      after (.entryFetch 0 0) { ringed 0 s with derivs := [{ transposed with pagesD := [⟨0x2000, far, 12, 0⟩] }] }
        (fun t => t.entries.isEmpty && decide (t.tileState 0 0 = some .computing)))
      (State.reset) = true := by decide

set_option exponentiation.threshold 1024 in
/-- A stamp wait on a tile that is not valid; a barrier behind an earlier entry; an entry's partition word at its ends. -/
theorem hyps_QueueEntries_waits :
    (fun s : State =>
      after (.stampWaitHolds 1 false) { onEntry (fun e => { e with w0ok := false, w0Pa := far }) (entered 0 s) with
          derivs := [{ transposed with pagesD := [⟨0x2000, far, 12, 0⟩] }] }
        (fun t => t.entries.all (fun e => !e.2.w0ok) && decide (t.tileState 0 0 = some .computing)) &&
      after (.barrier 1) ((fun t : State => { t with entries := t.entries.map (fun e => (0, e.2)) ++ t.entries })
          (onEntry (fun e => { e with phase := .started }) (entered 1 s)))
        (fun t => t.entries.length == 2))
      (solo 0) = true ∧
    (fun b : EntryRec => decide (b.acc ≤ 192) && decide (1 ≤ b.regs) && decide (b.regs ≤ 256)) { soloRecord with acc := 192 } = true ∧
    poolPlace 786431 = (47, 16383) := by decide

/-- A team placed beside what runs on its core; a group whose partner waits at CL.SHTL for what it never supplies. -/
theorem hyps_TeamPlacement_runs :
    (fun s : State => after (.teamPlace 0) (onPart 1 s) (fun t => t.teams.all (fun u => (u.2.runs0.taken soloRecord).length == 3) &&
        (t.core 0).loads.isEmpty)) (entered 0 (solo 0)) = true ∧
    after (.groupRetire 3) ((fun t : State => { t with paths := t.paths.filter (·.1 != 4) }) (onPart 1 (onGroup (fun g => { g with exited := BitVec.allOnes 64 })
        ((twinned 0 false (solo 0)).setPath 6 { Path.start 5 soloRecord with wait := .shtl 0 (some 7) 2 0 }))))
      (fun t => (SMap.find? t.paths 6).any (fun r => decide (r.wait = .none)) && (SMap.find? t.groups 3).any (·.retired)) = true := by decide

set_option exponentiation.threshold 1024 in
/-- A watchdog after the first fault; a drain that a request holds; a reset that waits for what it invalidated, and whose drain is not over. -/
theorem hyps_FaultSteps_late :
    (fun s : State =>
      after (.watchdog 1) (onEntry (fun e => { e with wdOn := true, wdLeft := 0, wdPhase := 1, fault := some (faultEv 1 .fabric), faultAt := 0 }) s)
        (fun t => t.entries.any (fun e => e.2.nfault == 1 && e.2.fault.any (fun f => decide (f.code = .watchdog)))) &&
      after (.watchdog 1) (onEntry (fun e => { e with wdOn := true, wdLeft := 0, wdPhase := 1, fault := some (faultEv 1 .fabric), faultAt := 0 }) { s with cycle := 9 })
        (fun t => t.entries.any (fun e => e.2.nfault == 1 && e.2.fault.any (fun f => decide (f.code = .fabric)))) &&
      after (.faultDrainDone 1) (flying { request (.write [7] [false]) (.peer 1 far) .none with doneAt := 1 }
          (onEntry (fun e => { e with phase := .draining, fault := some (faultEv 0 .address) }) (queued id s)))
        (fun t => t.entries.length == 1))
      (solo 0) = true ∧
    (fun s : State =>
      after (.vfResetDrainDone 1) (flying { request (.read 4) (.dev far) .none with fn := 1 } { s with fns := [(1, { Fn.zero with reset := 1 })] })
        (fun t => t.vfrstBusy == 1) &&
      after (.vfResetDrainDone 1) (flying (request (.read 4) (.dev far) .none) { s with fns := [(1, { Fn.zero with reset := 5 })], invals := [⟨3, [5]⟩] })
        (fun t => t.vfrstBusy == 1) &&
      after (.vfResetDrainDone 1) { s with fns := [(1, { Fn.zero with reset := 5 })], invals := [⟨3, [5]⟩] } (fun t => t.vfrstDone == 1) &&
      after (.vfResetDrainTimeout 1) (flying { request (.read 4) (.peer 1 0) .none with fn := 1 } { s with cycle := 74999999, fns := [(1, { Fn.zero with reset := 1 })] })
        (fun t => t.reqs.length == 1))
      { onEntry (fun e => { e with fn := 1 }) (solo 0) with vfrstBusy := 1 } = true := by decide

/-- A save that keeps an accumulator row of the group's window, and drops one beyond it; a team that a breakpoint stopped; one that waits
at CL.SHTL. -/
theorem hyps_Preemption_rows :
    (fun s : State => after (.preemptSave 2) (saving 1 s) (fun t => (SMap.find? t.teams 2).any (fun u =>
        SMap.getD u.side0.acc 0 0 == 5 && SMap.getD u.side0.acc 64 0 == 0 && decide (u.place = .saved))) &&
      after (.preemptSave 2) ((saving 0 s).modTeam 2 (fun u => { u with save := some ⟨0, false, true, false⟩ })) (fun t => (SMap.find? t.teams 2).any (fun u =>
        SMap.getD u.side0.acc 0 0 == 5)))
      (windowed 0 1 ((crowded 1 (solo 0)).modTeam 2 (fun u => { u with side0 := { u.side0 with acc := [(0, 5), (64, 6)] } }))) = true := by decide

/-- A vector register with one flipped bit, and with two; a droop at the second core of a twin pair; an oscillator. -/
theorem hyps_ManagementAndErrors_units :
    (fun s : State =>
      after (.softError (.vreg 3 63 255) [0]) s (fun t => grp t (fun g => g.bad.isEmpty)) &&
      after (.softError (.vreg 3 63 255) [0, 38]) s (fun t => grp t (fun g => decide (g.bad = [64 * 255 + 63]))) &&
      after (.droopEvent 1) (twinned 0 false s) (fun t => t.teams.all (fun u => u.2.droop1 == 1 && u.2.droop0 == 0)) &&
      (s.oscillator 3 15).isSome && (s.oscillator 4 0).isNone && meets { s with thermalStop := true } (fun x => !x.ready))
      (solo 0) = true := by decide

/-- A packet that leaves through the one link that is up; a peer without a route; an address that is no memory; a poisoned cell; an
answer that tells of each. -/
theorem hyps_FabricSteps_routes :
    (fun (s : State) (k : PktBody → Packet) (r : ReqOp → Ret → Req) =>
      after (.sliceRead 5) (flying (r (.read 4) (.uni 3 8 .b32)) { s with routes := [(1, 3)], linksDown := [0] }) (fun t => t.fabricOut.length == 1) &&
      after (.sliceWrite 5) (flying (r (.write [7] [false]) .none) s) (fun t => faultIs .fabric t && t.fabricOut.isEmpty) &&
      after (.fabricPacketReceive (k (.get 0x700000000000 4))) s (fun t => t.reqs.isEmpty && (placeOf 0x700000000000).isNone) &&
      after (.fabricPacketReceive (k (.xadd .f32 far 0))) { s with bad := [far] } (fun t => t.mem.isEmpty && t.reqs.isEmpty) &&
      after (.fabricPacketReceive (k (.xrd true far))) s (fun t => t.reqs.isEmpty) &&
      after (.fabricAcknowledge 5 [4] [false]) (flying { r (.write [7] [false]) .none with doneAt := 1 } s) (faultIs .address) &&
      after (.fabricAcknowledge 5 [0] [true]) (flying { r (.xadd .f32 0) .none with doneAt := 1 } s) (faultIs .poison))
      (solo 0) (fun b => ⟨1, 0, 0, 9, b, []⟩) (fun o a => request o (.peer 1 far) a) = true := by decide

/-! ## Known answers (FIPS 202, SP 800-185 sample 4) -/

/-- SHAKE256 of no bytes. -/
theorem test_shake256 : (shake256 [] 8).map (·.toNat) = [0x46, 0xB9, 0xDD, 0x2B, 0x0B, 0xA8, 0x8D, 0x13] := by decide +kernel
/-- KMAC256 of 00 to 03 under the key 40 to 5F and "My Tagged Application". -/
theorem test_kmac256 :
    ((kmac256 ((List.range 32).map (fun i => BitVec.ofNat 8 (0x40 + i))) [0, 1, 2, 3]
      [0x4D, 0x79, 0x20, 0x54, 0x61, 0x67, 0x67, 0x65, 0x64, 0x20, 0x41, 0x70, 0x70, 0x6C, 0x69, 0x63, 0x61, 0x74, 0x69, 0x6F, 0x6E] 64).take 8).map
      (·.toNat) = [0x20, 0xC5, 0x70, 0xC3, 0x13, 0x46, 0xF7, 0x03] := by decide +kernel

/-! ## More clauses: arithmetic -/

set_option exponentiation.threshold 1024 in
/-- A value beyond the largest finite one, the largest itself, one that is tiny and inexact, one that is tiny and exact, in FP32; and one
of E4M3 between its largest value and the next step. -/
theorem hyps_RoundingRules_bounds :
    (fun (lead : FFmt → Nat → Int → Int → Nat → Bool) (fl : FFmt → Nat → Int → FFlags) =>
      lead .f32 (2 ^ 24) 104 (-149) 254 && (fl .f32 (2 ^ 24) 104 &&& .of) == .of &&
      lead .f32 (2 ^ 24 - 1) 104 (-149) 253 && fl .f32 (2 ^ 24 - 1) 104 == .none &&
      lead .f32 3 (-150) (-200) 28 && fl .f32 3 (-150) == (.uf ||| .nx) &&
      lead .f32 1 (-149) (-200) 28 && fl .f32 1 (-149) == .none &&
      lead .fE4m3 30 4 (-9) 14 && (fl .fE4m3 30 4 &&& .of) == .of && fl .fE4m3 29 4 == .nx)
      (fun f m e q p => decide (q ≤ e) && decide (q ≤ f.qmin) && decide (2 ^ (p + f.fb) ≤ (FVal.units q (.num false m e)).natAbs) &&
        decide ((FVal.units q (.num false m e)).natAbs < 2 ^ (p + f.fb + 1)))
      (fun f m e => (f.round ⟨0, false, false, false, false⟩ false false m e).2) = true := by decide +kernel

/-- NaNs of each format, signalling and quiet; an invalid product with and without a NaN addend; infinities that cancel. -/
theorem hyps_NansAndIntegers_formats :
    ([FFmt.f64, .f32, .f16, .bf16].all fun f =>
      let v : FEnv := ⟨0, false, false, false, false⟩
      let inf : Nat := (2 ^ f.eb - 1) * 2 ^ f.fb
      let half : Nat := 2 ^ (f.fb - 1)
      f.add v (inf + 1) 0 == (inf + half + 1, .nv) && f.fma v 0 (inf + half + 1) (inf + 2) == (inf + half + 1, .nv) &&
      f.fma v inf 0 (inf + half + 3) == (inf + half + 3, .nv) && f.fma v inf 0 0 == (inf + half, .nv) &&
      f.fma v 0 0 (inf + half + 3) == (inf + half + 3, .none) &&
      f.fma v inf inf (f.signBit + inf) == (inf + half, .nv) && f.add v inf (f.signBit + inf) == (inf + half, .nv) &&
      f.sub v inf inf == (inf + half, .nv)) = true := by decide +kernel

/-- One pattern of each class. -/
theorem hyps_LaneCompares_classes :
    [0x7F800001, 0x7FC00000, 0xFF800000, 0xBF800000, 0x80000001, 0x80000000, 0, 0x00000001, 0x3F800000, 0x7F800000].map FFmt.f32.class =
      [0, 1, 2, 3, 4, 5, 6, 7, 8, 9] := by decide +kernel

/-- A signalling NaN; a number that is not whole; one that is positive and no power of two. -/
theorem hyps_SpecialFunctions_flags :
    (fun v : FEnv => rcp v 0x7F800001 == (0x7FC00001, .nv) && tanhF v 0xFFC00000 == (0xFFC00000, .none) &&
      FFmt.f32.operand v 0x3FC00000 == .num false 12582912 (-23) && decide (12582912 % 2 ^ 23 ≠ 0) &&
      (exp2F v 0x3FC00000).2 == .nx && (log2F v 0x40400000).2 == .nx) ⟨1, false, false, false, false⟩ = true := by decide +kernel

set_option exponentiation.threshold 1024 in
/-- Stochastic rounding: below, at and above the half; a carry into the smallest normal value; a tiny value, flushed and not; one beyond the
largest. -/
theorem hyps_ConversionWords_stochastic :
    (fun (lead : FFmt → Nat → Int → Int → Nat → Bool) (y : FFmt → Bool → Nat → Nat → Int → FRes) =>
      lead .f16 0x1001 (-12) (-24) 14 && y .f16 false 0x3FFF 0x1001 (-12) == (0x3C00, .nx) && y .f16 false 0xC000 0x1001 (-12) == (0x3C01, .nx) &&
      lead .f16 (2 ^ 12 - 1) (-26) (-26) 1 && y .f16 true 0x4000 (2 ^ 12 - 1) (-26) == (0, .uf ||| .nx) &&
      y .f16 true 0xC000 (2 ^ 12 - 1) (-26) == (0x0400, .nx) &&
      y .f16 false 0 3 (-26) == (1, .uf ||| .nx) && lead .f16 3 (-26) (-40) 5 &&
      lead .f16 (2 ^ 11 - 1) 6 (-24) 30 && y .f16 false 0 (2 ^ 11) 5 == (0x7C00, .of ||| .nx) && lead .f16 (2 ^ 11) 5 (-24) 30)
      (fun f m e q p => decide (q ≤ e) && decide (q ≤ f.qmin) && decide (2 ^ (p + f.fb) ≤ m * 2 ^ (e - q).toNat) &&
        decide (m * 2 ^ (e - q).toNat < 2 ^ (p + f.fb + 1)))
      (fun f ftz r m e => f.stochastic ⟨0, ftz, false, false, false⟩ r (.num false m e)) = true := by decide +kernel

/-! ## More clauses: words -/

/-- A word whose guard does not hold, on a path that waits for nothing. -/
theorem hyps_GuardFails_waits :
    meets (solo 0) (fun x => !x.guardOn (.uni 15 false) && decide (x.p.wait = .none)) = true ∧
    after (.prCnt ⟨false, false, .uni 15 false, 5, .yes, (), (), ()⟩) (solo 0) (fun t => arm t (fun p => p.pc == 8)) = true := by decide

/-- An atomic in flight that an acquire waits for; a cross-path hold that names L as its source, and one that covers what the path is to
acquire. -/
theorem hyps_Fences_atomics :
    (fun s : State => numbered s && meets s (fun x => x.guardOn .always) &&
      s.reqs.any (fun e => e.2.value.isNone && e.2.path == .l && e.2.grp == 3 && !(e.2.lanes == 0) && e.2.op.modifies) &&
      after (.snFence ⟨false, false, .always, (), (), ⟨true, false, .dev⟩⟩) s (fun t => arm t (fun p => decide (p.acquires = [5]))) &&
      after (.snXf ⟨false, false, .always, (), (), ⟨⟨true, false, false, false, false⟩, ⟨false, false, false, true, false⟩⟩⟩) (lined s)
        (fun t => (t.core 0).loads.isEmpty) &&
      after (.snXf ⟨false, false, .always, (), (), ⟨⟨false, false, true, false, false⟩, ⟨false, false, false, true, false⟩⟩⟩)
          (onArm (fun p => { p with acquires := [5] }) s)
        (fun t => grp t (fun g => g.xf.any (fun h => decide (h.ids = [5])))))
      (flying (request (.atomic .add false 1 0 0) (.dev far) (.atom 3 0 8 false)) (solo 0)) = true := by decide

/-- An operation that waits for a tag's COUNT starts when TK.CANCEL takes the last away; a copy of the tag's is barred, a packet is not. -/
theorem hyps_MonitorsAndTags_starts :
    (fun s : State => numbered s && decide (s.ops.map (·.1) = [5, 6]) &&
      after (.tkCan ⟨false, false, .always, (), 1, (), (), ()⟩) s (fun t => decide (t.ops.map (·.1) = [6]) &&
        t.ops.all (fun o => o.2.started && o.2.trig.isNone)))
      { counted 1 (solo 0) with
        ops := [(5, { operation (.bulk 0 0 2 1 0 0) with trig := some 2 }), (6, { operation (.zero 0) with tag := 2, trig := some 1 })], nextId := 7 } = true ∧
    after (putWord true) (words [0x8001] (paired (laneZero (onGroup (fun g => g.setTag 1 ⟨1, 2, true⟩) (solo 0)))))
      (fun t => t.ops.all (fun o => !o.2.barred)) = true ∧
    after (.cpArrv ⟨false, false, .always, 1, none, .s 1, .nat 15, (), ()⟩) (onGroup (fun g => g.setTag 1 ⟨1, 2, true⟩) (solo 0))
      (fun t => t.ops.all (fun o => o.2.barred)) = true := by decide

/-- AX.WIN clears the poison of the window's bounds. -/
theorem hyps_MatrixWords_bounds :
    after (.axWin ⟨false, false, .always, (), .neg 31, .nat 0, .nat 63, ()⟩)
      (onEntry (fun e => { e with body := { e.body with acc := 1 } }) (onGroup (fun g => { g with bad := [7, 65784, 65785] }) (solo 0)))
      (fun t => grp t (fun g => decide (g.bad = [7]))) = true ∧
    meets (onEntry (fun e => { e with body := { e.body with spad := 16385 } }) (solo 0)) (fun x =>
      decide (16384 * ((x.e.body.spad + 16384 - 1) / 16384) = 32768)) = true := by decide

/-- FB.PUT.MC to a group of the table at 0x80 of far memory: a half to read, one in a derived tile that is not VALID, and both read. -/
def multicast : Instr := .fbPut ⟨false, false, .always, 1, none, .s 1, .s 1, .u (.s 4), ⟨false, true, false⟩⟩
set_option exponentiation.threshold 1024 in
theorem hyps_FabricWords_multicast :
    (fun s : State => numbered s && decide (128 ∣ (s.fn 0).mcgBase.toNat) && meets s (fun x => x.p.tables.isEmpty && decide ((x.g.tag 1).count < 255)) &&
      (s.notValid 0x200000010000 64).isEmpty &&
      after multicast s (fun t => t.ops.isEmpty && arm t (fun p => decide (p.tables.map (·.addr) = [0x200000010000]) && p.pc == 0)) &&
      !({ s with derivs := [{ transposed with pagesD := [⟨0x2000, 0x200000010000, 12, 0⟩] }] }.notValid 0x200000010000 64).isEmpty &&
      after multicast { s with derivs := [{ transposed with pagesD := [⟨0x2000, 0x200000010000, 12, 0⟩] }] }
        (fun t => arm t (fun p => p.tables.isEmpty) && decide (t.tileState 0 0 = some .computing)) &&
      after multicast (tabled 0x200000010040 (List.replicate 64 0) (tabled 0x200000010000 ([2, 0, 1, 0, 0, 0] ++ List.replicate 58 0) s))
        (fun t => t.ops.any (fun o => match o.2.kind with | .put _ [l] => decide (l.peers = [1, 0]) | _ => false)) &&
      after multicast (tabled 0x200000010040 (List.replicate 64 0) (tabled 0x200000010000 ([64, 0] ++ List.replicate 62 0) s)) (faultIs .fabric))
      (words [0x4000] (paired (laneZero { solo 0 with fns := [(0, { Fn.zero with mcgBase := 0x200000010000 })] }))) = true := by decide

set_option exponentiation.threshold 1024 in
/-- FB.ATA's map is read on F, behind the group's store in flight on L. -/
theorem hyps_FabricWords_maps :
    after (.fbAta ⟨false, false, .always, 1, none, 1, (), (), ()⟩)
      (flying { request (.write [7] [false]) (.dev far) .none with path := .l } (mapped (addressed 0x10000 (solo 0))))
      (fun t => t.reqs.all (fun e => e.1 == 5 || (e.2.path == .f && decide (e.2.after = [5])))  && 1 < t.reqs.length) = true := by decide

set_option exponentiation.threshold 1024 in
/-- BR.CALLV's target through a table entry in a derived tile that is not VALID, and through one that is. -/
theorem hyps_LaneCall_walks :
    (fun s : State =>
      meets s (fun x => (x.peekWalk 0x1000).isSome && decide (x.p.wait = .none)) && meets (tileIs .valid s) (fun x => (x.peekWalk 0x1000).isNone))
      { paged (solo 0) with derivs := [{ transposed with pagesD := [⟨0x2000, 0x200000005008, 12, 0⟩] }], tlb := [] } = true := by decide

/-- A slice whose two arms are released, with lanes that wait at its join and without; a lone arm. -/
theorem hyps_JoinsAndRegangs_arms :
    (fun s : State => SMap.rising s.paths && s.paths.length == 2 &&
      (s.regangCheck 3).paths.all (fun e => e.1 == 4 && e.2.mask == 0xF && decide (e.2.wait = .none)) &&
      grp (s.regangCheck 3) (fun g => g.tops.isEmpty))
      (armed (.regang 0 0) (.regang 0 0) (solo 0)) = true ∧
    (fun s : State => grp (s.regangCheck 3) (fun g => g.tops.length == 1))
      (onGroup (fun g => { g with exited := 0xFFFFFFFFFFFFFFE0, tops := [(0, ⟨64, 0, 16, 16, 0⟩)] }) (armed (.regang 0 0) (.regang 0 0) (solo 0))) = true ∧
    (fun s : State => s.paths.length == 1 && (s.regangCheck 3).paths.all (fun e => e.1 == 4 && e.2.mask == 1 && decide (e.2.wait = .none)) &&
      grp (s.regangCheck 3) (fun g => g.tops.length == 1))
      (onGroup (fun g => { g with exited := 0xFFFFFFFFFFFFFFFE, tops := [(0, ⟨64, 0, 0, 0, 0⟩)] })
        (onArm (fun p => { p with mask := 1, exec := 1, wait := .regang 0 0 }) (solo 0))) = true := by decide

/-- SY.BKPT asks for a full save at once. -/
theorem hyps_GroupAndPathWords_full :
    after (.syBkpt ⟨false, false, .always, (), (), ()⟩)
      { onArm (fun p => { p with safe := some 3 }) (solo 0) with fns := [(0, { Fn.zero with debug := true })] }
      (fun t => (SMap.find? t.teams 2).any (fun u => decide (u.save = some ⟨0, true, true, true⟩))) = true := by decide

set_option exponentiation.threshold 1024 in
/-- DV.REG whose walk meets an entry in a derived tile that is not VALID, and behind a copy of its group. -/
theorem hyps_DerivationWords_held :
    (fun (s : State) (d : Deriv) => numbered s && d.fieldsOk &&
      (match s.captureRecord { transposed with pagesA := [], pagesD := [] } with | .error (some p) => p == 0x200000005008 | _ => false) &&
      after (.dvReg ⟨false, false, .always, 9, .s 1, (), (), ()⟩) (tabled 0 (leBytes 64 (transposing 0x2000)) s)
        (fun t => t.derivs.length == 1 && decide (t.tileState 0 0 = some .computing)))
      { paged (solo 0) with derivs := [{ transposed with pagesD := [⟨0x2000, 0x200000005008, 12, 0⟩] }] } transposed = true ∧
    after (.dvReg ⟨false, false, .always, 9, .s 1, (), (), ()⟩)
      (running (operation (.bulk 0 0 2 1 0 0)) (tabled 0 (leBytes 64 (transposing 0x2000)) (paged (solo 0))))
      (fun t => arm t (fun p => p.pc == 0) && t.derivs.isEmpty) = true := by decide

/-! ## More clauses: events -/

/-- Two copies of a merged pair of lanes, of operation 7, at these addresses. -/
def mates (a b : Nat) (s : State) : State :=
  let r (k pa : Nat) : Req := { request (.read 4) (.dev pa) (.op 7 k) with src := 16384, path := .c, served := k + 1 }
  { s with
    reqs := [(5, r 0 a), (6, r 1 b)], nextId := 8
    ops := [(7, { operation (.lane [⟨0, 8, 4, true⟩, ⟨4, 8, 4, true⟩] 4) with started := true, waiting := [5, 6] })] }

set_option exponentiation.threshold 1024 in
/-- Merged reads of one half, and of two, of plain memory and of a tile that is not VALID; a store that drops its line; a read spoilt on
the mesh; an atomic beside a copy that has landed in part; the walker's; a cell with a poisoned word. -/
theorem hyps_OwnerSteps_merged :
    (fun s : State =>
      SMap.rising (mates far (far + 4) s).reqs && (mates far (far + 4) s).mayPerform 5 { request (.read 4) (.dev far) (.op 7 0) with src := 16384, path := .c, served := 1 } &&
      after (.sliceRead 5) (mates far (far + 4) s) (fun t => t.reqs.all (fun e => e.2.value.isSome)) &&
      after (.sliceRead 5) (mates far (far + 64) s) (fun t => decide (t.reqs.map (fun e => e.2.value.isSome) = [true, false])) &&
      after (.sliceRead 5) (mates (far + 4096) far (registered s)) (fun t => t.reqs.all (fun e => e.2.value.isNone) && decide (t.tileState 0 0 = some .computing)) &&
      after (.sliceWrite 5) (flying (request (.write [7] [false]) (.dev 0x200000000000) .none) (lined s)) (fun t => (t.core 0).loads.isEmpty) &&
      after (.sliceRead 5) (flying { request (.read 4) (.dev far) (.lanes 3 [(1, 0)] 0 .b32) with mesh := true } s)
        (fun t => (t.core 0).loads.isEmpty && t.reqs.all (fun e => e.2.value.any (fun v => v.2.all (fun b => b)))) &&
      (let at_ := request (.atomic .add false 5 0 0) (.dev far) .none
       after (.sliceAtomic 5) { s with reqs := [(5, at_), (6, { request (.write [1, 2] [false, false]) (.dev (far + 60)) .none with part := [0] })], nextId := 7 }
         (fun t => t.reqs.length == 2 && t.mem.byte far == 0)) &&
      after (.sliceAtomic 5) (flying { request (.atomic .or true 64 0 0) (.dev far) .none with src := 1025, path := .h } s) (fun t => t.mem.byte far == 64) &&
      after (.sliceAtomic 5) (flying (request (.red .xc [0, 0, 0x80, 0x3F] (clean 4)) (.dev far) .none) { s with bad := [far] })
        (fun t => decide (t.bad = [far]) && t.mem.byte far == 0 && faultIs .poison t))
      (solo 0) = true := by decide

/-- Poison of another lane of a word whose fault is there already. -/
theorem hyps_OwnerSteps_joined :
    after (.sliceAtomic 5)
      (flying { request (.atomic .add false 5 0 0) (.dev far) .none with lanes := 1, named := 1 }
        (onEntry (fun e => { e with faults := [⟨.poison, false, 0x20000, 0, 2, 0, 1, 0, 0, 0, 0, 0, (0, 4)⟩] }) { solo 0 with bad := [far] }))
      (fun t => t.entries.any (fun e => e.2.faults.length == 1 && e.2.faults.all (fun f => f.lanes == 3 && f.addr == 0x10000))) = true := by decide

/-- An engine's turn: after core 1 it is core 2's; nothing waits; a merged pair leaves together. -/
theorem hyps_OwnerSteps_turns :
    (fun (s : State) (r : Nat → Req) => decide (SMap.getD s.turns 0 7 < 8) && decide (s.engineServe 1 = s) &&
      (({ s with turns := [(0, 1)], reqs := [(5, r 1), (6, r 2)], nextId := 7 } : State).engineServe 0).reqs.all (fun e => e.2.served == (if e.1 == 6 then 7 else 0)) &&
      (({ s with reqs := [(5, r 1), (6, r 2)], nextId := 7 } : State).engineServe 0).reqs.all (fun e => e.2.served == (if e.1 == 5 then 7 else 0)))
      (solo 0) (fun c => { request (.read 4) (.dev far) (.op 9 0) with src := 16384 + c, path := .c }) = true ∧
    (fun s : State => (s.engineServe 0).reqs.all (fun e => e.2.served == 8))
      ({ mates far (far + 64) (solo 0) with reqs := (mates far (far + 64) (solo 0)).reqs.map (fun e => (e.1, { e.2 with served := 0 })) }) = true := by decide

/-- An answer of which a later word has written one byte; an MWAIT whose path a save has stopped, and one whose register a later word has
written. -/
theorem hyps_AnswersAndWaits_later :
    (fun s : State =>
      after (.loadReturn 5) (flying { request (.read 4) (.dev far) (.lanes 3 [(1, 0)] 8 .b32) with value := some ([1, 2, 3, 4], clean 4) }
          (onGroup (fun g => { g with due := [(512, 5)], later := [(512, 5, 1)], v := [(512, 0x900)] }) s))
        (fun t => grp t (fun g => g.vreg 8 0 == 0x04030901 && g.later.isEmpty)) &&
      after (.mwaitTimeout 3 4) (onArm (fun p => { p with wait := .monitor 8 (some 0) }) (s.modTeam 2 (fun u => { u with save := some ⟨0, true, false, false⟩ })))
        (fun t => arm t (fun p => decide (p.wait = .monitor 8 (some 0)))) &&
      after (.mwaitTimeout 3 4) (onArm (fun p => { p with wait := .monitor 8 (some 0) }) (onGroup (fun g => g.setS 8 7) s))
        (fun t => grp t (fun g => g.sreg 8 == 7) && arm t (fun p => decide (p.wait = .none))))
      (solo 0) = true := by decide

set_option exponentiation.threshold 1024 in
/-- The last operation of a tag ends: what waited for it starts at once, in its engine's order; a stamp does not. -/
theorem hyps_OperationSteps_begins :
    (fun s : State => numbered s && after (.copyComplete 5) s (fun t => decide (t.ops.map (·.1) = [6, 7]) &&
      decide ((t.core 0).mxOrder = [6]) && t.ops.all (fun o => o.2.trig.isNone && (o.2.started == (o.1 == 6)))))
      { counted 1 (solo 0) with
        ops := [(5, { operation (.bulk 0 0 0 0 0 0) with started := true }), (6, { operation (.zero 0) with tag := 2, trig := some 1 }),
          (7, { operation (.stamp 0x10000 9 false) with tag := 2, trig := some 1 })], nextId := 8 } = true := by decide

set_option exponentiation.threshold 1024 in
/-- A walk that an entry in a tile not VALID holds; its A bit left alone, on its way already, and waiting for a recompute. -/
theorem hyps_TranslationSteps_held :
    (fun (s : State) (d : Deriv) =>
      decide (({ s with derivs := [d] } : State).walkWaits 0 0x1000 = some 0x200000005008) &&
      after (.pageWalkComplete 5) { s with derivs := [d] } (fun t => t.walks.length == 1 && decide (t.tileState 0 0 = some .computing)) &&
      decide (({ s with derivs := [d], tiles := [⟨0, 0, .valid⟩] } : State).walkWaits 0 0x1000 = none) &&
      after (.pageWalkComplete 5) { s with derivs := [d], tiles := [⟨0, 0, .valid⟩] }
        (fun t => t.walks.isEmpty && t.tlb.length == 2 && t.mem.byte 0x200000005008 == 0x31) &&
      after (.pageWalkComplete 5) { s with bad := [0x200000005000] } (fun t => t.mem.byte 0x200000005008 == 0x31 && t.reqs.isEmpty) &&
      after (.pageWalkComplete 5) { s with reqs := [(5, { request (.atomic .or true 64 0 0) (.dev 0x200000005008) .none with src := 1025 })] }
        (fun t => t.mem.byte 0x200000005008 == 0x31 && t.reqs.length == 2) &&
      (let u : State := { s with derivs := [{ transposed with pagesA := [⟨0x1000, 0x200000005008, 12, 0⟩] }], tiles := [⟨0, 0, .exclusive⟩] }
       u.writesHeld 0x200000005008 8 && after (.pageWalkComplete 5) u (fun t => t.mem.byte 0x200000005008 == 0x31 && t.reqs.length == 1)))
      (walking 0 (paged (solo 0))) { transposed with pagesD := [⟨0x2000, 0x200000005008, 12, 0⟩] } = true := by decide

set_option exponentiation.threshold 1024 in
/-- PREEMPT while a team of its command is to be saved. -/
theorem hyps_HostRegisters_busy :
    (fun s : State => !s.preempt.getLsbD 63 && s.readReg 0 0x80018 == 2 ^ 63)
      { saving 1 (solo 0) with preemptFor := [2] } = true := by decide

set_option exponentiation.threshold 1024 in
/-- A ring behind an entry in a tile that is not VALID; the ring's own bytes in one; an entry whose stamp is behind one. -/
theorem hyps_QueueEntries_held :
    (fun (s : State) (d : Nat → Deriv) =>
      (match ({ ringed 0 s with derivs := [d 0x200000005008] } : State).queueTrans 0 0x1000 .read with | .held p => p == 0x200000005008 | _ => false) &&
      after (.entryFetch 0 0) { ringed 0 s with derivs := [d 0x200000005008] }
        (fun t => t.entries.isEmpty && (t.queue 0 0).half.isNone && decide (t.tileState 0 0 = some .computing)) &&
      after (.entryFetch 0 0) { halved 0 [] s with derivs := [d (far + 64)] }
        (fun t => t.entries.isEmpty && (t.queue 0 0).half.isSome && decide (t.tileState 0 0 = some .computing)) &&
      after (.entryFetch 0 0) { halved (0x2000 * 2 ^ 192) [] s with derivs := [d 0x200000005010] }
        (fun t => t.entries.isEmpty && (t.queue 0 0).got.isSome && (t.queue 0 0).half.isNone && decide (t.tileState 0 0 = some .computing)))
      State.reset (fun a => { transposed with pagesD := [⟨0x2000, a, 12, 0⟩] }) = true := by decide

/-- Poison of two lanes of one word, before its launch's fault is recorded and after it; of two words. -/
theorem hyps_FaultSteps_words :
    (fun (e : Entry) (f : Lanes → Nat → FaultEv) =>
      decide (({ e with faults := [f 2 0] }.takeFault 0 (f 1 0)).faults = [{ f 1 0 with lanes := 3 }]) &&
      decide (({ e with faults := [f 2 0] }.takeFault 0 (f 1 9)).faults = [f 2 0, f 1 9]) &&
      decide (({ e with fault := some (f 1 0) }.takeFault 9 (f 2 0)).fault = some { f 1 0 with lanes := 3 }) &&
      decide (({ e with fault := some (f 1 0) }.takeFault 9 (f 2 9)).nfault = e.nfault + 1))
      (Entry.mk 0 0 0 0 EntryRec.zero .started 0 0 0 0 true true 0 0 0 0 false [] [] none 0 0 0)
      (fun m a => ⟨.poison, false, a, 0, m, 0, 1, 0, 0, 0, 0, 0, (a, 4)⟩) = true := by decide

set_option exponentiation.threshold 1024 in
/-- A full save keeps a register whatever the masks say; a save by a mask keeps the poison of what it keeps, and drops that of the rest; an
arm within a chain has not stopped. -/
theorem hyps_Preemption_full :
    (fun s : State =>
      after (.preemptSave 2) ((saving 0 s).modTeam 2 (fun u => { u with save := some ⟨0, false, true, false⟩ })) (fun t => grp t (fun g => g.sreg 7 == 2)) &&
      after (.preemptSave 2) (saving (1#64 <<< 16 ||| 1#64 <<< 24) s) (fun t => grp t (fun g => decide (g.bad = [3, 65543]))) &&
      after (.preemptSave 2) (onArm (fun p => { p with pos := 1 }) (saving 1 s)) (fun t => t.teams.all (fun u => u.2.save.isSome)))
      (onGroup (fun g => { g.setS 7 2 with bad := [3, 515, 65543, 65544] }) (crowded 1 (solo 0))) = true := by decide

set_option exponentiation.threshold 1024 in
/-- An AtomicOp beside a copy that has landed in part; an aperture access whose walk an entry in a tile not VALID holds. -/
theorem hyps_HostAccesses_held :
    (fun s : State => s.halfLanded (.dev windowBase) 4 && after (.hostAtomicop 0 0 .fetchAdd false 1 0) s (fun t => t.mem.byte windowBase == 0 && t.hostReply.isEmpty))
      (flying { request (.write [1, 2] [false, false]) (.dev (windowBase + 60)) .none with part := [0] } (solo 0)) = true ∧
    (fun s : State => (match s.aperture 0 (2 ^ 36) false with | .error (some p) => p == 0x200000005008 | _ => false) &&
      after (.apertureRead 0 (2 ^ 36) 4) s (fun t => t.hostReply.isEmpty && decide (t.tileState 0 0 = some .computing)) &&
      after (.apertureWrite 0 (2 ^ 36) [7]) s (fun t => t.reqs.isEmpty && decide (t.tileState 0 0 = some .computing)) &&
      s.hostWaits (.apertureRead 0 (2 ^ 36) 4) && s.hostWaits (.apertureWrite 0 (2 ^ 36) [7]))
      { opened (solo 0) with derivs := [{ transposed with pagesD := [⟨0x2000, 0x200000005008, 12, 0⟩] }] } = true := by decide

set_option exponentiation.threshold 1024 in
/-- Answers spoilt on the mesh: a read's, and an atomic's that returns nothing; a packet's atomic beside a copy that has landed in part. -/
theorem hyps_FabricSteps_mesh :
    (fun (s : State) (r : ReqOp → Ret → Req) => numbered (flying (r (.read 4) (.lanes 3 [(1, 0)] 0 .b32)) s) &&
      after (.fabricAcknowledge 5 [1, 2, 3, 4] (clean 4)) (flying (r (.read 4) (.lanes 3 [(1, 0)] 0 .b32)) s)
        (fun t => t.reqs.all (fun e => e.2.value.any (fun v => v.2.all (fun b => b)))) &&
      after (.fabricAcknowledge 5 [0] [false]) (flying (r (.xadd .f32 0) .none) s) (fun t => t.reqs.isEmpty && faultIs .poison t))
      (solo 0) (fun o a => { request o (.peer 1 far) a with doneAt := 1, mesh := true }) = true ∧
    after (.fabricPacketReceive ⟨1, 0, 0, 9, .atomic .add false far 5 0 0, []⟩)
      (flying { request (.write [1, 2] [false, false]) (.dev (far + 60)) .none with part := [0] } (solo 0))
      (fun t => t.mem.byte far == 0 && t.reqs.length == 2) = true := by decide

end Sys2Proof.Tests
end

section
/-! SUPPORT. The tables that the host's registers write: a queue, a function, a context, a route; and bytes as numbers. -/
namespace Sys2Proof.Machine
open Sys2Proof

/-! ## One queue, or one function, is written -/

theorem State.queue_setQueue (s : State) (n q : Nat) (x : Queue) (m k : Nat) (hq : q < 64) (hk : k < 64) :
    (s.setQueue n q x).queue m k = if (m, k) = (n, q) then x else s.queue m k := by
  have hkey : 64 * m + k = 64 * n + q ↔ (m, k) = (n, q) := by
    rw [Prod.mk.injEq]; omega
  simp only [State.queue, State.setQueue, SMap.getD_set, hkey]

theorem QueueIs.setQueue (s : State) (fn : Nat) {q : Nat} (y : Queue) (hq : q < 64) :
    QueueIs s (s.setQueue fn q y) fn q y := by
  refine ⟨?_, fun m k hk hne => ?_, rfl⟩
  · rw [State.queue_setQueue _ _ _ _ _ _ hq hq, if_pos rfl]
  · rw [State.queue_setQueue _ _ _ _ _ _ hq hk, if_neg hne]

theorem QueueIs.refl (s : State) (fn q : Nat) : QueueIs s s fn q (s.queue fn q) := ⟨rfl, fun _ _ _ _ => rfl, rfl⟩

theorem FnIs.setFn (s : State) (fn : Nat) (y : Fn) : FnIs s (s.setFn fn y) fn y := by
  refine ⟨?_, fun m hm => ?_, rfl⟩
  · rw [State.fn_setFn, if_pos rfl]
  · rw [State.fn_setFn, if_neg hm]

/-! ## A module that runs -/

variable {s : State} {fn q : Nat}

theorem State.up_of_running (h : s.mode = .running) : s.up = true := by rw [State.up, h]; rfl
theorem fnOk_of_le (h : fn ≤ 16) : fnOk fn = true := decide_eq_true h
theorem State.queueOk_of_running (h : s.mode = .running) (hfn : fn ≤ 16) (hq : q < 64) : s.queueOk fn q = true := by
  simp [State.queueOk, State.up_of_running h, fnOk_of_le hfn, hq]

/-! ## Lists: the elements of two, one after the other, and a fold that changes nothing -/

theorem getD_append_of_lt (l m : List Byte) {i : Nat} (h : i < l.length) : (l ++ m).getD i 0 = l.getD i 0 := by
  rw [List.getD_eq_getElem?_getD, List.getElem?_append_left h, ← List.getD_eq_getElem?_getD]

theorem getD_append_of_le (l m : List Byte) {i : Nat} (h : l.length ≤ i) : (l ++ m).getD i 0 = m.getD (i - l.length) 0 := by
  rw [List.getD_eq_getElem?_getD, List.getElem?_append_right h, ← List.getD_eq_getElem?_getD]

theorem foldl_of_fixed {α β : Type} {f : α → β → α} {a : α} (h : ∀ b, f a b = a) (bs : List β) : bs.foldl f a = a := by
  induction bs with
  | nil => rfl
  | cons b bs ih => rw [List.foldl_cons, h b, ih]

/-! ## Bytes, low byte first -/

@[simp] theorem leBytes_length (n x : Nat) : (leBytes n x).length = n := by simp [leBytes]

theorem leBytes_getD {n i : Nat} (x : Nat) (h : i < n) : (leBytes n x).getD i 0 = BitVec.ofNat 8 (x / 2 ^ (8 * i)) := by
  simp [leBytes, h]

theorem leNat_lt (bs : List Byte) : leNat bs < 2 ^ (8 * bs.length) := by
  induction bs with
  | nil => simp [leNat]
  | cons b bs ih =>
    have hb := b.isLt
    have e : 2 ^ (8 * (b :: bs).length) = 256 * 2 ^ (8 * bs.length) := by
      rw [List.length_cons, Nat.mul_succ, Nat.pow_add, Nat.mul_comm]
    rw [leNat, e]
    omega

/-- Byte `i` of the number that bytes make. -/
theorem leNat_div_mod (bs : List Byte) (i : Nat) : leNat bs / 2 ^ (8 * i) % 256 = (bs.getD i 0).toNat := by
  induction bs generalizing i with
  | nil => simp [leNat]
  | cons b bs ih =>
    have hb := b.isLt
    cases i with
    | zero => rw [leNat, List.getD_cons_zero]; omega
    | succ i =>
      have e : 2 ^ (8 * (i + 1)) = 256 * 2 ^ (8 * i) := by rw [Nat.mul_succ, Nat.pow_add, Nat.mul_comm]
      have d : (b.toNat + 256 * leNat bs) / 256 = leNat bs := by omega
      rw [leNat, e, ← Nat.div_div_eq_div_mul, d, ih, List.getD_cons_succ]

end Sys2Proof.Machine
end

section
/-! PROOF. The registers of queues, and DBGTEAM's resume (24 R365, R368, R369; 10 R193). -/
namespace Sys2Proof.Machine
open Sys2Proof

variable {s : State} {fn q : Nat}

/-! ## Kicks -/

theorem State.writeKick_ignored (s : State) (fn q off n : Nat) (v : DWord) (h : off ≠ 0 ∨ n ≠ 8) :
    s.writeKick fn q off n v = s := by
  rcases h with h | h <;> simp [State.writeKick, h]

/-- A kick that reaches its queue: refused, or accepted (24 R369). -/
theorem State.writeKick_eq (hok : s.queueOk fn q = true) (hr : (s.fn fn).reset = 0) (tail : DWord) :
    s.writeKick fn q 0 8 tail =
      if tail.toNat < (s.queue fn q).tail ∨ (s.queue fn q).head + 2 ^ (s.queue fn q).log2n < tail.toNat then
        s.setQueue fn q { s.queue fn q with kerr := true }
      else s.setQueue fn q { s.queue fn q with tail := tail.toNat } := by
  simp [State.writeKick, hok, hr]

/-! ## QCFG -/

/-- A queue after LOG2N and CTX of a write to QCFG, before its other effects. -/
def Queue.config (x : Queue) (v : DWord) : Queue := { x with log2n := v.toNat % 32, ctx := v.toNat / 32 % 2048 }
/-- A queue that a write to QCFG leaves disabled: an entry that it had read is dropped. -/
def Queue.disabled (x : Queue) : Queue := { x with enable := false, state := 3, got := none, half := none }

theorem State.mayEnable_iff (s : State) (fn : Nat) (y : Queue) :
    s.mayEnable fn y = true ↔ (s.context y.ctx).v = true ∧ (s.context y.ctx).fn = fn ∧ 4 ≤ y.log2n ∧ y.log2n ≤ 16 ∧
      y.fault % 64 = 0 ∧ y.fault + 64 ≤ (if fn = 0 then 8388608 else 524288) := by
  simp only [State.mayEnable, Bool.and_eq_true, beq_iff_eq, decide_eq_true_eq, and_assoc]
  rfl

/-- A write to QCFG disables the queue, where it does not ask for ENABLE or ENABLE may not be set. -/
theorem State.writeQcfg_disables (hok : s.queueOk fn q = true) (v : DWord) {e r : Bool}
    (h : e = false ∨ ¬ s.mayEnable fn ((s.queue fn q).config v) = true) :
    s.writeQcfg fn q v e r = s.setQueue fn q ((s.queue fn q).config v).disabled := by
  have he : (e && s.mayEnable fn ((s.queue fn q).config v)) = false := by
    rcases h with h | h <;> simp [h]
  unfold Queue.config at he
  simp [State.writeQcfg, hok, he, Queue.config, Queue.disabled]

/-- A write to QCFG that may enable the queue: its STATE afterwards is by RESTART and by what it was. -/
theorem State.writeQcfg_enables (hok : s.queueOk fn q = true) (v : DWord) (r : Bool)
    (h : s.mayEnable fn ((s.queue fn q).config v) = true) :
    s.writeQcfg fn q v true r =
      if (s.queue fn q).state = 3 then s.setQueue fn q { (s.queue fn q).config v with enable := true, state := 0 }
      else if r && ((s.queue fn q).state == 1 || (s.queue fn q).state == 2) && (s.fn fn).reset == 0 then
        s.setQueue fn q { (s.queue fn q).config v with enable := true, state := 0, status := 0 }
      else s.setQueue fn q { (s.queue fn q).config v with enable := true } := by
  unfold Queue.config at h
  simp only [State.writeQcfg, hok, h, Queue.config, Bool.not_true, Bool.false_eq_true, if_false, Bool.true_and]

theorem writeQcfg_clauses (h : s.mode = .running) (hfn : fn ≤ 16) (hq : q < 64) (v : DWord) :
    let x := s.queue fn q
    let y := x.config v
    (QueueIs s (s.writeQcfg fn q v false false) fn q y.disabled) ∧
    (∀ r, ¬ s.mayEnable fn y = true → QueueIs s (s.writeQcfg fn q v true r) fn q y.disabled) ∧
    (s.mayEnable fn y = true →
      QueueIs s (s.writeQcfg fn q v true false) fn q { y with enable := true, state := if x.state = 3 then 0 else x.state } ∧
      (x.state = 3 → QueueIs s (s.writeQcfg fn q v true true) fn q { y with enable := true, state := 0 }) ∧
      (x.state = 1 ∨ x.state = 2 → (s.fn fn).reset = 0 →
        QueueIs s (s.writeQcfg fn q v true true) fn q { y with enable := true, state := 0, status := 0 })) := by
  intro x y
  have hok := State.queueOk_of_running h hfn hq
  refine ⟨?_, fun r hn => ?_, fun hm => ⟨?_, fun h3 => ?_, fun h12 hr => ?_⟩⟩
  · rw [State.writeQcfg_disables hok v (.inl rfl)]; exact .setQueue s fn _ hq
  · rw [State.writeQcfg_disables hok v (.inr hn)]; exact .setQueue s fn _ hq
  · rw [State.writeQcfg_enables hok v _ hm]
    by_cases h3 : x.state = 3
    · rw [if_pos h3, if_pos h3]; exact .setQueue s fn _ hq
    · rw [if_neg h3, if_neg h3]; exact .setQueue s fn _ hq
  · rw [State.writeQcfg_enables hok v _ hm, if_pos h3]; exact .setQueue s fn _ hq
  · have h3 : ¬ x.state = 3 := by omega
    have hb : (x.state == 1 || x.state == 2) = true := by simpa using h12
    rw [State.writeQcfg_enables hok v _ hm, if_neg h3, if_pos (by simp [hb, hr, x])]
    exact .setQueue s fn _ hq

/-! ## DBGTEAM (10 R193) -/

theorem dbgteamResume_goes (h : s.mode = .running) (hfn : fn ≤ 16) (hv : (s.fn fn).dbgValid = true) {u : Team}
    (hu : SMap.find? s.teams (s.fn fn).dbgId = some u) :
    Goes (.dbgteamResume fn) s (fun t =>
      SMap.find? t.teams (s.fn fn).dbgId = some { u with debug := false } ∧
      (∀ n, n ≠ (s.fn fn).dbgId → SMap.find? t.teams n = SMap.find? s.teams n) ∧
      t.fn fn = { s.fn fn with dbgValid := false } ∧ t = { s with teams := t.teams, fns := t.fns }) := by
  refine ⟨(s.modTeam (s.fn fn).dbgId (fun t => { t with debug := false })).setFn fn { s.fn fn with dbgValid := false },
    ?_, ?_, fun n hn => ?_, ?_, rfl⟩
  · simp [exec, execDbgteamResume, State.up_of_running h, fnOk_of_le hfn, hv]
  · exact (SMap.find?_mod ..).trans (by rw [if_pos rfl, hu]; rfl)
  · exact (SMap.find?_mod ..).trans (if_neg hn)
  · rw [State.fn_setFn, if_pos rfl]

/-- The queues' part of O52: kicks, QCFG and DBGTEAM (24 R368, R369, R380; 10 R193). -/
theorem queueRegisters : Claim.QueueRegisters := by
  intro s fn q h hfn hq x
  have hok := State.queueOk_of_running h hfn hq
  refine ⟨fun _ => rfl, fun off n v => State.writeKick_ignored s fn q off n v, fun _ => rfl, fun tail hr => ⟨?_, ?_⟩, ?_,
    fun hv u hu => dbgteamResume_goes h hfn hv hu⟩
  · intro hbad
    refine ⟨_, rfl, ?_⟩
    rw [State.writeKick_eq hok hr, if_pos hbad]
    exact .setQueue s fn _ hq
  · intro hlo hhi
    refine ⟨_, rfl, ?_⟩
    rw [State.writeKick_eq hok hr, if_neg (not_or.mpr ⟨Nat.not_lt.mpr hlo, Nat.not_lt.mpr hhi⟩)]
    exact .setQueue s fn _ hq
  · intro v n c y ok
    obtain ⟨hdis, hrefused, hen⟩ := writeQcfg_clauses h hfn hq v
    have hiff : s.mayEnable fn ((s.queue fn q).config v) = true ↔ ok := State.mayEnable_iff ..
    rw [hiff] at hen
    simp only [hiff] at hrefused
    refine ⟨⟨_, rfl, hdis⟩, fun hn => ⟨⟨_, rfl, hrefused false hn⟩, _, rfl, hrefused true hn⟩, fun hm => ?_⟩
    obtain ⟨henable, hfrom3, hrestart⟩ := hen hm
    exact ⟨⟨_, rfl, henable⟩, fun h3 => ⟨_, rfl, hfrom3 h3⟩, fun h12 hr => ⟨_, rfl, hrestart h12 hr⟩⟩

end Sys2Proof.Machine
end

section
/-! PROOF. Partitions, and what a REGISTER_WRITE changes (24 R364 to R371; 22 R338). -/
namespace Sys2Proof.Machine
open Sys2Proof

variable {s : State} {fn q : Nat}

/-! ## Partitions -/

theorem FnIs.trans {s t u : State} {y z : Fn} (a : FnIs s t fn y) (b : FnIs t u fn z) : FnIs s u fn z := by
  obtain ⟨-, ha, hs⟩ := a
  obtain ⟨hz, hb, ht⟩ := b
  refine ⟨hz, fun m hm => (hb m hm).trans (ha m hm), ?_⟩
  rw [hs] at ht
  exact ht

/-- The cores of a function whose partition has just been written. -/
theorem State.coresOf_setFn (s : State) (fn : Nat) (y : Fn) :
    (s.setFn fn y).coresOf fn = (List.range 256).filter (fun c => y.part.getLsbD (c / 2)) := by
  rw [State.coresOf, State.fn_setFn, if_pos rfl]

theorem headD_filter_range (p : Nat → Bool) {n k : Nat} (hk : k < n) (hp : p k = true) (hlow : ∀ j, j < k → p j = false) :
    ((List.range n).filter p).headD 0 = k := by
  have hfind : (List.range n).find? p = some k :=
    List.find?_range_eq_some.mpr ⟨hp, List.mem_range.mpr hk, fun j hj => by rw [hlow j hj]; rfl⟩
  rw [List.headD_eq_head?_getD, List.head?_filter, hfind]
  rfl

/-- A partition is free for a function: no other function's overlaps it, and the function has no team. -/
def State.PartFree (s : State) (fn : Nat) (part : BitVec 128) : Prop :=
  (∀ n, n ≤ 16 → n ≠ fn → (s.fn n).part &&& part = 0) ∧ s.hasTeams fn = false

theorem State.partFree_iff (s : State) (fn : Nat) (part : BitVec 128) :
    s.PartFree fn part ↔
      ¬ ((List.range 17).any (fun n => n != fn && ((s.fn n).part &&& part) != 0) = true ∨ s.hasTeams fn = true) := by
  simp [State.PartFree, Nat.lt_succ_iff]

theorem exec_partWrite (h : s.mode = .running) (hfn : fn ≤ 16) (high : Bool) (v : DWord) :
    let s' := s.setFn fn { s.fn fn with part := setHalf (s.fn fn).part high v }
    (s.PartFree fn (setHalf (s.fn fn).part high v) →
      exec (.partWrite fn high v) s = .next (s'.setFn fn { s'.fn fn with cursor := (s'.coresOf fn).headD 0 })) ∧
    (¬ s.PartFree fn (setHalf (s.fn fn).part high v) → exec (.partWrite fn high v) s = .next s) := by
  have hup := State.up_of_running h
  have hok := fnOk_of_le hfn
  rw [State.partFree_iff]
  refine ⟨fun hfree => ?_, fun hbusy => ?_⟩
  · rw [not_or] at hfree
    simp only [exec, execPartWrite, hup, hok, hfree, Bool.not_true, Bool.false_eq_true, or_self, if_false]
  · simp only [exec, execPartWrite, hup, hok, Classical.not_not.mp hbusy, Bool.not_true, Bool.false_eq_true, false_or, if_true]

/-- The partitions' part of O52 (24 R365; 22 R338). -/
theorem partitions : Claim.Partitions := by
  intro s fn high v h hfn old part free
  obtain ⟨hfree, hbusy⟩ := exec_partWrite h hfn high v
  refine ⟨fun hf => ⟨_, hfree hf, ((s.setFn fn { s.fn fn with part := part }).coresOf fn).headD 0, ?_, ?_⟩, hbusy⟩
  · rw [State.fn_setFn, if_pos rfl]
    exact (FnIs.setFn ..).trans (.setFn ..)
  · intro k hk hp hlow
    rw [State.coresOf_setFn]
    exact headD_filter_range _ hk hp hlow

/-! ## Which register an offset names -/

theorem exec_registerWrite_queue (h : s.mode = .running) (hfn : fn ≤ 16) (hq : q < 64) {o : Nat} (ho : o < 64) (h8 : o % 8 = 0)
    (v : DWord) : exec (.registerWrite fn (0x1000 + 64 * q + o) v) s = .next (s.writeQueueReg fn q o v) := by
  have e1 : (0x1000 + 64 * q + o - 0x1000) / 64 = q := by omega
  have e2 : (0x1000 + 64 * q + o - 0x1000) % 64 = o := by omega
  have hgo : ¬ (!s.up ∨ !fnOk fn ∨ (0x1000 + 64 * q + o) % 8 ≠ 0) := by
    simp [State.up_of_running h, fnOk_of_le hfn]; omega
  rw [exec, execRegisterWrite, if_neg hgo, if_neg (by omega), if_neg (by omega), if_pos (by omega), e1, e2]

theorem exec_registerWrite_module (h : s.mode = .running) {off : Nat} (hoff : 0x80000 ≤ off) (h8 : off % 8 = 0)
    (hne : off ≠ 0x100000) (v : DWord) : exec (.registerWrite 0 off v) s = .next (s.writeModuleReg off v) := by
  rw [exec, execRegisterWrite, if_neg (by simp [State.up_of_running h, fnOk_of_le, h8]), if_neg hne, if_pos hoff, if_pos rfl]

/-- A virtual function writes nothing from 0x8_0000 up. -/
theorem exec_registerWrite_virtual (h0 : fn ≠ 0) {off : Nat} (hoff : 0x80000 ≤ off) (hne : off ≠ 0x100000) (v : DWord) :
    exec (.registerWrite fn off v) s = .next s := by
  simp [exec, execRegisterWrite, hne, hoff, h0]

/-- SEALTAG (24 R373). -/
theorem exec_registerWrite_tag (h : s.mode = .running) {k : Nat} (hk : k < 4) (v : DWord) :
    exec (.registerWrite 0 (0x80040 + 8 * k) v) s = .next { s with sealtag := putTag s.sealtag k v } := by
  have e : (0x80040 + 8 * k - 0x80040) / 8 = k := by omega
  rw [exec_registerWrite_module h (by omega) (by omega) (by omega), State.writeModuleReg]
  iterate 4 rw [if_neg (by omega)]
  rw [if_pos (by omega), e]

/-- The fields of a function (24 R365). -/
theorem exec_registerWrite_function (h : s.mode = .running) {n o : Nat} (hn : n < 17) (ho : o < 64) (h8 : o % 8 = 0) (v : DWord) :
    exec (.registerWrite 0 (0x80100 + 64 * n + o) v) s = .next (s.writeFnReg n o v) := by
  have e1 : (0x80100 + 64 * n + o - 0x80100) / 64 = n := by omega
  have e2 : (0x80100 + 64 * n + o - 0x80100) % 64 = o := by omega
  rw [exec_registerWrite_module h (by omega) (by omega) (by omega), State.writeModuleReg]
  iterate 6 rw [if_neg (by omega)]
  rw [if_pos (by omega), e1, e2]

/-- A context descriptor's halves (24 R366). -/
theorem exec_registerWrite_context (h : s.mode = .running) {c o : Nat} (hc : c < 1088) (ho : o < 16) (h8 : o % 8 = 0) (v : DWord) :
    exec (.registerWrite 0 (0x90000 + 16 * c + o) v) s = .next (s.writeContext c (o == 8) v) := by
  have e1 : (0x90000 + 16 * c + o - 0x90000) / 16 = c := by omega
  have e2 : (0x90000 + 16 * c + o) % 16 = o := by omega
  rw [exec_registerWrite_module h (by omega) (by omega) (by omega), State.writeModuleReg]
  iterate 7 rw [if_neg (by omega)]
  rw [if_pos (by omega), e1, e2]

/-- A route's halves (24 R370). -/
theorem exec_registerWrite_route (h : s.mode = .running) {p o : Nat} (hp : p < 4096) (ho : o < 16) (h8 : o % 8 = 0) (v : DWord) :
    exec (.registerWrite 0 (0xA0000 + 16 * p + o) v) s = .next (s.writeRoute p (o == 8) v) := by
  have e1 : (0xA0000 + 16 * p + o - 0xA0000) / 16 = p := by omega
  have e2 : (0xA0000 + 16 * p + o) % 16 = o := by omega
  rw [exec_registerWrite_module h (by omega) (by omega) (by omega), State.writeModuleReg]
  iterate 8 rw [if_neg (by omega)]
  rw [if_pos (by omega), e1, e2]

/-! ## What each group of registers holds after a write -/

/-- A function's own registers. -/
theorem writes_ownRegisters (h : s.mode = .running) (hfn : fn ≤ 16) (v : DWord) :
    let f := s.fn fn
    Goes (.registerWrite fn 0x10 v) s (fun t => FnIs s t fn { f with debug := v.getLsbD 0 }) ∧
    Goes (.registerWrite fn 0x28 v) s (fun t => FnIs s t fn { f with errcnt := f.errcnt &&& ~~~ v }) ∧
    Goes (.registerWrite fn 0x30 v) s (fun t =>
      FnIs s t fn { f with apEnable := v.getLsbD 63, apBase := v &&& 0x01FFFFFFFFFFF000#64 }) ∧
    Goes (.registerWrite fn 0x38 v) s (fun t => FnIs s t fn { f with apCtx := v.toNat % 2048 }) ∧
    Goes (.registerWrite fn 0x100000 v) s (fun t => FnIs s t fn { f with priAlloc := v.toNat }) := by
  have hup := State.up_of_running h
  have hok := fnOk_of_le hfn
  refine ⟨⟨_, ?_, .setFn ..⟩, ⟨_, ?_, .setFn ..⟩, ⟨_, ?_, .setFn ..⟩, ⟨_, ?_, .setFn ..⟩, ⟨_, ?_, .setFn ..⟩⟩ <;>
    simp [exec, execRegisterWrite, hup, hok]

/-- QBASE, QHEAD, QSTAT's KERR and QFAULT (24 R368). -/
theorem writes_queueRegisters (h : s.mode = .running) (hfn : fn ≤ 16) (hq : q < 64) (v : DWord) :
    let x := s.queue fn q
    let at_ := 0x1000 + 64 * q
    Goes (.registerWrite fn at_ v) s (fun t => QueueIs s t fn q { x with base := v }) ∧
    Goes (.registerWrite fn (at_ + 0x10) v) s (fun t =>
      QueueIs s t fn q (if x.state = 0 then x else { x with head := v.toNat, got := none, half := none })) ∧
    Goes (.registerWrite fn (at_ + 0x18) v) s (fun t => QueueIs s t fn q (if v.getLsbD 12 then { x with kerr := false } else x)) ∧
    Goes (.registerWrite fn (at_ + 0x20) v) s (fun t => QueueIs s t fn q { x with fault := v.toNat }) := by
  intro x at_
  have hex {o : Nat} (ho : o < 64) (h8 : o % 8 = 0) := exec_registerWrite_queue h hfn hq ho h8 v
  refine ⟨⟨_, hex (o := 0) (by decide) rfl, .setQueue s fn _ hq⟩, ⟨_, hex (by decide) rfl, ?_⟩, ⟨_, hex (by decide) rfl, ?_⟩,
    ⟨_, hex (by decide) rfl, .setQueue s fn _ hq⟩⟩
  · show QueueIs s (if x.state = 0 then s else _) fn q _
    split
    · exact .refl s fn q
    · exact .setQueue s fn _ hq
  · show QueueIs s (if v.getLsbD 12 then _ else s) fn q _
    split
    · exact .setQueue s fn _ hq
    · exact .refl s fn q

/-- PEERID and DOMSIZE are left as they are while a launch is under way (24 R370). -/
theorem exec_registerWrite_peerid (h : s.mode = .running) (v : DWord) :
    exec (.registerWrite 0 0x80020 v) s =
      .next (if s.launchOn then s else { s with peerid := v.toNat % 4096, domsize := v.toNat / 65536 % 8192 }) :=
  exec_registerWrite_module h (by decide) rfl (by decide) v

theorem State.launchOn_eq_false (hall : s.entries.all (fun e => e.2.phase == .waiting || e.2.body.ty != 0) = true) :
    s.launchOn = false := by
  rw [List.all_eq_true] at hall
  refine List.any_eq_false.mpr fun e he => ?_
  have := hall e he
  grind

theorem putTag_getD {tag : List Byte} (hlen : tag.length = 32) {k : Nat} (hk : k < 4) (v : DWord) (i : Nat) :
    (putTag tag k v).getD i 0 =
      if 8 * k ≤ i ∧ i < 8 * k + 8 then BitVec.ofNat 8 (v.toNat / 2 ^ (8 * (i - 8 * k))) else tag.getD i 0 := by
  have htake : (tag.take (8 * k)).length = 8 * k := by rw [List.length_take]; omega
  rw [putTag, List.append_assoc]
  by_cases hlow : i < 8 * k
  · rw [getD_append_of_lt _ _ (by omega), if_neg (by omega)]
    simp [hlow]
  · rw [getD_append_of_le _ _ (by omega), htake]
    by_cases hhigh : i < 8 * k + 8
    · rw [getD_append_of_lt _ _ (by rw [leBytes_length]; omega), leBytes_getD _ (by omega), if_pos (by omega)]
    · have e : 8 * k + 8 + (i - 8 * k - 8) = i := by omega
      rw [getD_append_of_le _ _ (by rw [leBytes_length]; omega), if_neg (by omega)]
      simp [e]

theorem writes_functionFields (h : s.mode = .running) {n : Nat} (hn : n < 17) (v : DWord) :
    let g := s.fn n
    let at_ := 0x80100 + 64 * n
    (s.hasTeams n = false → Goes (.registerWrite 0 (at_ + 0x10) v) s (fun t => FnIs s t n { g with saveBase := v }) ∧
      Goes (.registerWrite 0 (at_ + 0x18) v) s (fun t => FnIs s t n { g with saveSize := v })) ∧
    Goes (.registerWrite 0 (at_ + 0x20) v) s (fun t => FnIs s t n { g with tslice := v }) ∧
    Goes (.registerWrite 0 (at_ + 0x28) v) s (fun t => FnIs s t n { g with mcgBase := v }) := by
  intro g at_
  have hex {o : Nat} (ho : o < 64) (h8 : o % 8 = 0) := exec_registerWrite_function h hn ho h8 v
  refine ⟨fun hfree => ⟨⟨_, hex (by decide) rfl, ?_⟩, ⟨_, hex (by decide) rfl, ?_⟩⟩, ⟨_, hex (by decide) rfl, .setFn ..⟩,
    ⟨_, hex (by decide) rfl, .setFn ..⟩⟩
  · show FnIs s (if s.hasTeams n then s else _) n _
    rw [hfree]; exact .setFn ..
  · show FnIs s (if s.hasTeams n then s else _) n _
    rw [hfree]; exact .setFn ..

/-- One context descriptor is written, and nothing else. -/
theorem State.context_only (s : State) (c : Nat) (y : Ctx) :
    let t : State := { s with contexts := SMap.set s.contexts c y Ctx.zero }
    t.context c = y ∧ (∀ k, k ≠ c → t.context k = s.context k) ∧ t = { s with contexts := t.contexts } :=
  ⟨(SMap.getD_set ..).trans (if_pos rfl), fun _ hk => (SMap.getD_set ..).trans (if_neg hk), rfl⟩

/-- One route is written, and nothing else. -/
theorem State.route_only (s : State) (p : Nat) (y : BitVec 128) :
    let t : State := { s with routes := SMap.set s.routes p y 0 }
    SMap.getD t.routes p 0 = y ∧ (∀ k, k ≠ p → SMap.getD t.routes k 0 = SMap.getD s.routes k 0) ∧
      t = { s with routes := t.routes } :=
  ⟨(SMap.getD_set ..).trans (if_pos rfl), fun _ hk => (SMap.getD_set ..).trans (if_neg hk), rfl⟩

/-- The PASID's field of a context descriptor. -/
theorem shift44_setWidth (v : DWord) : (v >>> 44).setWidth 20 = BitVec.ofNat 20 (v.toNat / 2 ^ 44) := by
  apply BitVec.eq_of_toNat_eq
  simp [Nat.shiftRight_eq_div_pow]

/-- The part of O52 about what a REGISTER_WRITE leaves (24 R364 to R371). -/
theorem registers : Claim.Registers := by
  intro s fn v h hfn f writes
  obtain ⟨hdebug, herrcnt, hap, hapCtx, hpri⟩ := writes_ownRegisters h hfn v
  have hmod {off : Nat} (hoff : 0x80000 ≤ off) (h8 : off % 8 = 0) (hne : off ≠ 0x100000) :=
    exec_registerWrite_module h hoff h8 hne v
  refine ⟨hdebug, herrcnt, hap, hapCtx, hpri, fun q hq => writes_queueRegisters h hfn hq v,
    fun h0 off hoff hne => exec_registerWrite_virtual h0 hoff hne v, ⟨_, hmod (by decide) rfl (by decide), rfl⟩, fun hall => ?_,
    fun e he hphase hty => ?_, ⟨_, hmod (by decide) rfl (by decide), rfl⟩, fun k hk hlen => ?_,
    ⟨_, hmod (by decide) rfl (by decide), rfl⟩, fun n hn => writes_functionFields h hn v, fun c hc => ?_, fun p hp => ?_⟩
  · exact ⟨_, exec_registerWrite_peerid h v, by rw [State.launchOn_eq_false hall]; rfl⟩
  · have hon : s.launchOn = true := List.any_eq_true.mpr ⟨e, he, by simp [hphase, hty]⟩
    exact ⟨_, exec_registerWrite_peerid h v, by rw [hon]; rfl⟩
  · exact ⟨_, exec_registerWrite_tag h hk v, rfl, fun i _ => putTag_getD hlen hk v i⟩
  · refine ⟨⟨_, exec_registerWrite_context h (o := 0) hc (by decide) rfl v, State.context_only ..⟩, _,
      exec_registerWrite_context h hc (by decide) rfl v, ?_⟩
    rw [← shift44_setWidth]
    exact State.context_only ..
  · exact ⟨⟨_, exec_registerWrite_route h (o := 0) hp (by decide) rfl v, State.route_only ..⟩, _,
      exec_registerWrite_route h hp (by decide) rfl v, State.route_only ..⟩

end Sys2Proof.Machine
end

section
/-! PROOF. What the host reads of the registers (24 R365 to R371, R373; 23 R358; 00 R4). -/
namespace Sys2Proof.Machine
open Sys2Proof

variable {s : State} {fn q : Nat}

/-! ## Which register an offset names -/

/-- A running module answers a read by its offset. -/
theorem State.readReg_running (h : s.mode = .running) (hfn : fn ≤ 16) (off : Nat) :
    s.readReg fn off =
      if off = 0 then idWord
      else if 0x80000 ≤ off then (if fn = 0 then s.readModule off else 0)
      else if 0x1000 ≤ off ∧ off < 0x1000 + 64 * 64 then (s.queue fn ((off - 0x1000) / 64)).read ((off - 0x1000) % 64)
      else if off = 0x10 then (if (s.fn fn).debug then 1 else 0)
      else if off = 0x18 then (s.fn fn).dbgPc
      else if off = 0x20 then BitVec.ofNat 64 ((s.fn fn).dbgTeam.toNat + if (s.fn fn).dbgValid then 2 ^ 32 else 0)
      else if off = 0x28 then (s.fn fn).errcnt
      else if off = 0x30 then (s.fn fn).apBase ||| (if (s.fn fn).apEnable then BitVec.ofNat 64 (2 ^ 63) else 0)
      else if off = 0x38 then BitVec.ofNat 64 (s.fn fn).apCtx
      else 0 :=
  if_neg (by simp [h, fnOk_of_le hfn])

theorem State.readReg_queue (h : s.mode = .running) (hfn : fn ≤ 16) (hq : q < 64) {o : Nat} (ho : o < 64) :
    s.readReg fn (0x1000 + 64 * q + o) = (s.queue fn q).read o := by
  have e1 : (0x1000 + 64 * q + o - 0x1000) / 64 = q := by omega
  have e2 : (0x1000 + 64 * q + o - 0x1000) % 64 = o := by omega
  rw [State.readReg_running h hfn, if_neg (by omega), if_neg (by omega), if_pos (by omega), e1, e2]

theorem State.readReg_module (h : s.mode = .running) {off : Nat} (hoff : 0x80000 ≤ off) :
    s.readReg 0 off = s.readModule off := by
  rw [State.readReg_running h (Nat.zero_le 16), if_neg (by omega), if_pos hoff, if_pos rfl]

theorem State.readReg_virtual (h : s.mode = .running) (hfn : fn ≤ 16) (h0 : fn ≠ 0) {off : Nat} (hoff : 0x80000 ≤ off) :
    s.readReg fn off = 0 := by
  rw [State.readReg_running h hfn, if_neg (by omega), if_pos hoff, if_neg h0]

/-- Offsets that name no register of a function. -/
theorem State.readReg_unnamed (h : s.mode = .running) (hfn : fn ≤ 16) {off : Nat}
    (hoff : 0x40 ≤ off ∧ off < 0x1000 ∨ 0x2000 ≤ off ∧ off < 0x80000) : s.readReg fn off = 0 := by
  rw [State.readReg_running h hfn]
  iterate 9 rw [if_neg (by omega)]

theorem State.readReg_tag (h : s.mode = .running) {k : Nat} (hk : k < 4) :
    s.readReg 0 (0x80040 + 8 * k) = BitVec.ofNat 64 (leNat ((s.sealtag.drop (8 * k)).take 8)) := by
  rw [State.readReg_module h (by omega), State.readModule]
  iterate 7 rw [if_neg (by omega)]
  rw [if_pos (by omega), Nat.add_sub_cancel_left]

theorem State.readReg_function (h : s.mode = .running) {n o : Nat} (hn : n < 17) (ho : o < 64) :
    s.readReg 0 (0x80100 + 64 * n + o) = (s.fn n).read o := by
  have e1 : (0x80100 + 64 * n + o - 0x80100) / 64 = n := by omega
  have e2 : (0x80100 + 64 * n + o - 0x80100) % 64 = o := by omega
  rw [State.readReg_module h (by omega), State.readModule]
  iterate 9 rw [if_neg (by omega)]
  rw [if_pos (by omega), e1, e2]

theorem State.readReg_context (h : s.mode = .running) {c o : Nat} (hc : c < 1088) (ho : o < 16) :
    s.readReg 0 (0x90000 + 16 * c + o) = (s.context c).read (o == 8) := by
  have e1 : (0x90000 + 16 * c + o - 0x90000) / 16 = c := by omega
  have e2 : (0x90000 + 16 * c + o) % 16 = o := by omega
  rw [State.readReg_module h (by omega), State.readModule]
  iterate 10 rw [if_neg (by omega)]
  rw [if_pos (by omega), e1, e2]

theorem State.readReg_route (h : s.mode = .running) {p o : Nat} (hp : p < 4096) (ho : o < 16) :
    s.readReg 0 (0xA0000 + 16 * p + o) =
      if o = 8 then (SMap.getD s.routes p 0 >>> 64).setWidth 64 else (SMap.getD s.routes p 0).setWidth 64 := by
  have e1 : (0xA0000 + 16 * p + o - 0xA0000) / 16 = p := by omega
  have e2 : (0xA0000 + 16 * p + o) % 16 = o := by omega
  rw [State.readReg_module h (by omega), State.readModule]
  iterate 11 rw [if_neg (by omega)]
  rw [if_pos (by omega), e1, e2]

/-! ## Fields as numbers -/

/-- A flag at a bit of a register. -/
def flagAt (b : Bool) (k : Nat) : Nat := if b then 2 ^ k else 0

theorem flagAt_le (b : Bool) (k : Nat) : flagAt b k ≤ 2 ^ k := by
  cases b
  · exact Nat.zero_le _
  · exact Nat.le_refl _

/-- A 128-bit value is read as its two halves. -/
theorem toNat_halves (x : BitVec 128) :
    (x.setWidth 64).toNat + 2 ^ 64 * ((x >>> 64).setWidth 64).toNat = x.toNat := by
  have := x.isLt
  simp only [BitVec.toNat_setWidth, BitVec.toNat_ushiftRight, Nat.shiftRight_eq_div_pow]
  omega

/-- QCFG and QSTAT, field by field (24 R368). -/
theorem Queue.read_config (x : Queue) (hl : x.log2n < 32) (hc : x.ctx < 2048) :
    (x.read 8).toNat = x.log2n + 32 * x.ctx + flagAt x.enable 16 := by
  have hf := flagAt_le x.enable 16
  exact Nat.mod_eq_of_lt (show x.log2n + 2 ^ 5 * x.ctx + flagAt x.enable 16 < 2 ^ 64 by omega)

theorem Queue.read_status (x : Queue) (h1 : x.state < 4) (h2 : x.status < 8) :
    (x.read 0x18).toNat = x.state + 256 * x.status + flagAt x.kerr 12 := by
  have hf := flagAt_le x.kerr 12
  exact Nat.mod_eq_of_lt (show x.state + 2 ^ 8 * x.status + flagAt x.kerr 12 < 2 ^ 64 by omega)

theorem Queue.read_unnamed (x : Queue) {o : Nat} (ho : 0x28 ≤ o) : x.read o = 0 := by
  rw [Queue.read]
  iterate 5 rw [if_neg (by omega)]

theorem Fn.read_unnamed (f : Fn) {o : Nat} (ho : 0x30 ≤ o) : f.read o = 0 := by
  rw [Fn.read]
  iterate 6 rw [if_neg (by omega)]

/-- The halves of a context descriptor (24 R366). -/
theorem Ctx.read_low (x : Ctx) (hr : x.root < 2 ^ 36) : (x.read false).toNat = 4096 * x.root :=
  Nat.mod_eq_of_lt (by omega)

theorem Ctx.read_high (x : Ctx) (hfn : x.fn < 32) :
    (x.read true).toNat = 2 ^ 44 * x.pasid.toNat + flagAt x.pri 39 + flagAt x.svm 38 + 2 ^ 33 * x.fn + flagAt x.v 32 := by
  have hp := x.pasid.isLt
  have h39 := flagAt_le x.pri 39
  have h38 := flagAt_le x.svm 38
  have h32 := flagAt_le x.v 32
  exact Nat.mod_eq_of_lt (show 2 ^ 44 * x.pasid.toNat + flagAt x.pri 39 + flagAt x.svm 38 + 2 ^ 33 * x.fn + flagAt x.v 32 < 2 ^ 64
    by omega)

/-- A byte of SEALTAG, in the register of its eight bytes (24 R373). -/
theorem State.readReg_tag_byte (h : s.mode = .running) {k i : Nat} (hk : k < 4) (hi : i < 8) :
    (s.readReg 0 (0x80040 + 8 * k)).toNat / 2 ^ (8 * i) % 256 = (s.sealtag.getD (8 * k + i) 0).toNat := by
  have hlt : leNat ((s.sealtag.drop (8 * k)).take 8) < 2 ^ 64 :=
    Nat.lt_of_lt_of_le (leNat_lt _) (Nat.pow_le_pow_right (by decide) (by rw [List.length_take]; omega))
  rw [State.readReg_tag h hk, BitVec.toNat_ofNat, Nat.mod_eq_of_lt hlt, leNat_div_mod]
  simp [hi]

/-- BUSY is set over a word whose own bit 63 is clear (24 R369). -/
theorem toNat_or_top (x : DWord) (hx : x.getLsbD 63 = false) (b : Bool) :
    (x ||| if b then BitVec.ofNat 64 (2 ^ 63) else 0).toNat = x.toNat + flagAt b 63 := by
  cases b
  · simp [flagAt]
  · have hlt : x.toNat < 2 ^ 63 := BitVec.toNat_lt_of_msb_false (by rw [BitVec.msb_eq_getLsbD_last]; exact hx)
    have hor := Nat.two_pow_add_eq_or_of_lt hlt 1
    rw [if_pos rfl, BitVec.toNat_or, Nat.or_comm]
    exact hor.symm.trans (Nat.add_comm ..)

theorem State.preemptBusy_eq (s : State) :
    s.preemptBusy = s.preemptFor.any (fun i => ((SMap.find? s.teams i).bind (·.save)).isSome) := by
  unfold State.preemptBusy
  congr 1
  funext i
  cases SMap.find? s.teams i <;> rfl

/-! ## What the host reads -/

/-- ID and a function's own registers (24 R364, R365; 09 R167). -/
theorem reads_ownRegisters (h : s.mode = .running) (hfn : fn ≤ 16) :
    let f := s.fn fn
    let num (off : Nat) : Nat := (s.readReg fn off).toNat
    num 0 % 2 ^ 32 = Config.stepping.toNat ∧ num 0 / 2 ^ 32 = 1 ∧ num 0x10 = flagAt f.debug 0 ∧ s.readReg fn 0x18 = f.dbgPc ∧
    num 0x20 = f.dbgTeam.toNat + flagAt f.dbgValid 32 ∧ s.readReg fn 0x28 = f.errcnt ∧
    s.readReg fn 0x30 = (f.apBase ||| if f.apEnable then 0x8000000000000000#64 else 0) ∧ num 0x38 = f.apCtx % 2 ^ 64 := by
  intro f num
  have hrd (off : Nat) := State.readReg_running h hfn off
  have hid : num 0 = idWord.toNat := congrArg BitVec.toNat (hrd 0)
  have hdebug : num 0x10 = (if f.debug then 1#64 else 0).toNat := congrArg BitVec.toNat (hrd 0x10)
  refine ⟨?_, ?_, ?_, hrd 0x18, (congrArg BitVec.toNat (hrd 0x20)).trans ?_, hrd 0x28, hrd 0x30, congrArg BitVec.toNat (hrd 0x38)⟩
  · rw [hid]; decide
  · rw [hid]; decide
  · rw [hdebug]; cases f.debug <;> rfl
  · have hf := flagAt_le f.dbgValid 32
    have ht := f.dbgTeam.isLt
    exact Nat.mod_eq_of_lt (show f.dbgTeam.toNat + flagAt f.dbgValid 32 < 2 ^ 64 by omega)

/-- A queue's registers (24 R368). -/
theorem reads_queueRegisters (h : s.mode = .running) (hfn : fn ≤ 16) (hq : q < 64) :
    let x := s.queue fn q
    let at_ := 0x1000 + 64 * q
    let num (off : Nat) : Nat := (s.readReg fn off).toNat
    s.readReg fn at_ = x.base ∧
    (x.log2n < 32 → x.ctx < 2048 → num (at_ + 8) = x.log2n + 32 * x.ctx + flagAt x.enable 16) ∧
    num (at_ + 0x10) = x.head % 2 ^ 64 ∧
    (x.state < 4 → x.status < 8 → num (at_ + 0x18) = x.state + 256 * x.status + flagAt x.kerr 12) ∧
    num (at_ + 0x20) = x.fault % 2 ^ 64 ∧ (∀ o, 0x28 ≤ o → o < 64 → s.readReg fn (at_ + o) = 0) := by
  intro x at_ num
  have hrd {o : Nat} (ho : o < 64) : s.readReg fn (at_ + o) = x.read o := State.readReg_queue h hfn hq ho
  have hnum {o : Nat} (ho : o < 64) : num (at_ + o) = (x.read o).toNat := congrArg BitVec.toNat (hrd ho)
  refine ⟨hrd (o := 0) (by decide), fun hl hc => ?_, ?_, fun h1 h2 => ?_, ?_, fun o ho hlt => ?_⟩
  · rw [hnum (by decide)]; exact x.read_config hl hc
  · rw [hnum (by decide)]; rfl
  · rw [hnum (by decide)]; exact x.read_status h1 h2
  · rw [hnum (by decide)]; rfl
  · rw [hrd hlt]; exact x.read_unnamed ho

/-- The module's single registers (24 R367, R369, R370, R373; 23 R358). -/
theorem reads_moduleRegisters (h : s.mode = .running) :
    let num (off : Nat) : Nat := (s.readReg 0 off).toNat
    num 0x80000 = 2 ^ 32 * s.vfrstBusy.toNat + 2 ^ 16 * s.vfrstDone.toNat ∧ s.readReg 0 0x80008 = s.invaddr ∧
    s.readReg 0 0x80010 = s.invcmd ∧
    (s.preempt.getLsbD 63 = false → num 0x80018 = s.preempt.toNat +
      flagAt (s.preemptFor.any (fun i => ((SMap.find? s.teams i).bind (·.save)).isSome)) 63) ∧
    (s.peerid < 4096 → s.domsize < 8192 → num 0x80020 = s.peerid + 2 ^ 16 * s.domsize) ∧ s.readReg 0 0x80028 = s.sealaddr ∧
    s.readReg 0 0x80030 = s.sealcmd ∧ s.readReg 0 0x80060 = s.attaddr ∧ s.readReg 0 0x80068 = 0 := by
  intro num
  have hrd {off : Nat} (hoff : 0x80000 ≤ off) : s.readReg 0 off = s.readModule off := State.readReg_module h hoff
  have hnum {off : Nat} (hoff : 0x80000 ≤ off) : num off = (s.readModule off).toNat := congrArg BitVec.toNat (hrd hoff)
  refine ⟨?_, hrd (by decide), hrd (by decide), fun hp => ?_, fun hp hd => ?_, hrd (by decide), hrd (by decide), hrd (by decide),
    hrd (by decide)⟩
  · have hb := s.vfrstBusy.isLt
    have hd := s.vfrstDone.isLt
    rw [hnum (by decide)]
    exact Nat.mod_eq_of_lt (by omega)
  · rw [hnum (by decide), ← State.preemptBusy_eq]
    exact toNat_or_top s.preempt hp s.preemptBusy
  · rw [hnum (by decide)]
    exact Nat.mod_eq_of_lt (by omega)

/-- A function's fields, from the physical function (24 R365). -/
theorem reads_functionFields (h : s.mode = .running) {n : Nat} (hn : n < 17) :
    let g := s.fn n
    let at_ := 0x80100 + 64 * n
    let num (off : Nat) : Nat := (s.readReg 0 off).toNat
    num at_ + 2 ^ 64 * num (at_ + 8) = g.part.toNat ∧ s.readReg 0 (at_ + 0x10) = g.saveBase ∧
    s.readReg 0 (at_ + 0x18) = g.saveSize ∧ s.readReg 0 (at_ + 0x20) = g.tslice ∧ s.readReg 0 (at_ + 0x28) = g.mcgBase ∧
    ∀ o, 0x30 ≤ o → o < 64 → s.readReg 0 (at_ + o) = 0 := by
  intro g at_ num
  have hrd {o : Nat} (ho : o < 64) : s.readReg 0 (at_ + o) = g.read o := State.readReg_function h hn ho
  have hlow : num at_ = (g.part.setWidth 64).toNat := congrArg BitVec.toNat (hrd (o := 0) (by decide))
  have hhigh : num (at_ + 8) = ((g.part >>> 64).setWidth 64).toNat := congrArg BitVec.toNat (hrd (by decide))
  refine ⟨?_, hrd (by decide), hrd (by decide), hrd (by decide), hrd (by decide), fun o ho hlt => ?_⟩
  · rw [hlow, hhigh, toNat_halves]
  · rw [hrd hlt]; exact g.read_unnamed ho

/-- The part of O52 about what the host reads (00 R4; 09 R167; 23 R358; 24 R365 to R371, R373). -/
theorem registerReads : Claim.RegisterReads := by
  intro s fn h hfn f num bit
  obtain ⟨hstep, hmask, hdebug, hpc, hteam, herr, hap, hctx⟩ := reads_ownRegisters h hfn
  refine ⟨hstep, hmask, hdebug, hpc, hteam, herr, hap, hctx, fun off h1 h2 => State.readReg_unnamed h hfn (.inl ⟨h1, h2⟩),
    fun q hq => reads_queueRegisters h hfn hq, fun off h1 h2 => State.readReg_unnamed h hfn (.inr ⟨h1, h2⟩),
    fun h0 off hoff => State.readReg_virtual h hfn h0 hoff, ?_⟩
  rintro rfl
  obtain ⟨hvfrst, hinvaddr, hinvcmd, hpreempt, hpeer, hsealaddr, hsealcmd, hattaddr, hattcmd⟩ := reads_moduleRegisters h
  refine ⟨hvfrst, hinvaddr, hinvcmd, hpreempt, hpeer, hsealaddr, hsealcmd, hattaddr, hattcmd,
    fun _ k i hk hi => State.readReg_tag_byte h hk hi, fun n hn => reads_functionFields h hn, fun c hc => ⟨fun hr => ?_, fun hf => ?_⟩,
    fun p hp => ?_⟩
  · exact (congrArg BitVec.toNat (State.readReg_context h (o := 0) hc (by decide))).trans (Ctx.read_low _ hr)
  · exact (congrArg BitVec.toNat (State.readReg_context h hc (by decide))).trans (Ctx.read_high _ hf)
  · have hlow := congrArg BitVec.toNat (State.readReg_route h (o := 0) hp (by decide))
    have hhigh := congrArg BitVec.toNat (State.readReg_route h (o := 8) hp (by decide))
    have hlow' : num (0xA0000 + 16 * p) = ((SMap.getD s.routes p 0).setWidth 64).toNat := hlow
    have hhigh' : num (0xA0000 + 16 * p + 8) = ((SMap.getD s.routes p 0 >>> 64).setWidth 64).toNat := hhigh
    rw [hlow', hhigh', toNat_halves]

end Sys2Proof.Machine
end

section
/-! PROOF. The seal and the attestation report (24 R373, R374; 09 R168). -/
namespace Sys2Proof.Machine
open Sys2Proof

variable {s : State}

/-! ## Lengths of digests -/

@[simp] theorem natBytes_length (n x : Nat) : (natBytes n x).length = n := by
  induction n generalizing x with
  | zero => rfl
  | succ n ih => rw [natBytes, List.length_cons, ih]

theorem keccakRound_length (a : List Nat) (rc : Nat) : (keccakRound a rc).length = 25 := by
  have hchi : (keccakChi (keccakRhoPi (keccakTheta a))).length = 25 := by simp [keccakChi]
  unfold keccakRound
  split
  · next h => rw [h] at hchi; cases hchi
  · next h => rw [h] at hchi; exact hchi

theorem foldl_keccakRound_length (rcs : List Nat) (a : List Nat) (h : a.length = 25) :
    (rcs.foldl keccakRound a).length = 25 := by
  induction rcs generalizing a with
  | nil => exact h
  | cons rc rcs ih => exact ih _ (keccakRound_length a rc)

theorem keccakAbsorb_length (n : Nat) (a : List Nat) (m : List Byte) (h : a.length = 25) :
    (keccakAbsorb n a m).length = 25 := by
  induction n generalizing a m with
  | zero => exact h
  | succ n ih => exact ih _ _ (foldl_keccakRound_length _ _ (by simp))

theorem flatMap_natBytes_length (k : Nat) (xs : List Nat) : (xs.flatMap (natBytes k)).length = k * xs.length := by
  induction xs with
  | nil => rfl
  | cons x xs ih => rw [List.flatMap_cons, List.length_append, natBytes_length, ih, List.length_cons, Nat.mul_succ, Nat.add_comm]

/-- SHAKE256 gives as many bytes as asked for, up to its rate (24 R372). -/
theorem shake256_length (m : List Byte) {out : Nat} (h : out ≤ 136) : (shake256 m out).length = out := by
  rw [shake256, keccakSponge, List.length_take, flatMap_natBytes_length, keccakAbsorb_length _ _ _ List.length_replicate]
  omega

/-! ## The fields of a report (24 R374) -/

/-- A field of some bytes, at an offset. -/
def FieldAt (bs : List Byte) (k : Nat) (part : List Byte) : Prop := ∃ pre post, bs = pre ++ part ++ post ∧ pre.length = k

theorem FieldAt.getD {bs part : List Byte} {k : Nat} (h : FieldAt bs k part) {i : Nat} (hi : i < part.length) :
    bs.getD (k + i) 0 = part.getD i 0 := by
  obtain ⟨pre, post, rfl, rfl⟩ := h
  rw [List.append_assoc, getD_append_of_le _ _ (by omega), Nat.add_sub_cancel_left, getD_append_of_lt _ _ hi]

/-- Bytes of a field, by their own offsets. -/
theorem FieldAt.getD_sub {bs part : List Byte} {k : Nat} (h : FieldAt bs k part) {i : Nat} (hk : k ≤ i) (hi : i < k + part.length) :
    bs.getD i 0 = part.getD (i - k) 0 := by
  have e := h.getD (i := i - k) (by omega)
  rwa [Nat.add_sub_cancel' hk] at e

theorem FieldAt.slice {bs part : List Byte} {k : Nat} (h : FieldAt bs k part) : (bs.drop k).take part.length = part := by
  obtain ⟨pre, post, rfl, rfl⟩ := h
  simp

/-- Fields that follow one another: each stands behind those before it. -/
theorem fieldAt_flatten {parts : List (List Byte)} {part : List Byte} (i : Nat) (hp : parts[i]? = some part) {k : Nat}
    (hk : ((parts.take i).map List.length).sum = k) : FieldAt parts.flatten k part := by
  obtain ⟨hi, rfl⟩ := List.getElem?_eq_some_iff.mp hp
  have hsplit : parts = parts.take i ++ parts[i] :: parts.drop (i + 1) := by
    rw [← List.drop_eq_getElem_cons hi, List.take_append_drop]
  refine ⟨(parts.take i).flatten, (parts.drop (i + 1)).flatten, (congrArg List.flatten hsplit).trans ?_, ?_⟩
  · rw [List.flatten_append, List.flatten_cons, List.append_assoc]
  · rw [List.length_flatten, hk]

/-- The fields of a report, in order. -/
def State.reportFields (s : State) (nonce : List Byte) : List (List Byte) :=
  [[0x58, 0x41, 0x54, 0x00], leBytes 4 Config.stepping.toNat, leBytes 8 0, (List.range 32).map (fun i => nonce.getD i 0),
    s.measurement, shake256 s.ownerKeys.flatten 64, (List.range 57).map Config.identityKey, leBytes 7 0,
    (List.range 114).map (Config.identitySign (s.reportBody nonce))]

theorem State.report_eq_fields (s : State) (nonce : List Byte) : s.report nonce = (s.reportFields nonce).flatten := by
  simp [State.report, State.reportBody, State.reportFields]

theorem State.reportBody_length (s : State) (nonce : List Byte) (hm : s.measurement.length = 64) :
    (s.reportBody nonce).length = 240 := by
  simp [State.reportBody, hm, shake256_length]

/-- What a report holds, for a state's measurement and owner keys: its bytes by their offsets (24 R374). -/
structure State.Reports (s : State) (nonce bs : List Byte) : Prop where
  length : bs.length = 354
  magic : bs.take 4 = [0x58, 0x41, 0x54, 0x00]
  stepping : leNat ((bs.drop 4).take 4) = Config.stepping.toNat
  reserved : ∀ i, 8 ≤ i → i < 16 → bs.getD i 0 = 0
  nonce : ∀ i, i < 32 → bs.getD (16 + i) 0 = nonce.getD i 0
  measurement : ∀ i, i < 64 → bs.getD (48 + i) 0 = s.measurement.getD i 0
  owners : ∀ i, i < 64 → bs.getD (112 + i) 0 = (shake256 s.ownerKeys.flatten 64).getD i 0
  key : ∀ i, i < 57 → bs.getD (176 + i) 0 = Config.identityKey i
  pad : ∀ i, 233 ≤ i → i < 240 → bs.getD i 0 = 0
  signature : ∀ i, i < 114 → bs.getD (240 + i) 0 = Config.identitySign (bs.take 240) i

theorem leBytes_zero_getD (n i : Nat) : (leBytes n 0).getD i 0 = 0 := by
  by_cases h : i < n
  · exact (leBytes_getD 0 h).trans (congrArg (BitVec.ofNat 8) (Nat.zero_div _))
  · rw [List.getD_eq_getElem?_getD, List.getElem?_eq_none (by rw [leBytes_length]; omega), Option.getD_none]

theorem State.report_reports (s : State) (nonce : List Byte) (hm : s.measurement.length = 64) : s.Reports nonce (s.report nonce) := by
  have hat {part : List Byte} (i : Nat) (hp : (s.reportFields nonce)[i]? = some part) {k : Nat}
      (hk : (((s.reportFields nonce).take i).map List.length).sum = k) : FieldAt (s.report nonce) k part := by
    rw [State.report_eq_fields]; exact fieldAt_flatten i hp hk
  have hshake : (shake256 s.ownerKeys.flatten 64).length = 64 := shake256_length _ (by decide)
  have hbody : (s.report nonce).take 240 = s.reportBody nonce := List.take_left' (s.reportBody_length nonce hm)
  have hmagic := hat 0 rfl (k := 0) rfl
  have hstep := hat 1 rfl (k := 4) rfl
  have hres := hat 2 rfl (k := 8) rfl
  have hnonce := hat 3 rfl (k := 16) rfl
  have hmeas := hat 4 rfl (k := 48) rfl
  have howner := hat 5 rfl (k := 112) (by simp [State.reportFields, hm])
  have hkey := hat 6 rfl (k := 176) (by simp [State.reportFields, hm, hshake])
  have hpad := hat 7 rfl (k := 233) (by simp [State.reportFields, hm, hshake])
  have hsig := hat 8 rfl (k := 240) (by simp [State.reportFields, hm, hshake])
  constructor
  case length => simp [State.report, s.reportBody_length nonce hm]
  case magic => exact hmagic.slice
  case stepping => exact (congrArg leNat hstep.slice).trans (by decide)
  case reserved => exact fun i h1 h2 => (hres.getD_sub h1 (by simpa using h2)).trans (leBytes_zero_getD ..)
  case nonce => exact fun i hi => (hnonce.getD (by simpa using hi)).trans (by simp [hi])
  case measurement => exact fun i hi => hmeas.getD (by omega)
  case owners => exact fun i hi => howner.getD (by omega)
  case key => exact fun i hi => (hkey.getD (by simpa using hi)).trans (by simp [hi])
  case pad => exact fun i h1 h2 => (hpad.getD_sub h1 (by simpa using h2)).trans (leBytes_zero_getD ..)
  case signature =>
    intro i hi
    rw [hbody]
    exact (hsig.getD (by simpa using hi)).trans (by simp [hi])

/-! ## SEALCMD (24 R373) -/

/-- SEALCMD's fields do not overlap: length, MISMATCH, OP and BUSY, each within its width. -/
theorem sealFields_lt {l o m b : Nat} (hl : l < 2 ^ 40) (ho : o < 2) (hm : m < 2) (hb : b < 2) :
    b * 2 ^ 63 + o * 2 ^ 62 + m * 2 ^ 61 + l < 2 ^ 64 := by omega

theorem sealFields_of {l o m b : Nat} (hl : l < 2 ^ 40) (ho : o < 2) (hm : m < 2) :
    let w := b * 2 ^ 63 + o * 2 ^ 62 + m * 2 ^ 61 + l
    w % 2 ^ 40 = l ∧ w / 2 ^ 40 % 2 ^ 21 = 0 ∧ w / 2 ^ 62 % 2 = o ∧ w / 2 ^ 61 % 2 = m ∧ w / 2 ^ 63 = b := by
  dsimp only
  refine ⟨?_, ?_, ?_, ?_, ?_⟩ <;> omega

theorem sealWord_toNat (len : Nat) {op : Nat} (hop : op < 2) (mismatch busy : Bool) :
    (sealWord len op mismatch busy).toNat =
      busy.toNat * 2 ^ 63 + op * 2 ^ 62 + mismatch.toNat * 2 ^ 61 + len % 2 ^ 40 := by
  have hlen := Nat.mod_lt len (Nat.two_pow_pos 40)
  have hlt := sealFields_lt hlen hop mismatch.toNat_lt busy.toNat_lt
  have hbit (b : Bool) (k : Nat) : (if b then 2 ^ k else 0) = b.toNat * 2 ^ k := by
    cases b
    · exact (Nat.zero_mul _).symm
    · exact (Nat.one_mul _).symm
  rw [sealWord, hbit, hbit, BitVec.toNat_ofNat, Nat.mod_eq_of_lt hlt]

/-- SEALCMD, field by field. -/
theorem sealWord_fields (len op : Nat) (hop : op < 2) (mismatch busy : Bool) :
    let w := (sealWord len op mismatch busy).toNat
    w % 2 ^ 40 = len % 2 ^ 40 ∧ w / 2 ^ 40 % 2 ^ 21 = 0 ∧ w / 2 ^ 62 % 2 = op ∧
      w / 2 ^ 61 % 2 = mismatch.toNat ∧ w / 2 ^ 63 = busy.toNat := by
  rw [sealWord_toNat len hop]
  exact sealFields_of (Nat.mod_lt _ (Nat.two_pow_pos 40)) hop mismatch.toNat_lt

theorem Memory.bytes_eq_map (m : Memory) (a n : Nat) : m.bytes a n = (List.range n).map (fun i => m.byte (a + i)) := by
  induction n generalizing a with
  | zero => rfl
  | succ n ih =>
    rw [Memory.bytes, ih, List.range_succ_eq_map, List.map_cons, List.map_map]
    refine congrArg _ (List.map_congr_left fun i _ => ?_)
    rw [Function.comp_apply, Nat.add_assoc, Nat.add_comm 1 i]

theorem Memory.wrote_stores (m : Memory) (a : Nat) (data : List Byte) : Wrote m (m.stores a data) a data :=
  fun b => Memory.byte_stores m a data b

/-- SEALCMD's fields in a state: the length, OP, MISMATCH and BUSY. -/
def State.SealFields (t : State) (len op mismatch busy : Nat) : Prop :=
  t.sealcmd.toNat % 2 ^ 40 = len ∧ t.sealcmd.toNat / 2 ^ 40 % 2 ^ 21 = 0 ∧ t.sealcmd.toNat / 2 ^ 62 % 2 = op ∧
    t.sealcmd.toNat / 2 ^ 61 % 2 = mismatch ∧ t.sealcmd.toNat / 2 ^ 63 = busy

/-- A write to SEALCMD while one is under way is ignored. -/
theorem State.startSeal_busy (len op : Nat) (hj : s.sealJob ≠ none) : s.startSeal len op = s :=
  if_pos (.inr (Option.isSome_iff_ne_none.mpr hj))

/-- A write to SEALCMD while none is under way begins one. -/
theorem State.startSeal_begins (h : s.mode = .running) (hj : s.sealJob = none) (len op : Nat) :
    s.startSeal len op = { s with sealcmd := sealWord len op false true, sealJob := some s.sealaddr.toNat } :=
  if_neg (by simp [State.up_of_running h, hj])

theorem startSeal_goes (h : s.mode = .running) (hj : s.sealJob = none) (n op : Nat) (hop : op < 2) :
    let t := s.startSeal n op
    t.SealFields (n % 2 ^ 40) op 0 1 ∧ t.sealJob = some s.sealaddr.toNat ∧
      t = { s with sealcmd := t.sealcmd, sealJob := t.sealJob } := by
  intro t
  have e : t = _ := State.startSeal_begins h hj n op
  rw [e]
  exact ⟨sealWord_fields n op hop false true, rfl, rfl⟩

/-- A command ends: BUSY is clear, and no byte of the host or of the module has changed but SEALTAG's, in a seal. -/
theorem State.sealDone_eq {a : Nat} (hj : s.sealJob = some a) :
    let tag := s.tagOf (s.host.bytes a (s.sealcmd.toNat % 2 ^ 40))
    s.sealDone =
      if s.sealcmd.getLsbD 62 then
        { s with sealJob := none, sealcmd := sealWord (s.sealcmd.toNat % 2 ^ 40) 1 (tag != s.sealtag) false }
      else { s with sealJob := none, sealcmd := sealWord (s.sealcmd.toNat % 2 ^ 40) 0 false false, sealtag := tag } := by
  rw [State.sealDone, hj]

theorem sealDone_ends {a : Nat} (hj : s.sealJob = some a) {tag : List Byte}
    (htag : s.tagOf (s.host.bytes a (s.sealcmd.toNat % 2 ^ 40)) = tag) :
    let n := s.sealcmd.toNat
    let t := s.sealDone
    t.sealJob = none ∧ t = { s with sealcmd := t.sealcmd, sealJob := none, sealtag := t.sealtag } ∧
    (s.sealcmd.getLsbD 62 = false → t.SealFields (n % 2 ^ 40) 0 0 0 ∧ t.sealtag = tag) ∧
    (s.sealcmd.getLsbD 62 = true →
      t.SealFields (n % 2 ^ 40) 1 (if tag = s.sealtag then 0 else 1) 0 ∧ t.sealtag = s.sealtag) := by
  intro n t
  have e : t = _ := State.sealDone_eq hj
  rw [htag] at e
  have hlen : n % 2 ^ 40 % 2 ^ 40 = n % 2 ^ 40 := Nat.mod_mod ..
  cases hop : s.sealcmd.getLsbD 62
  · rw [hop, if_neg (by decide)] at e
    rw [e]
    have hf := sealWord_fields (n % 2 ^ 40) 0 (by decide) false false
    rw [hlen] at hf
    exact ⟨rfl, rfl, fun _ => ⟨hf, rfl⟩, nofun⟩
  · rw [hop, if_pos rfl] at e
    rw [e]
    have hf := sealWord_fields (n % 2 ^ 40) 1 (by decide) (tag != s.sealtag) false
    have hm : (tag != s.sealtag).toNat = if tag = s.sealtag then 0 else 1 := by
      by_cases ht : tag = s.sealtag <;> simp [ht]
    rw [hlen, hm] at hf
    exact ⟨rfl, rfl, nofun, fun _ => ⟨hf, rfl⟩⟩

/-! ## ATTCMD and management's attestation (24 R374) -/

/-- No monitor is armed on host memory (04 R85): a write there wakes nothing. -/
theorem State.wake_host (s : State) (a n : Nat) : s.wake (.host a) n = s := by
  have hskip (l : Target) : touchesLine l (.host a) n = false := by cases l <;> rfl
  refine foldl_of_fixed (fun e => ?_) s.groups
  simp only [hskip]
  split <;> rfl

theorem State.writeAt_host (s : State) (a : Nat) (data : List Byte) (bad : List Bool) :
    s.writeAt (.host a) data bad = { s with host := s.host.stores a data } := State.wake_host ..

theorem exec_attcmd_other {v : DWord} (hv : v ≠ 1) : exec (.attcmd v) s = .next s :=
  congrArg _ (if_pos (.inr hv))

theorem exec_attcmd (h : s.mode = .running) :
    exec (.attcmd 1) s = .next { s with
      host := s.host.stores (s.attaddr.toNat + 64) (s.report (s.host.bytes s.attaddr.toNat 32)) } := by
  simp [exec, execAttcmd, State.up_of_running h, State.writeAt_host]

/-- ATTCMD's 1 writes a report behind the nonce, and memory of the module stays. -/
theorem attcmd_writes (h : s.mode = .running) :
    Goes (.attcmd 1) s (fun t =>
      Wrote s.host t.host (s.attaddr.toNat + 64) (s.report (s.host.bytes s.attaddr.toNat 32)) ∧ t.mem = s.mem) := by
  refine ⟨_, exec_attcmd h, ?_, rfl⟩
  dsimp only
  exact Memory.wrote_stores _ _ _

/-- The part of O52 about SEALCMD, ATTCMD and management's attestation (09 R168; 24 R373, R374). -/
theorem sealAndAttest : Claim.SealAndAttest := by
  intro s h len tag cmd reported
  have htag (a n : Nat) : s.tagOf (s.host.bytes a (n % 2 ^ 40)) = tag a n := by
    rw [Memory.bytes_eq_map]; rfl
  have hreport (hm : s.measurement.length = 64) (nonce : List Byte) : reported nonce (s.report nonce) := by
    have r := s.report_reports nonce hm
    exact ⟨r.length, r.magic, r.stepping, r.reserved, r.nonce, r.measurement, r.owners, r.key, r.pad, r.signature⟩
  refine ⟨fun n hj => ⟨?_, ?_⟩, fun n hj => ⟨⟨_, rfl, startSeal_goes h hj n 0 (by decide)⟩, _, rfl, startSeal_goes h hj n 1 (by decide)⟩,
    fun a hj => ?_, fun v hv => exec_attcmd_other hv, fun hm => ⟨fun nonce => ?_, ?_⟩⟩
  · exact congrArg _ (State.startSeal_busy n 0 hj)
  · exact congrArg _ (State.startSeal_busy n 1 hj)
  · exact sealDone_ends hj (htag a _)
  · exact ⟨{ s with hostReply := s.report nonce }, by simp [exec, execPldmAttest, State.up_of_running h], hreport hm nonce, rfl⟩
  · obtain ⟨t, ht, hwrote, hmem⟩ := attcmd_writes h
    rw [Memory.bytes_eq_map] at hwrote
    exact ⟨t, ht, _, hreport hm _, hwrote, hmem⟩

end Sys2Proof.Machine
end

section
/-! PROOF. The other inputs of the host link, of management and of the monitors (01 R9; 24 R372, R374, R375). -/
namespace Sys2Proof.Machine
open Sys2Proof

/-! ## Resets and firmware (24 R372) -/

/-- A boot keeps what outlasts it, whether the image verifies or not. -/
theorem State.boot_keeps (s : State) (img : List Byte) :
    (s.boot img).host = s.host ∧ (s.boot img).ownerKeys = s.ownerKeys ∧ (s.boot img).teams = s.teams ∧
      (s.boot img).reqs = s.reqs := by
  unfold State.boot
  split <;> exact ⟨rfl, rfl, rfl, rfl⟩

theorem moduleReset_goes (s : State) :
    Goes .moduleReset s (fun t => t.host = s.host ∧ t.ownerKeys = s.ownerKeys ∧ t.teams = [] ∧ t.reqs = []) :=
  ⟨_, rfl, State.boot_keeps s.fresh (s.staged.getD s.image)⟩

theorem firmwareStage_goes (s : State) (a n : DWord) :
    Goes (.firmwareStage a n) s (fun t => t.host = s.host ∧ t.ownerKeys = s.ownerKeys ∧ (s.mode = .powerOff → t = s)) := by
  refine ⟨_, rfl, ?_⟩
  dsimp only
  cases s.mode with
  | running => exact ⟨rfl, rfl, nofun⟩
  | waitFirmware =>
    obtain ⟨hhost, hkeys, -, -⟩ :=
      State.boot_keeps { s with stageaddr := a, stagelen := n } (s.host.bytes a.toNat n.toNat)
    exact ⟨hhost, hkeys, nofun⟩
  | powerOff => exact ⟨rfl, rfl, fun _ => rfl⟩

/-! ## Attestation and seals, in any mode (24 R373, R374) -/

theorem attcmd_goes (s : State) (v : DWord) :
    Goes (.attcmd v) s (fun t => t.mem = s.mem ∧ t.teams = s.teams ∧ (v ≠ 1 → t = s)) := by
  by_cases hv : v = 1
  · refine ⟨_, rfl, ?_⟩
    split
    · exact ⟨rfl, rfl, fun _ => rfl⟩
    · rw [State.writeAt_host]
      exact ⟨rfl, rfl, fun h => absurd hv h⟩
  · exact ⟨s, exec_attcmd_other hv, rfl, rfl, fun _ => rfl⟩

theorem State.startSeal_keeps (s : State) (n op : Nat) :
    (s.startSeal n op).mem = s.mem ∧ (s.startSeal n op).host = s.host ∧ (s.startSeal n op).sealtag = s.sealtag := by
  unfold State.startSeal
  split <;> exact ⟨rfl, rfl, rfl⟩

/-! ## Inputs that set a few fields, under a condition (24 R372, R375) -/

/-- A step under a condition has a property that both outcomes have. -/
theorem goes_ite {i : Instr} {s t : State} {c : Prop} [Decidable c] {P : State → Prop}
    (hi : exec i s = .next (if c then t else s)) (ht : c → P t) (hs : ¬ c → P s) : Goes i s P := by
  refine ⟨_, hi, ?_⟩
  split
  · next h => exact ht h
  · next h => exact hs h

theorem thermalStop_goes (s : State) :
    Goes .thermalStop s (fun t => t = { s with thermalStop := t.thermalStop } ∧ (s.mode = .running → t.thermalStop = true)) :=
  goes_ite rfl (fun _ => ⟨rfl, fun _ => rfl⟩) (fun hdown => ⟨rfl, fun h => absurd (State.up_of_running h) hdown⟩)

theorem droopEvent_goes (s : State) (c : Nat) :
    Goes (.droopEvent c) s (fun t => t = { s with cores := t.cores, teams := t.teams }) := by
  refine ⟨_, rfl, ?_⟩
  split <;> rfl

/-! ## Errors of storage (01 R9, R10, R37) -/

/-- What an error of storage leaves alone. -/
def State.KeepsWork (s t : State) : Prop := t.host = s.host ∧ t.paths = s.paths ∧ t.reqs = s.reqs ∧ t.ops = s.ops

theorem State.KeepsWork.refl (s : State) : s.KeepsWork s := ⟨rfl, rfl, rfl, rfl⟩

theorem State.setFlips_keepsWork (s : State) (u : ErrUnit) (bits : List Nat) : s.KeepsWork (s.setFlips u bits) := by
  cases u with
  | vreg | state | line => exact .refl s
  | bar | dev | spad | acc => unfold State.setFlips; dsimp only; split <;> exact .refl s

theorem State.corrupt_keepsWork (s : State) (u : ErrUnit) : s.KeepsWork (s.corrupt u) := by
  cases u <;> exact .refl s

theorem softError_goes (s : State) (u : ErrUnit) (bs : List Nat) :
    Goes (.softError u bs) s (fun t => t.host = s.host ∧ t.paths = s.paths ∧ t.reqs = s.reqs ∧ t.ops = s.ops) := by
  refine ⟨_, rfl, show s.KeepsWork _ from ?_⟩
  split
  · exact .refl s
  · split
    · exact s.setFlips_keepsWork u _
    · split
      · exact State.setFlips_keepsWork { s with drawn := s.drawn + 1 } u _
      · exact State.corrupt_keepsWork { s with drawn := s.drawn + 1 } u

theorem patrolScrub_goes (s : State) (u : ErrUnit) :
    Goes (.patrolScrub u) s (fun t => t.mem = s.mem ∧ t.tiles = s.tiles ∧ t.groups = s.groups ∧ t.teams = s.teams) := by
  refine ⟨_, rfl, ?_⟩
  cases u with
  | dev pa =>
    dsimp only
    split
    · exact ⟨rfl, rfl, rfl, rfl⟩
    · split <;> exact ⟨rfl, rfl, rfl, rfl⟩
  | spad | acc | vreg | state | bar | line => exact ⟨rfl, rfl, rfl, rfl⟩

/-- The part of O52 about the inputs that every mode answers (01 R9; 24 R372, R374, R375). -/
theorem inputsAnswered : Claim.InputsAnswered := by
  intro s
  refine ⟨moduleReset_goes s, firmwareStage_goes s, attcmd_goes s, fun n => ⟨_, rfl, s.startSeal_keeps n 0⟩,
    fun n => ⟨_, rfl, s.startSeal_keeps n 1⟩, fun k g => goes_ite rfl (fun _ => rfl) (fun _ => rfl),
    fun k g => goes_ite rfl (fun _ => rfl) (fun _ => rfl), fun n => goes_ite rfl (fun _ => rfl) (fun _ => rfl),
    fun w => goes_ite rfl (fun _ => rfl) (fun _ => rfl), fun r => goes_ite rfl (fun _ => rfl) (fun _ => rfl), thermalStop_goes s,
    ⟨_, rfl, rfl⟩, ⟨_, rfl, rfl, rfl⟩, fun b => goes_ite rfl (fun _ => rfl) (fun _ => rfl), droopEvent_goes s, softError_goes s,
    patrolScrub_goes s⟩

/-- Settles O52: every register of the host link, by what a write leaves in it and by what a read of it gives, and its other inputs. -/
theorem hostRegisters : Obligations.HostRegisters :=
  ⟨queueRegisters, partitions, registers, registerReads, sealAndAttest, inputsAnswered⟩

end Sys2Proof.Machine
end
